-- ==== Sys2Proof/Word.lean ====
section
/-!
DEFINITION. The words the manual speaks of and the identifiers of its units.
-/
namespace Sys2Proof

/-- A byte of memory. -/
abbrev Byte := BitVec 8
/-- A 32-bit register word or element. -/
abbrev W32 := BitVec 32
/-- A 64-bit value. -/
abbrev W64 := BitVec 64
/-- A device global address: bits 47:44 select the space (01_organisation, "Basin addresses"). -/
abbrev Addr := BitVec 48

/-- Core ID, R8. -/
abbrev CoreId := Fin 240
/-- Cluster ID, R7. -/
abbrev ClusterId := Fin 60
/-- Field number, R6. -/
abbrev FieldId := Fin 12
/-- HBM side: 0 north, 1 east, 2 south, 3 west, R9. -/
abbrev SideId := Fin 4
/-- HBM4 stack number, R9. -/
abbrev StackId := Fin 24
/-- Power domain and clock region ID, Table SCOPE-3. -/
abbrev RegionId := Fin 80
/-- Mailbox context, R343. -/
abbrev CtxId := Fin 4096
/-- Temperature sensor, R423. -/
abbrev SensorId := Fin 96
/-- VCORE phase group, R403. -/
abbrev GroupId := Fin 73
/-- Ethernet port. -/
abbrev PortId := Fin 16
/-- One of the twin arrays of a core. -/
abbrev TwinId := Fin 2

end Sys2Proof
end

