-- ==== Sys2Proof/Syntax.lean ====
section
/-!
DEFINITION. The commands and events of the part: one constructor of `Instr` per row of
spec/opcode_table.json, with the records their operands are made of.  The table gives the rows no
bits, so an operand is what the rule of the row names (log entry 1).  An operand that is a physical
observation (a temperature, the lanes that pass training, a disturbed bit) carries what the device
observes at that event (log entry 2).
-/
namespace Sys2Proof

/-! ### Formats and modes -/

/-- The number formats of Table FMT-1. -/
inductive Fmt where
  | fp32 | bf16 | fp16 | e4m3 | e5m2 | mxfp6 | mxfp4 | mxint8 | int8 | int4 | g12 | int32
deriving DecidableEq, Repr

/-- Step mode of a tile pass, Table ARR-1. -/
inductive StepMode where
  | m8 | m4 | m16
deriving DecidableEq, Repr

/-- A whole array, or one half of a split array (R84). -/
inductive Half where
  | whole | left | right
deriving DecidableEq, Repr

/-- Function of step 5 of the drain (Table ARR-4) and of its derivatives (Table BWD-3). -/
inductive Func where
  | identity | relu | leaky | clamp | gelu | silu | sigmoid | tanh
deriving DecidableEq, Repr

/-- Register formats of the vector engine (R116). -/
inductive VFmt where
  | f32 | b16 | h16 | i32
deriving DecidableEq, Repr

/-- Service class, R317. -/
inductive Cls where
  | senior | standard | junior
deriving DecidableEq, Repr

/-- One of the two 50 V feeds. -/
inductive Feed where
  | a | b
deriving DecidableEq, Repr

/-! ### Mailbox commands -/

/-- The header of a command descriptor, Table HGM-7, after it has been read from its ring. -/
structure Hdr where
  ctx : CtxId
  tag : W32
  irq : Bool
  fence : Bool
  quiet : Bool
  /-- class code 0-3 -/
  cls : Nat
  /-- target partition byte -/
  part : Nat
  /-- some reserved field of the descriptor is non-zero (R13) -/
  rsvd : Bool
deriving DecidableEq, Repr

/-- A byte range of a scratchpad. -/
structure Range where
  off : Nat
  len : Nat
deriving DecidableEq, Repr

/-- How a run-time extent follows from the shape variables, R351. -/
inductive Extent where
  | const (n : Nat)
  | var (v mul : Nat)
deriving DecidableEq, Repr

/-- A loop trip count: an extent divided by what one trip covers, rounded up (R100, R351). -/
structure Trip where
  extent : Extent
  per : Nat
deriving DecidableEq, Repr

/-- A loop nest of a schedule: its trip counts, and the counted cycles of one pass through it. -/
structure Loop where
  trips : List Trip
  cycles : Nat
deriving DecidableEq, Repr

/-- A product of a stage: operand formats, extents and plan bounds (R43, R97), the half of a split array that computes it (R84),
its loops, and the tokens that it sends (R98). -/
structure ProductRec where
  wfmt : Nat
  xfmt : Nat
  m : Extent
  k : Extent
  n : Extent
  mBound : Nat
  kBound : Nat
  nBound : Nat
  half : Half
  loops : List Loop
  tokens : Nat
deriving DecidableEq, Repr

/-- The 64-byte DMA descriptor of Table BASIN-9. -/
structure DmaDesc where
  op : Byte
  kind : Byte
  srcFmt : Byte
  ctl : Byte
  count : Nat
  src : W64
  dst : W64
  srcSf : W64
  dstSf : W64
  rows : Nat
  srcPitch : Nat
  dstPitch : Nat
  target : Nat
  index : Nat
  gen : Byte
  buf : Nat
  flags : Byte
  unit : Nat
  /-- bytes 63:60 -/
  rsvd : W32
deriving DecidableEq, Repr

/-- Functions of Table VEC-2. -/
inductive TFn where
  | exp2 | log2 | exp | log | recip | rsqrt | sqrt | tanh | sigmoid | gelu | silu
deriving DecidableEq, Repr

/-- Instruction kinds of Tables VEC-1 to VEC-3, which fix the issue slot and the latency; a converting store carries its control
byte and its element count. -/
inductive VKind where
  | farith | minMax | compare | int | intMul | convert (ctl : Byte) | fn (f : TFn) | permute
  | load | cvtLoad (src : Nat) | store | cvtStore (ctl : Byte) (count : Nat) | reduce
deriving DecidableEq, Repr

/-- Access rights of a segment, Table PRG-2. -/
inductive Right where
  | rd | wr | add | exp
deriving DecidableEq, Repr

/-- One event of a stage's schedule, as PROGRAM_LOAD verifies it (Table PRG-1). `cyc` is the
schedule-counter value. -/
inductive SchedEv where
  /-- weight load issue, R62, R64, R67; from the core's own scratchpad at an offset, or from elsewhere -/
  | load (half : Half) (cyc : Nat) (transposing : Bool) (fmt k w : Nat) (own : Option Nat)
  /-- swap slot of a twin, R63 -/
  | swap (twin : Nat) (half : Half) (cyc : Nat)
  /-- a step unit with its operand formats, R84, R88 -/
  | stepUnit (half : Half) (cyc wfmt xfmt : Nat)
  /-- opening of an accumulator bank, R68 -/
  | bankOpen (bank : Nat) (half : Half) (cyc : Nat)
  /-- the drain's last read of a bank, R68 -/
  | drainEnd (bank : Nat) (half : Half) (cyc : Nat)
  /-- a conversion of the drain: its control byte and the columns of a row (R33, R46, R52) -/
  | drain (cyc : Nat) (ctl : Byte) (width : Nat)
  /-- a vector or reduction instruction: registers 0-31, masks 32-39, accumulators 40-43 (R119, R120); a fold continues the
  accumulator that it writes (R124) -/
  | vec (kind : VKind) (cyc : Nat) (reads writes : List Nat) (fold : Bool)
  /-- a scheduled scratchpad access of `len` bytes, R122, R141, R145 -/
  | access (cyc off len : Nat) (isWrite : Bool)
  /-- a transposed read, R138, R139 -/
  | transposed (cyc off pitch fmt : Nat)
  /-- a mask-bit slot written, filled (true) or read (false), R208 -/
  | maskSlot (cyc slot : Nat) (isWrite : Bool)
  /-- a DMA descriptor, R166 -/
  | dma (cyc : Nat) (d : DmaDesc)
  /-- an address outside the scratchpad that the image fixes, R308 -/
  | static (addr len : Nat) (right : Right)
  /-- a flume pass (false) or scheduled furrow request (true) on the core's own block, R196 -/
  | engine (first last : Nat) (furrow : Bool)
  /-- the device rewrites a weight tensor, R227 -/
  | rewrite (cyc tensor : Nat)
  /-- a side-table refresh of a tensor, R227 -/
  | refresh (cyc tensor : Nat)
  /-- an array reads a weight tensor, R227 -/
  | weights (cyc tensor : Nat)
  /-- a token sent, or waited for: a free token or a write token of a buffer of a window of its consumer (R109, R110) -/
  | send (cyc : Nat) (free : Bool) (consumer index buf : Nat)
  | wait (cyc : Nat) (free : Bool) (consumer index buf : Nat)
  /-- a step boundary, R111 -/
  | boundary (cyc : Nat)
deriving DecidableEq, Repr

/-- A compiled window or range: the core, its kind, its index and its 16-byte descriptor (Tables BASIN-5, BASIN-6). -/
structure WindowRec where
  core : Nat
  turnout : Bool
  index : Nat
  desc : BitVec 128
deriving DecidableEq, Repr

/-- A relief placement of a stage, R300. -/
structure Relief where
  core : Nat
  width : Nat
  left : Nat
  sched : List SchedEv
  windows : List WindowRec
deriving DecidableEq, Repr

/-- A record of the stage table, Table PRG-1. -/
structure StageRec where
  core : Nat
  pipe : Nat
  pos : Nat
  /-- governed layer whose stream the stage converts (R217) -/
  layer : Option Nat
  /-- governed layer whose stream the stage takes in, if any (R218) -/
  layerIn : Option Nat
  /-- scratchpad offset of the scale vector of its governed drain, and of the gscale of its layer's optimiser request (R218) -/
  scaleOff : Option Nat
  gscaleOff : Option Nat
  width : Nat
  left : Nat
  /-- bytes of its sequencer program -/
  bytes : Nat
  waitLimit : Nat
  /-- budget C at the plan bounds -/
  budget : Nat
  products : List ProductRec
  /-- loops of its steps that are no product -/
  loops : List Loop
  sched : List SchedEv
  /-- its schedules for other formats of its governed layer (R220), as Table BWD-5 codes them -/
  variants : List (Nat × List SchedEv)
  /-- commit ranges, R292: device addresses and bytes -/
  commit : List Range
  persistent : List Range
  twoD : List Range
  /-- token-store entries the stage needs, R260 -/
  tokens : Nat
  /-- buffers of each ring it owns, R110 -/
  rings : List Nat
  reliefs : List Relief
deriving DecidableEq, Repr

/-- The tensor descriptor of Table PRG-7. -/
structure TensorDesc where
  index : Nat
  fmt : Byte
  flags : Byte
  k : Nat
  n : Nat
  ktile : Nat
  width : Nat
  left : Nat
  sfOffset : Nat
  entry : Nat
  rsvd : W32
deriving DecidableEq, Repr

/-- The records of a placement image (Table PRG-1), as its sections decode. -/
structure Image where
  version : Nat
  lanes : Nat
  checks : Bool
  trained : Bool
  /-- usable ring depth of each pipeline, R303 -/
  depths : List Nat
  stages : List StageRec
  windows : List WindowRec
  /-- multicast groups: source endpoint and target cores, R269 -/
  groups : List (Nat × List Nat)
  poolRanges : List (BitVec 128)
  tensors : List TensorDesc
  /-- governed layers, R220 -/
  governed : Nat
deriving DecidableEq, Repr

/-! ### Packets and messages -/

/-- A canal packet: the fields of Table CAN-2 that its target reads, and its payload. -/
structure Packet where
  cls : Cls
  len : Nat
  mcast : BitVec 2
  dst : Nat
  src : Nat
  part : Nat
  /-- address bits 47:6, or the value Table CAN-3 gives -/
  addr : BitVec 42
  index : Nat
  gen : Byte
  aux : BitVec 16
  fmask : BitVec 20
  wkind : BitVec 2
  data : List Byte
deriving DecidableEq, Repr

/-- Packet types, Table CAN-3. -/
inductive PType where
  | write | writeAdd | readReq | readReply | writeToken | freeToken | check | engineReq | ack | error | ctrl | inval
deriving DecidableEq, Repr

/-- What the forward error correction made of a flit, R330. -/
inductive Fec where
  | clean | corrected | failed
deriving DecidableEq, Repr

/-- Kinds of Brivlink flit, Table HGM-1. -/
inductive FlitKind where
  | payload | idle | replayRequest | reserved
deriving DecidableEq, Repr

/-- A received Brivlink flit (Table HGM-1): its control fields, the message headers that it holds, in slot order, and its CRC. -/
structure RxFlit where
  fec : Fec
  fseq : BitVec 10
  ack : BitVec 10
  kind : FlitKind
  /-- first slot that holds a header, or 31 -/
  first : BitVec 5
  headers : List (BitVec 64)
  crc : BitVec 32
deriving DecidableEq, Repr

/-! ### Core work -/

/-- A weight load, R62: where the tile, its block fields and its side-table entry lie. -/
structure LoadOp where
  half : Half
  fmt : Fmt
  /-- reduction rows of the tile -/
  k : Nat
  /-- columns of the tile and of its left half -/
  w : Nat
  left : Nat
  data : Addr
  sf : Addr
  side : Addr
deriving DecidableEq, Repr

/-- Where the activation rows of a unit come from: scratchpad rows, with their pitch and that of their block fields, or rows of
transposed reads, named by the offsets of the reads that cover the reduction tile in order (R138, R199). -/
inductive RowSrc where
  | plain (off pitch sfOff sfPitch : Nat)
  | transposed (reads : List Nat) (row : Nat)
deriving DecidableEq, Repr

/-- A step unit, R60: rows of activations, or the checksum pair of R72 at two scratchpad offsets. -/
structure StepOp where
  twin : TwinId
  half : Half
  swap : Bool
  /-- the unit carries the checksum pair, not data rows -/
  pair : Bool
  bank : Fin 2
  xfmt : Fmt
  /-- first row of the unit within its output tile -/
  row : Nat
  src : RowSrc
  /-- offsets of the checksum rows 1ᵀX and vᵀX of a checksum-pair unit -/
  sums : Nat
  wsums : Nat
  /-- disturbed accumulator bits: row, column, pattern (a physical fault; none in a healthy array) -/
  upset : List (Nat × Nat × W32)
deriving DecidableEq, Repr

/-- A second copy that the same drain writes: its control byte, the place of its own checksum pair and row records (R200). -/
structure CopyEpi where
  ctl : Byte
  pairOff : Option Nat
  recordOff : Option (Nat × Nat × Nat)
deriving DecidableEq, Repr

/-- The fused steps of a drain (Table ARR-4). A scale or bias is none, or a vector of FP32 at a scratchpad offset. -/
structure Epilogue where
  scaleOff : Option Nat
  biasOff : Option Nat
  func : Func
  slope : W32
  lo : W32
  hi : W32
  /-- backward drain: multiply by the derivative, from the element stream at this offset and format (R211) -/
  backward : Bool
  sideOff : Nat
  sidePitch : Nat
  sideFmt : Fmt
  /-- mask-bit slots of the function plane and the keep plane (R207) -/
  fnSlot : Option (Fin 128)
  keepSlot : Option (Fin 128)
  /-- dropout keep threshold and factor (R78) -/
  dropout : Option (BitVec 16 × W32)
  /-- the conversion stream that the schedule names (R56); the stream is the governed one (R217) -/
  stream : Option Nat
  governed : Bool
  ctl : Byte
  /-- row group and column tile of the output tile within its product (R54) -/
  group : Nat
  nTile : Nat
  /-- raw epilogue of R70: steps 3-6 and 9 skipped -/
  raw : Bool
  /-- consumer's checksum pair area (step 9), row records (R202) -/
  pairOff : Option Nat
  recordOff : Option (Nat × Nat × Nat)
  copy : Option CopyEpi
deriving DecidableEq, Repr

/-- A drain read of one row pair (R74, R75). -/
structure DrainOp where
  twin : TwinId
  half : Half
  bank : Fin 2
  epi : Epilogue
deriving DecidableEq, Repr

/-- An accumulator bank of a twin: of the whole array or of one half (R68, R84). -/
structure BankOf where
  half : Half
  bank : Fin 2
deriving DecidableEq, Repr

/-- Where a vector load or store lies: its register format and its scratchpad offset (R116, R122). -/
structure VPlace where
  fmt : VFmt
  off : Nat
deriving DecidableEq, Repr

/-- What a survey finds: ledger entries of its memory and array patterns, and the pattern-log entries whose replay differs (R239). -/
structure Finds where
  found : List W32
  replays : List (Nat × W32)
deriving DecidableEq, Repr

/-- Where a verified tile is committed (R79, R80): the own scratchpad, a window of another core, a pinned pool range; written,
or added by furrow (R104). -/
inductive CommitDest where
  | spad (off pitch sfOff sfPitch : Nat)
  | remote (core index : Nat) (gen : Byte) (off pitch sfOff sfPitch : Nat)
  | furrowAdd (off pitch : Nat)
  | pool (addr : Addr) (pitch : Nat)
  | poolAdd (addr : Addr) (pitch : Nat)
deriving DecidableEq, Repr

/-- Where a tile is committed, and where its second copy goes, if the drain forms one (R200). -/
structure CommitDests where
  dest : CommitDest
  copy : Option CommitDest
deriving DecidableEq, Repr

/-- Accumulator contents seen on a rerun of a tile by the repeat procedure (R233): row, column, value. -/
structure Rerun where
  acc : List (Nat × Nat × W32)
  colChk : List (Nat × Nat × W32)
  rowChk : List (Nat × Nat × W32)
deriving DecidableEq, Repr

/-- What the repeat procedure captures of the first differing pass (R238): the accumulator entering it, both
arrays' values after it, and the operands. -/
structure Capture where
  entering : W32
  observed : W32
  expected : W32
  acts : List Byte
  weights : List Byte
  blocks : List Byte
deriving DecidableEq, Repr

/-- A vector source operand: a register, or an accumulator field as a broadcast (05, "The reduction unit"). -/
inductive VSrc where
  | reg (r : Fin 32)
  | acc (a : Fin 4) (hi : Bool)
deriving DecidableEq, Repr

inductive FOp where
  | add | sub | mul | fma | abs | neg | copysign
deriving DecidableEq, Repr

inductive CmpOp where
  | eq | ne | lt | le | unordered | select | kand | kor | knot
deriving DecidableEq, Repr

inductive IOp where
  | add | sub | shl | shr | sar | and | or | xor | min | max
deriving DecidableEq, Repr

inductive PermOp where
  | rotate (n : Nat) | broadcast (lane : Nat) | gather (idx : Fin 32) | interleave (b : Fin 32) | deinterleave (b : Fin 32)
deriving DecidableEq, Repr

/-- Register conversions of Table VEC-1. -/
inductive CvtOp where
  /-- two FP32 sources to one BF16 or FP16 register, under a control byte -/
  | narrow (into : VFmt) (ctl : Byte)
  /-- the low (false) or high (true) half of a 16-bit register to FP32 -/
  | widen (src : VFmt) (high : Bool) (ctl : Byte)
  | intToF32 (ctl : Byte)
  | f32ToInt (ctl : Byte)
deriving DecidableEq, Repr

/-- A reduction, R124. -/
structure RedOp where
  fmt : VFmt
  src : Fin 32
  mask : Fin 8
  acc : Fin 4
  init : Bool
  /-- base index of an argmax, R126 -/
  base : W32
deriving DecidableEq, Repr

/-- A converting store, R129, R130. -/
structure CStoreOp where
  src : Fin 32
  mask : Fin 8
  fmt : VFmt
  /-- second half of a 16-bit register -/
  second : Bool
  ctl : Byte
  off : Nat
  sfOff : Nat
  /-- the conversion stream that the instruction names (R129) -/
  stream : Option Nat
  governed : Bool
  mTile : Nat
  nTile : Nat
  reseed : Bool
  /-- consumer's checksum rows: output row, tile width -/
  rows : Option (Nat × Nat)
  /-- the accumulated pair is written at this offset (the later store of R130) -/
  pairOff : Option Nat
deriving DecidableEq, Repr

/-- Tokens that a stage sends (R109, R111). -/
inductive TokenOp where
  | write (target index buf bytes : Nat)
  | free (target index buf : Nat)
  | grant (target index units : Nat)
deriving DecidableEq, Repr

/-- What a wait point waits for (R110, R111, R183). -/
inductive WaitFor where
  | writeToken (index buf : Nat)
  | freeToken (target index buf : Nat)
  | checks (boundary : Nat)
  | flume (pass : Nat)
  | furrow (request : Nat)
deriving DecidableEq, Repr

/-- The commands and events of the part, in the order of spec/opcode_table.json. -/
inductive Instr where
  -- mailbox commands, Table HGM-9
  | identify (h : Hdr) (dest : W64)
  | partitionCreate (h : Hdr) (block : W64)
  | partitionDestroy (h : Hdr)
  | partitionReset (h : Hdr)
  | clusterReset (h : Hdr) (cluster : Nat)
  | coreReset (h : Hdr) (core : Nat)
  | programLoad (h : Hdr) (image : W64) (bytes reserved : Nat) (img : Image)
  | programUnload (h : Hdr) (program : Nat)
  | modelAttach (h : Hdr) (program policies tensors : Nat) (tensorTable policyArray : W64)
  | pinWeights (h : Hdr) (matrix side : W64) (n k fmt destKind : Nat) (dest : W64) (destBytes : Nat)
  | unpinWeights (h : Hdr) (handle : Nat)
  | dispatch (h : Hdr) (model steps : Nat) (seed input output : W64) (deadline : Nat) (shape : List Nat)
  | cancel (h : Hdr) (target : W32)
  | windowOpen (h : Hdr) (core kind index : Nat) (desc : BitVec 128)
  | windowClose (h : Hdr) (core kind index : Nat)
  | creditGrant (h : Hdr) (core index units : Nat)
  | secureConfig (h : Hdr) (n : Nat) (block : W64) (bytes : Nat)
  | reliefAssign (h : Hdr) (role : Nat) (block : W64) (bytes : Nat)
  | reliefTakeOver (h : Hdr) (role : Nat) (block : W64) (bytes : Nat)
  | reliefStandDown (h : Hdr) (role : Nat) (block : W64) (bytes : Nat)
  | checkpointExport (h : Hdr) (src : W64) (bytes : Nat) (dest : W64) (path conn : Nat)
  | allotmentSet (h : Hdr) (scope allot window ceiling : Nat)
  | telemetryRead (h : Hdr) (buf : W64) (bytes first : Nat)
  | surveyRun (h : Hdr) (scope target : Nat) (kinds : Byte) (finds : Finds)
  | fallowRead (h : Hdr) (buf : W64) (first count : Nat)
  | attest (h : Hdr) (buf : W64) (bytes : Nat) (nonce : BitVec 256)
  | firmwareReload (h : Hdr) (image : W64) (bytes : Nat)
  | reloadProper
  -- mailbox rings
  | commandDoorbell (ctx : CtxId) (index : W32)
  | completionConsumerWrite (ctx : CtxId) (index : W32)
  | contextConfigWrite (ctx : CtxId) (value : W32)
  | contextRingBaseWrite (ctx : CtxId) (which : Fin 4) (value : W32)
  | commandRead (ctx : CtxId)
  | descriptorReadFail (ctx : CtxId)
  | completionWrite (ctx : CtxId) (acked : Bool)
  | interruptWrite (ctx : CtxId)
  | telemetryPush
  -- register writes and reads with effects of their own
  | bootGo
  | bootCtlDeviceReset
  | hbIlvWrite (side : SideId) (value : W32)
  | sharedWindowWrite (value : W32)
  | scrubCfgWrite (side : SideId) (value : W32)
  | telemetryCfgWrite (value : W32)
  | emergencyAllotmentWrite (value : W32)
  | headgateCountLoRead
  | ethTsLoRead (port : PortId)
  | registerWrite (off : Nat) (value : W32)
  -- management interface and test port
  | i3cPointerWrite (value : W32)
  | i3cPrivateRead
  | i3cDynamicAddress (address : BitVec 7)
  | jtagBypass
  | jtagIdcode
  | jtagSamplePreload (cells : List Bool)
  | jtagExtest
  -- feeds, pins and boot
  | feedPresent (feed : Feed) (centivolts : BitVec 16) (mated : Bool)
  | feedOvervoltage (feed : Feed) (centivolts : BitVec 16)
  | feedLost (feed : Feed)
  | bothFeedsLost (absentNs : Nat)
  | resetNAssert (lowNs : Nat)
  | resetNRelease
  | powerBrakeAssert (lowNs : Nat)
  | emergencyEnd
  | deviceReset
  | vaonGood (refsel addr1 addr0 : Bool)
  | headgatePowerUp
  | rotationWave (wave : Fin 8)
  | generatorLock (region : RegionId)
  | brivlinkTraining (lanes : BitVec 16) (reversed : Bool) (inverted : BitVec 16)
  | imageFetch
  | imageVerify
  | firmwareStart
  | laneSurvey (found : List W32)
  | hbmInitialisation (untrained : List (StackId × Fin 32)) (repaired : List W32)
  | ethernetPortTraining (port : PortId) (lanes : Byte) (kr : Bool)
  | startUpSurvey (finds : Finds)
  | ledgerEntryProgram (entry : W32)
  | readinessDecision
  | fuseUpdate
  | bootScrub
  -- Brivlink
  | flitReceive (f : RxFlit)
  | replayRequest (ack : BitVec 10)
  | idleFlitSend
  | linkRecovery (realigned : Bool)
  | linkRetrain (lanes : BitVec 16) (reversed : Bool) (inverted : BitVec 16)
  | rd (tag : BitVec 11) (line : BitVec 42) (lines : Nat)
  | rdShared (tag : BitVec 11) (line : BitVec 42)
  | rdOwn (tag : BitVec 11) (line : BitVec 42)
  | evict (tag : BitVec 11) (line : BitVec 42)
  | wr (tag : BitVec 11) (line : BitVec 42) (data : List Byte)
  | wrPart (tag : BitVec 11) (line : BitVec 42) (mask : W64) (data : List Byte)
  | writeback (tag : BitVec 11) (line : BitVec 42) (data : List Byte)
  | snpRsp (tag : BitVec 11) (status : Byte)
  | snpRspData (tag : BitVec 11) (data : List Byte)
  | cpl (tag : BitVec 11) (status : Byte)
  | cplData (tag : BitVec 11) (data : List Byte)
  | credit (req rsp snp : Byte) (dat : BitVec 12)
  | snoopTimeout (line : BitVec 42)
  -- canal packets arriving at their target
  | write (p : Packet)
  | writeAdd (p : Packet)
  | readReq (p : Packet)
  | readReply (p : Packet)
  | writeToken (p : Packet)
  | freeToken (p : Packet)
  | check (p : Packet)
  | engineReq (p : Packet)
  | ack (p : Packet)
  | error (p : Packet)
  | ctrl (p : Packet)
  | inval (p : Packet)
  | flitCrcError (router : CoreId) (dir : Fin 4)
  | creditWord (router : CoreId) (dir : Fin 4) (word : W32)
  | canalLinkDown (router : CoreId) (dir : Fin 4)
  | routeRecompute
  -- sequencer, arrays and drain
  | taskStart (program pipe : Nat)
  | weightLoadIssue (core : CoreId) (op : LoadOp)
  | transposingLoadIssue (core : CoreId) (op : LoadOp)
  | stepUnitSlot (core : CoreId) (op : StepOp)
  | bankOpen (core : CoreId) (twin : TwinId) (half : Half) (bank : Fin 2) (rows : Nat) (integer : Bool)
  | markFinal (core : CoreId) (twin : TwinId) (half : Half) (bank : Fin 2)
  | drainRead (core : CoreId) (op : DrainOp)
  | checksumVerdict (core : CoreId) (twin : TwinId) (tile : BankOf)
  | tileCommit (core : CoreId) (twin : TwinId) (tile : BankOf) (dests : CommitDests)
  | repeatProcedure (core : CoreId) (twin : TwinId) (tile : BankOf) (own other magnitude : Rerun) (firstPass : Nat) (cap : Capture)
  | repeatComplete (core : CoreId) (twin : TwinId) (tile : BankOf)
  -- vector engine and reduction unit
  | vectorFloatArithmetic (core : CoreId) (op : FOp) (fmt : VFmt) (d : Fin 32) (a b c : VSrc) (mask : Fin 8)
  | vectorMinMax (core : CoreId) (max : Bool) (fmt : VFmt) (d : Fin 32) (a b : VSrc) (mask : Fin 8)
  | vectorCompareSelect (core : CoreId) (op : CmpOp) (fmt : VFmt) (d : Nat) (a b : VSrc) (k1 k2 : Fin 8)
  | vectorInteger (core : CoreId) (op : IOp) (d : Fin 32) (a b : VSrc) (mask : Fin 8)
  | vectorIntegerMultiply (core : CoreId) (d : Fin 32) (a b : VSrc) (mask : Fin 8)
  | vectorRegisterConversion (core : CoreId) (op : CvtOp) (d a b : Fin 32) (mask : Fin 8)
  | vectorTranscendental (core : CoreId) (fn : TFn) (fmt : VFmt) (d : Fin 32) (a : VSrc) (sub : Option VSrc) (mask : Fin 8)
  | vectorPermute (core : CoreId) (op : PermOp) (wide : Bool) (d : Fin 32) (a : VSrc) (mask : Fin 8)
  | vectorLoad (core : CoreId) (d : Fin 32) (place : VPlace) (mask : Fin 8)
  | convertingLoad (core : CoreId) (d : Fin 32) (src : Fmt) (fmt : VFmt) (second : Bool) (off sfOff : Nat) (mask : Fin 8)
  | vectorStore (core : CoreId) (a : Fin 32) (place : VPlace) (mask : Fin 8)
  | convertingStore (core : CoreId) (op : CStoreOp)
  | reduceSum (core : CoreId) (op : RedOp)
  | reduceSumOfSquares (core : CoreId) (op : RedOp)
  | reduceMax (core : CoreId) (op : RedOp)
  | reduceMin (core : CoreId) (op : RedOp)
  | reduceArgmax (core : CoreId) (op : RedOp)
  | reduceLogSumExp (core : CoreId) (op : RedOp)
  -- scratchpad, DMA, flume and furrow
  | transposedRead (core : CoreId) (off pitch : Nat) (fmt : Fmt)
  | dmaCopy (core : CoreId) (d : DmaDesc)
  | dmaConvertingCopy (core : CoreId) (d : DmaDesc)
  | dmaZeroFill (core : CoreId) (d : DmaDesc)
  | flumePassIssue (core : CoreId) (desc : BitVec 128)
  | flumePassStart (field : FieldId)
  | flumeInputFilled (pass : Nat)
  | flumeVerdict (pass : Nat) (upset : List (Nat × Nat × W32))
  | flumePassComplete (pass : Nat)
  | acc (core : CoreId) (req : BitVec 256)
  | axpby (core : CoreId) (req : BitVec 256)
  | scatterAdd (core : CoreId) (req : BitVec 256)
  | momentum (core : CoreId) (req : BitVec 256)
  | adam (core : CoreId) (req : BitVec 256)
  | furrowRowWrite (field : FieldId) (block : Fin 32) (firstUpset secondUpset : W32)
  | furrowRequestComplete (request : Nat)
  -- tokens, waits and boundaries
  | tokenSend (core : CoreId) (op : TokenOp)
  | waitPoint (core : CoreId) (w : WaitFor)
  | rowFence (core : CoreId) (addr bytes : Nat)
  | stepBoundaryCheck (core : CoreId)
  | grantInstruction (core : CoreId) (index units : Nat)
  | scheduleWindowOpen (core : CoreId) (turnout : Bool) (index : Nat) (desc : BitVec 128)
  | scheduleWindowClose (core : CoreId) (turnout : Bool) (index : Nat)
  | maskSlotSpill (core : CoreId) (slot : Fin 128) (off : Nat)
  | maskSlotFill (core : CoreId) (slot : Fin 128) (off : Nat)
  | commitCheck (core : CoreId) (upset : List (Nat × List (Nat × Nat)))
  | intakePass (core : CoreId) (fmt : Fmt) (rows k off pitch pairOff : Nat)
  | sideTableRefresh (core : CoreId) (fmt : Fmt) (k w left : Nat) (tile sf side : Addr)
  | eccHoldEnd (core : CoreId)
  | stallReport (core : CoreId)
  | deferredWriteLand (granule : Nat)
  | partialWriteLand (granule : Nat)
  | correctionWriteBack (granule : Nat)
  | patrolScrub (addr : Addr) (upset : List (Nat × Nat))
  -- stacked memory and field pool
  | hbmRead (addr : Addr) (port : Nat) (part : Nat) (upset : List (Nat × Nat))
  | hbmWrite (addr : Addr) (port : Nat) (part : Nat) (data : List Byte)
  | hbmRefresh (stack : StackId)
  | poolRead (core : CoreId) (addr : Addr) (upset : List (Nat × Nat))
  | cacheFillReturn (field : FieldId) (line : Nat)
  | mergeTargetSplit (field : FieldId) (line : Nat) (target : CoreId)
  | poolRangeChange (field : FieldId) (index : Nat)
  -- headgate scheduling
  | admissionFillSlot (program pipe : Nat)
  | programSwitch (program pipe : Nat)
  | juniorDeadlineExpiry (seq : Nat)
  | stepBoundaryActions (program pipe : Nat)
  | governorDecision (model layer : Nat) (late : Bool)
  | bestEffortSample (core checker : CoreId) (matched reproduced : Bool)
  | suspectEvent (isBlock : Bool) (unit : Nat)
  | inFieldSurvey (isBlock : Bool) (unit : Nat) (kinds : Byte) (finds : Finds)
  | coreSilenceTimeout (core : CoreId)
  | stageLost (core : CoreId)
  | reliefPlacementApply (program stage cause : Nat)
  | surveyDue (core : CoreId)
  | surveyDeferralLimit (core : CoreId)
  | surveyOverdueReport (core : CoreId)
  | checksDisabledReport (part : Nat)
  -- power and heat
  | powerSample (feedA feedB amilliA amilliB : Nat) (domains : List (Nat × Nat × Nat))
  | allotmentControl (part : Option Nat) (meanMs meanWin : Nat)
  | allotmentWindowEnd (inputUj : Nat)
  | overrunReport (part : Option Nat) (mean : Nat)
  | phaseGroupLatch (group : GroupId)
  | phaseGroupRepower (group : GroupId)
  | setpointRaise (region : RegionId)
  | setpointRelax (region : RegionId)
  | settingChange (region : RegionId)
  | temperatureSample (readings : List (Nat × Int))
  | thermalLevelAct (sensor : SensorId)
  | thermalLadderStep (region : RegionId)
  | clusterShed (cluster : ClusterId)
  | fieldShed (field : FieldId)
  | shedHaltTimeout (program pipe : Nat)
  | shedReturn (domain : Fin 72)
  | hardwareTrip (sensor : SensorId) (celsius : Nat)
  -- clocks
  | gaugeWarning (region : RegionId) (margin : Nat)
  | spillRequest (region : RegionId) (margin : Nat)
  | spill (region : RegionId)
  | lockLoss (region : RegionId)
  | holdoverReport (region : RegionId)
  | referenceLoss
  | referenceReturn
  | bypassReengage (crossing : Nat)
  | correlationMark
  | correlationRecord (agent : SensorId)
  -- securing and relief
  | securePointCapture (part : Nat)
  | secureSend (part : Nat)
  | epochCommit (ring : Nat)
  | commitNotice (part : Nat) (epoch : Nat)
  | heartbeat
  | heartbeatReceive (member : Nat) (heard : List Nat)
  | memberLost (member : Nat)
  | selfFence (order : Bool)
  | reliefDeviceSilent
  | takeover (member : Nat) (tensors : List Range) (ports : List Nat) (stepsLost ms : Nat)
  | rollbackNotice (epoch : Nat)
  -- Ethernet
  | ethFecLimit (port : PortId) (codewords : Nat)
  | ethPacketReceive (port : PortId) (conn : Nat) (data : List Byte)
  | ethPacketSend (port : PortId) (conn : Nat) (src : Addr) (bytes : Nat)
  | generatorRelock (region : RegionId)
  | crossingSkewLeftWindow (crossing : Nat)
  | powerBrakeRelease
  | orderlyPowerDown
deriving DecidableEq, Repr

end Sys2Proof
end

