-- ==== Sys2Proof/Decode.lean ====
section
/-!
DEFINITION. Decoding of table words.  spec/opcode_table.json gives none of its rows any bits, so no
word spells a command.
-/
namespace Sys2Proof

/-- The command that a word of the table spells: none, as no row has bits. -/
def decodeTableWord (nbits w : Nat) : Option Instr :=
  match nbits, w with
  | _, _ => none

end Sys2Proof
end

