-- ==== Sys2Proof/Config.lean ====
section
/-!
DEFINITION. What the manual leaves open: opaque constants with no body, so that a statement holds for
every value of them (log entry 7).
-/
namespace Sys2Proof.Config

/-- Byte of undefined memory: fill number, address (R144, R152, R428). -/
opaque freeByte : Nat → Nat → Byte
/-- A fresh free word: draw number (what a reset leaves in a register, Table BOOT-7). -/
opaque freeWord : Nat → W32
/-- A transcendental function of Table VEC-2 or ARR-4 on finite operands (accuracy stated, bits not): function number, FP32 operand. -/
opaque func : Nat → W32 → W32
/-- A derivative of Table BWD-3 whose bits are not stated: function number, FP32 side element. -/
opaque deriv : Nat → W32 → W32
/-- A vector result that the manual states for no such operand: operation (0 shl, 1 shr, 2 sar by 32 or more, 3 gather beyond the register), operands. -/
opaque lane : Nat → W32 → W32 → W32
/-- The retry hint of R314, in microseconds: draw number. -/
opaque hint : Nat → W32
/-- SHA-512 of a byte string, as 64 bytes in the order of FIPS 180-4 (R451). -/
opaque sha512 : List Byte → BitVec 512
/-- ECDSA P-521 verification: public key, signature, message digest (R453). -/
opaque ecdsaVerify : List Byte → List Byte → BitVec 512 → Bool
/-- ECDSA P-521 signature by the identity key (R452): message digest; r then s, 66 bytes each. -/
opaque ecdsaSign : BitVec 512 → List Byte
/-- Phase at which best-effort sampling starts in a step (R242, drawn afresh): draw number. -/
opaque sampleStart : Nat → Nat

/-- The relief device's answer whether its area holds a member's slots (R363, R370): draw number. -/
opaque reliefRoom : Nat → Bool

/-- Nguvoa's manufacturer identity in IDCODE (R470). -/
opaque manufacturer : BitVec 11

end Sys2Proof.Config
end

