-- ==== Sys2Proof/Machine/Num.lean ====
section
/-!
DEFINITION. Numbers: exact values, the element formats of Tables FMT-1 and FMT-2, the conversion
rules R46-R51 and the generator of R53 (02_number_formats).  A finite value is an exact dyadic
number, so that every rounding is written once and stands where the manual puts it.
-/
namespace Sys2Proof.Machine

/-- A value of arithmetic: (−1)^neg × man × 2^exp exactly, an infinity, or the one NaN (R39). -/
inductive FV where
  | num (neg : Bool) (man : Nat) (exp : Int)
  | inf (neg : Bool)
  | nan
deriving DecidableEq, Repr

/-! ### Formats (Tables FMT-1, FMT-2) -/

/-- Format of a code of Table FMT-1; `none` for the reserved codes (R33). -/
def fmtOfCode : Nat → Option Fmt
  | 0x1 => some .fp32 | 0x2 => some .bf16 | 0x3 => some .fp16 | 0x4 => some .e4m3 | 0x5 => some .e5m2
  | 0x6 => some .mxfp6 | 0x7 => some .mxfp4 | 0x8 => some .mxint8 | 0x9 => some .int8 | 0xA => some .int4
  | 0xB => some .g12 | 0xC => some .int32 | _ => none

def fmtCode : Fmt → Nat
  | .fp32 => 0x1 | .bf16 => 0x2 | .fp16 => 0x3 | .e4m3 => 0x4 | .e5m2 => 0x5 | .mxfp6 => 0x6
  | .mxfp4 => 0x7 | .mxint8 => 0x8 | .int8 => 0x9 | .int4 => 0xA | .g12 => 0xB | .int32 => 0xC

/-- Element bits. -/
def fmtWidth : Fmt → Nat
  | .fp32 => 32 | .bf16 => 16 | .fp16 => 16 | .e4m3 => 8 | .e5m2 => 8 | .mxfp6 => 6
  | .mxfp4 => 4 | .mxint8 => 8 | .int8 => 8 | .int4 => 4 | .g12 => 12 | .int32 => 32

/-- Block length of a block-scaled format; 0 for the others. -/
def fmtBlock : Fmt → Nat
  | .mxfp6 => 32 | .mxfp4 => 32 | .mxint8 => 32 | .g12 => 64 | _ => 0

/-- INT8, INT4 and INT32; MXINT8 counts as a floating-point format (R43). -/
def fmtIsInt : Fmt → Bool
  | .int8 => true | .int4 => true | .int32 => true | _ => false

/-- Formats that an array product accepts (Table FMT-4, R43). -/
def fmtArrayOk : Fmt → Bool
  | .fp32 => false | .int32 => false | _ => true

/-- Step mode of a format: 16-bit and G12, 8-bit, 4-bit (Table ARR-1). -/
def fmtMode : Fmt → StepMode
  | .bf16 => .m16 | .fp16 => .m16 | .g12 => .m16 | .fp32 => .m16 | .int32 => .m16
  | .mxfp4 => .m4 | .int4 => .m4
  | _ => .m8

/-- Fields of a floating-point element. `maxField`, `maxMant` name the largest finite encoding. -/
structure FSpec where
  ebits : Nat
  mbits : Nat
  bias : Nat
  maxField : Nat
  maxMant : Nat
  hasInf : Bool
deriving DecidableEq, Repr

def fSpec : Fmt → Option FSpec
  | .fp32 => some ⟨8, 23, 127, 254, 0x7FFFFF, true⟩
  | .bf16 => some ⟨8, 7, 127, 254, 0x7F, true⟩
  | .fp16 => some ⟨5, 10, 15, 30, 0x3FF, true⟩
  | .e4m3 => some ⟨4, 3, 7, 15, 6, false⟩
  | .e5m2 => some ⟨5, 2, 15, 30, 3, true⟩
  | .mxfp6 => some ⟨3, 2, 3, 7, 3, false⟩
  | .mxfp4 => some ⟨2, 1, 1, 3, 1, false⟩
  | .g12 => some ⟨6, 5, 31, 62, 0x1F, true⟩
  | _ => none

/-- Two's complement reading of `w` bits. -/
def signedOf (w b : Nat) : Int :=
  let v := b % 2 ^ w
  if v < 2 ^ (w - 1) then v else (v : Int) - 2 ^ w

/-- The value of an integer times 2^e. -/
def FV.ofInt (i : Int) (e : Int) : FV := .num (decide (i < 0)) i.natAbs e

/-- R34, R35: value of the bits of a floating-point element. -/
def fDecode (sp : FSpec) (b : Nat) : FV :=
  let neg := decide (b / 2 ^ (sp.ebits + sp.mbits) % 2 = 1)
  let ef := b / 2 ^ sp.mbits % 2 ^ sp.ebits
  let m := b % 2 ^ sp.mbits
  if ef > sp.maxField ∨ (ef = sp.maxField ∧ m > sp.maxMant) then
    (if sp.hasInf && m == 0 then .inf neg else .nan)
  else if ef = 0 then .num neg m (1 - (sp.bias : Int) - sp.mbits)
  else .num neg (2 ^ sp.mbits + m) ((ef : Int) - sp.bias - sp.mbits)

/-- Multiply by a power of two. -/
def FV.scale (v : FV) (k : Int) : FV :=
  match v with
  | .num n m e => .num n m (e + k)
  | v => v

/-- R34-R38: value of an element of format `f` whose block's shared field is `sf`. -/
def decodeElem (f : Fmt) (b : Nat) (sf : Nat) : FV :=
  let base : FV := match fSpec f with
    | some sp => fDecode sp b
    | none => match f with
      | .mxint8 => FV.ofInt (signedOf 8 b) (-6)
      | f => FV.ofInt (signedOf (fmtWidth f) b) 0
  if fmtBlock f = 0 then base
  else if sf % 256 = 255 then .nan
  else base.scale ((sf % 256 : Nat) - 127)

/-! ### Exact arithmetic -/

def FV.isNeg : FV → Bool
  | .num n _ _ => n | .inf n => n | .nan => false

def FV.isNaN : FV → Bool
  | .nan => true | _ => false

def FV.isFinite : FV → Bool
  | .num _ _ _ => true | _ => false

def FV.isZero : FV → Bool
  | .num _ m _ => m == 0 | _ => false

def FV.abs : FV → FV
  | .num _ m e => .num false m e | .inf _ => .inf false | .nan => .nan

def FV.neg : FV → FV
  | .num n m e => .num (!n) m e | .inf n => .inf (!n) | .nan => .nan

/-- Signed mantissa at exponent `e0`, which is at most `e`. -/
def alignTo (n : Bool) (m : Nat) (e e0 : Int) : Int :=
  let v : Int := (m <<< (e - e0).toNat : Nat)
  if n then -v else v

/-- Exact sum; infinities of unlike sign and NaN give NaN, an exact zero is negative only if both
addends are. -/
def FV.add : FV → FV → FV
  | .nan, _ => .nan
  | _, .nan => .nan
  | .inf a, .inf b => if a == b then .inf a else .nan
  | .inf a, _ => .inf a
  | _, .inf b => .inf b
  | .num a m e, .num b k f =>
    let e0 := min e f
    let s := alignTo a m e e0 + alignTo b k f e0
    if s = 0 then .num (a && b) 0 0 else .num (decide (s < 0)) s.natAbs e0

/-- Exact product; infinity times zero is NaN (R45). -/
def FV.mul : FV → FV → FV
  | .nan, _ => .nan
  | _, .nan => .nan
  | .inf a, .inf b => .inf (a != b)
  | .inf a, .num b m _ => if m = 0 then .nan else .inf (a != b)
  | .num a m _, .inf b => if m = 0 then .nan else .inf (a != b)
  | .num a m e, .num b k f => .num (a != b) (m * k) (e + f)

/-- Exact comparison of two values, neither NaN; zeros of either sign are equal. -/
def FV.lt : FV → FV → Bool
  | .nan, _ => false
  | _, .nan => false
  | .inf a, .inf b => a && !b
  | .inf a, .num _ _ _ => a
  | .num _ _ _, .inf b => !b
  | .num a m e, .num b k f =>
    let e0 := min e f
    decide (alignTo a m e e0 < alignTo b k f e0)

def FV.eqv (x y : FV) : Bool :=
  !x.isNaN && !y.isNaN && !(x.lt y) && !(y.lt x)

/-- floor(log2 |v|) of a finite non-zero value. -/
def FV.log2 : FV → Int
  | .num _ m e => (Nat.log2 m : Int) + e
  | _ => 0

/-! ### Rounding -/

inductive Rnd where
  | rne | trunc | stoch
deriving DecidableEq, Repr

/-- Magnitude man × 2^exp as a multiple of 2^q, rounded: R47-R49 and `round_stochastic` of R53 with
draw `r`. -/
def roundMag (mode : Rnd) (r : Nat) (man : Nat) (exp q : Int) : Nat :=
  if q ≤ exp then man <<< (exp - q).toNat
  else
    let s := (q - exp).toNat
    let t := man >>> s
    let rem := man % 2 ^ s
    match mode with
    | .trunc => t
    | .rne => if 2 * rem > 2 ^ s ∨ (2 * rem = 2 ^ s ∧ t % 2 = 1) then t + 1 else t
    | .stoch => if (rem * 65536) / 2 ^ s + r ≥ 65536 then t + 1 else t

/-- Result of converting one element: its bits and the statistics marks of R56. -/
structure Cvt where
  bits : Nat
  under : Bool
  overs : Bool
deriving DecidableEq, Repr

/-- Encoding of ± infinity, NaN and ± largest finite. -/
def fInf (sp : FSpec) (neg : Bool) : Nat :=
  (if neg then 2 ^ (sp.ebits + sp.mbits) else 0) + (2 ^ sp.ebits - 1) * 2 ^ sp.mbits

/-- Canonical NaN, R39: quiet, positive; E4M3 has all ones. -/
def fNaN (sp : FSpec) : Nat :=
  if sp.hasInf then (2 ^ sp.ebits - 1) * 2 ^ sp.mbits + 2 ^ (sp.mbits - 1)
  else 2 ^ (sp.ebits + sp.mbits) - 1

def fMax (sp : FSpec) (neg : Bool) : Nat :=
  (if neg then 2 ^ (sp.ebits + sp.mbits) else 0) + sp.maxField * 2 ^ sp.mbits + sp.maxMant

/-- What an overflow becomes (Table FMT-6): saturated, or infinity, or NaN where the format has no
infinity and does have a NaN (E4M3). -/
def fOverflow (sp : FSpec) (ovf neg : Bool) : Nat :=
  if !ovf then fMax sp neg
  else if sp.hasInf then fInf sp neg
  else if sp.maxField * 2 ^ sp.mbits + sp.maxMant < 2 ^ (sp.ebits + sp.mbits) - 1 then fNaN sp
  else fMax sp neg

/-- Conversion of a value to a floating-point element, R47, R49, Table FMT-6. -/
def fEncode (sp : FSpec) (mode : Rnd) (ovf ftz : Bool) (r : Nat) (v : FV) : Cvt :=
  match v with
  | .nan => ⟨fNaN sp, false, false⟩
  | .inf n => ⟨fOverflow sp ovf n, false, false⟩
  | .num n m e =>
    let sgn := if n then 2 ^ (sp.ebits + sp.mbits) else 0
    if m = 0 then ⟨sgn, false, false⟩
    else
      let qmin : Int := 1 - (sp.bias : Int) - sp.mbits
      let q := max ((Nat.log2 m : Int) + e - sp.mbits) qmin
      let t0 := roundMag mode r m e q
      let t := if t0 = 2 ^ (sp.mbits + 1) then 2 ^ sp.mbits else t0
      let q' := if t0 = 2 ^ (sp.mbits + 1) then q + 1 else q
      if t = 0 then ⟨sgn, true, false⟩
      else if t < 2 ^ sp.mbits then (if ftz then ⟨sgn, true, false⟩ else ⟨sgn + t, false, false⟩)
      else
        let field := (q' + sp.mbits + sp.bias).toNat
        let mant := t - 2 ^ sp.mbits
        if field > sp.maxField ∨ (field = sp.maxField ∧ mant > sp.maxMant) then ⟨fOverflow sp ovf n, false, true⟩
        else ⟨sgn + field * 2 ^ sp.mbits + mant, false, false⟩

/-- Conversion to a two's complement element of `w` bits in steps of 2^q, limits `lo` and `hi` (R48,
Table FMT-6); a NaN gives 0 and counts as an overflow. -/
def iEncode (w : Nat) (q lo hi : Int) (mode : Rnd) (r : Nat) (v : FV) : Cvt :=
  let put := fun (i : Int) => (i % 2 ^ w).toNat
  match v with
  | .nan => ⟨0, false, true⟩
  | .inf n => ⟨put (if n then lo else hi), false, false⟩
  | .num n m e =>
    let t := roundMag mode r m e q
    let s : Int := if n then -(t : Int) else t
    if s < lo then ⟨put lo, false, true⟩
    else if s > hi then ⟨put hi, false, true⟩
    else ⟨put s, decide (t = 0) && decide (m ≠ 0), false⟩

/-- A conversion control byte, Table FMT-5. -/
structure Ctl where
  ftz : Bool
  ovf : Bool
  rnd : Rnd
  fmt : Fmt
deriving DecidableEq, Repr

/-- R46, R33: `none` for rounding 0b11 or a reserved format code. -/
def ctlOf (b : Byte) : Option Ctl :=
  match fmtOfCode (b.toNat % 16) with
  | none => none
  | some f =>
    let ftz := b.getLsbD 7
    let ovf := b.getLsbD 6
    match b.toNat / 16 % 4 with
    | 0 => some ⟨ftz, ovf, .rne, f⟩
    | 1 => some ⟨ftz, ovf, .trunc, f⟩
    | 2 => some ⟨ftz, ovf, .stoch, f⟩
    | _ => none

/-- Conversion of one element under a control byte, before any block factor. -/
def encodeElem (c : Ctl) (r : Nat) (v : FV) : Cvt :=
  match fSpec c.fmt with
  | some sp => fEncode sp c.rnd c.ovf c.ftz r v
  | none => match c.fmt with
    | .mxint8 => iEncode 8 (-6) (-127) 127 c.rnd r v
    | .int4 => iEncode 4 0 (-8) 7 c.rnd r v
    | .int8 => iEncode 8 0 (-128) 127 c.rnd r v
    | _ => iEncode 32 0 (-(2 ^ 31)) (2 ^ 31 - 1) c.rnd r v

/-- Largest finite magnitude of a list of values. -/
def amaxOf (vs : List FV) : FV :=
  vs.foldl (fun a v => if v.isFinite && a.lt v.abs then v.abs else a) (.num false 0 0)

/-- Exponent of the element's largest binade, R50. -/
def blockEmax : Fmt → Int
  | .mxfp6 => 4 | .mxfp4 => 2 | _ => 0

def clampInt (x lo hi : Int) : Int := max lo (min hi x)

/-- Shared field of a block under R50 and R51. -/
def blockField (c : Ctl) (vs : List FV) : Nat :=
  let a := amaxOf vs
  match c.fmt with
  | .g12 => if a.isZero then 0 else (clampInt (a.log2 + 97) 0 254).toNat
  | f =>
    if vs.any FV.isNaN || (c.ovf && vs.any (fun v => !v.isFinite && !v.isNaN)) then 255
    else if a.isZero then 0 else (clampInt (a.log2 - blockEmax f + 127) 0 254).toNat

/-- Statistics of a conversion stream, R56. -/
structure FmtStats where
  amax : FV
  nonzero : Nat
  under : Nat
  overs : Nat
deriving DecidableEq, Repr

def FmtStats.zero : FmtStats := ⟨.num false 0 0, 0, 0, 0⟩

/-- Counts of one converted element; `rounded` is false in a block whose scale became 0xFF. -/
def FmtStats.count (st : FmtStats) (v : FV) (x : Cvt) (rounded : Bool) : FmtStats :=
  let fin := v.isFinite
  { amax := if fin && st.amax.lt v.abs then v.abs else st.amax
    nonzero := st.nonzero + (if fin && !v.isZero then 1 else 0)
    under := st.under + (if rounded && x.under then 1 else 0)
    overs := st.overs + (if rounded && x.overs then 1 else 0) }

def FmtStats.merge (a b : FmtStats) : FmtStats :=
  { amax := if a.amax.lt b.amax then b.amax else a.amax
    nonzero := a.nonzero + b.nonzero, under := a.under + b.under, overs := a.overs + b.overs }

/-- The underflow fraction of R56. -/
def FmtStats.underFraction (st : FmtStats) : Rat := if st.nonzero = 0 then 0 else (st.under : Rat) / st.nonzero

/-- Result of converting values: shared fields (one per block, none for a plain format), element bits, statistics. -/
structure CvtOut where
  fields : List Nat
  bits : List Nat
  stats : FmtStats
deriving DecidableEq, Repr

/-- One block, or a run of plain elements, with the draws of its elements. -/
def convertRun (c : Ctl) (vs : List (FV × Nat)) : CvtOut :=
  if fmtBlock c.fmt = 0 then
    let es := vs.map (fun p => (p.1, encodeElem c p.2 p.1))
    ⟨[], es.map (fun p => p.2.bits), es.foldl (fun st p => st.count p.1 p.2 true) .zero⟩
  else
    let x := blockField c (vs.map Prod.fst)
    if x = 255 then
      ⟨[x], vs.map (fun _ => 0), vs.foldl (fun st p => st.count p.1 ⟨0, false, false⟩ false) .zero⟩
    else
      let es := vs.map (fun p => (p.1, encodeElem c p.2 (p.1.scale (127 - (x : Int)))))
      ⟨[x], es.map (fun p => p.2.bits), es.foldl (fun st p => st.count p.1 p.2 true) .zero⟩

/-- Split into groups of `n`; a last shorter group stays. -/
def chunksOf {α : Type} (n : Nat) : Nat → List α → List (List α)
  | 0, _ => []
  | _, [] => []
  | fuel + 1, l => l.take n :: chunksOf n fuel (l.drop n)

def chunks {α : Type} (n : Nat) (l : List α) : List (List α) := chunksOf n l.length l

/-- Conversion of a row of values, block by block (R42, R50, R51). -/
def convertRow (c : Ctl) (vs : List (FV × Nat)) : CvtOut :=
  let n := if fmtBlock c.fmt = 0 then vs.length else fmtBlock c.fmt
  (chunks n vs).foldl (fun o b =>
    let x := convertRun c b
    ⟨o.fields ++ x.fields, o.bits ++ x.bits, o.stats.merge x.stats⟩) ⟨[], [], .zero⟩

/-! ### FP32 arithmetic (R44, R121) -/

def fp32Spec : FSpec := ⟨8, 23, 127, 254, 0x7FFFFF, true⟩

/-- FP32 bits of a value: nearest even, subnormals kept, infinity on overflow. -/
def fp32Of (v : FV) : W32 := BitVec.ofNat 32 (fEncode fp32Spec .rne true false 0 v).bits

def fp32Val (b : W32) : FV := fDecode fp32Spec b.toNat

/-- A value rounded to FP32. -/
def FV.toF32 (v : FV) : FV := fp32Val (fp32Of v)

def fp32Add (a b : W32) : W32 := fp32Of ((fp32Val a).add (fp32Val b))
def fp32Mul (a b : W32) : W32 := fp32Of ((fp32Val a).mul (fp32Val b))

/-- Value of a register format of the vector engine. -/
def vfmt : VFmt → Fmt
  | .f32 => .fp32 | .b16 => .bf16 | .h16 => .fp16 | .i32 => .int32

/-- Quotient of two positive magnitudes correctly rounded to FP32 is not needed as such; this is
floor(a × 2^s / b), the digits from which it is rounded, with a sticky bit below. -/
def divSticky (a b s : Nat) : Nat :=
  let n := a <<< s
  2 * (n / b) + (if n % b = 0 then 0 else 1)

/-- FP32 quotient, nearest even. -/
def fp32Div (a b : FV) : FV :=
  match a, b with
  | .nan, _ => .nan
  | _, .nan => .nan
  | .inf _, .inf _ => .nan
  | .inf x, y => .inf (x != y.isNeg)
  | x, .inf y => .num (x.isNeg != y) 0 0
  | .num x m e, .num y k f =>
    if k = 0 then (if m = 0 then .nan else .inf (x != y))
    else
      let s := 64 + Nat.log2 k
      (FV.num (x != y) (divSticky m k s) (e - f - s - 1)).toF32

/-- Integer square root by bisection on bits. -/
def isqrtAux : Nat → Nat → Nat → Nat
  | 0, _, acc => acc
  | b + 1, n, acc => if (acc + 2 ^ b) * (acc + 2 ^ b) ≤ n then isqrtAux b n (acc + 2 ^ b) else isqrtAux b n acc

def isqrt (n : Nat) : Nat := isqrtAux (Nat.log2 n / 2 + 1) n 0

/-- FP32 square root, nearest even; negative values give NaN, −0 gives −0. -/
def fp32Sqrt (a : FV) : FV :=
  match a with
  | .nan => .nan
  | .inf n => if n then .nan else .inf false
  | .num n m e =>
    if m = 0 then .num n 0 0
    else if n then .nan
    else
      let e' := if e % 2 = 0 then e - 64 else e - 63
      let m' := m <<< (e - e').toNat
      let r := isqrt m'
      let sticky := if r * r = m' then 0 else 1
      (FV.num false (2 * r + sticky) (e' / 2 - 1)).toF32

/-! ### The generator of R53 -/

def seedLane (task : W64) (mTile nTile lane : Nat) : W64 :=
  let z := task ^^^ (BitVec.ofNat 64 mTile <<< 40) ^^^ (BitVec.ofNat 64 nTile <<< 16) ^^^ BitVec.ofNat 64 lane
  let z := z + 0x9E3779B97F4A7C15#64
  let z := (z ^^^ (z >>> 30)) * 0xBF58476D1CE4E5B9#64
  let z := (z ^^^ (z >>> 27)) * 0x94D049BB133111EB#64
  let z := z ^^^ (z >>> 31)
  if z = 0#64 then 1#64 else z

/-- Next state of a generator, and the 16 bits it draws. -/
def drawNext (z : W64) : W64 :=
  let z := z ^^^ (z <<< 13)
  let z := z ^^^ (z >>> 7)
  z ^^^ (z <<< 17)

def drawBits (z : W64) : Nat := ((drawNext z) >>> 48).toNat

/-- The `n`-th state of a generator and its draw. -/
def drawAt : Nat → W64 → Nat
  | 0, z => drawBits z
  | n + 1, z => drawAt n (drawNext z)

/-- `n` draws from a generator, and its state after them. -/
def drawMany : Nat → W64 → List Nat × W64
  | 0, z => ([], z)
  | n + 1, z => let p := drawMany n (drawNext z); (drawBits z :: p.1, p.2)

/-! ### Bits and bytes (R12, R40) -/

/-- Little-endian value of bytes. -/
def leNat : List Byte → Nat
  | [] => 0
  | b :: bs => b.toNat + 256 * leNat bs

/-- The low `n` bytes of a value, least significant first. -/
def leBytes : Nat → Nat → List Byte
  | 0, _ => []
  | n + 1, v => BitVec.ofNat 8 v :: leBytes n (v / 256)

/-- Elements of `w` bits packed from bit 0 upward, as one number (R40). -/
def packNat (w : Nat) : List Nat → Nat
  | [] => 0
  | x :: xs => x % 2 ^ w + 2 ^ w * packNat w xs

/-- `n` elements of `w` bits of a bit string. -/
def unpackNat (w : Nat) : Nat → Nat → List Nat
  | 0, _ => []
  | n + 1, v => v % 2 ^ w :: unpackNat w n (v / 2 ^ w)

/-- Bytes that `n` packed elements of a format fill. -/
def elemBytes (f : Fmt) (n : Nat) : Nat := (fmtWidth f * n + 7) / 8

def packElems (f : Fmt) (es : List Nat) : List Byte :=
  leBytes (elemBytes f es.length) (packNat (fmtWidth f) es)

def unpackElems (f : Fmt) (n : Nat) (bs : List Byte) : List Nat :=
  unpackNat (fmtWidth f) n (leNat bs)

/-- Values of `n` elements with the shared fields of their blocks. -/
def decodeElems (f : Fmt) (es sfs : List Nat) : List FV :=
  (es.zip (List.range es.length)).map (fun p =>
    decodeElem f p.1 (if fmtBlock f = 0 then 0 else sfs.getD (p.2 / fmtBlock f) 0))

end Sys2Proof.Machine
end

