-- ==== Sys2Proof/Machine/Regs.lean ====
section
/-!
DEFINITION. The registers of the control space (Table HGM-4): one name per register of the manual's
tables, with its block, offset, reset value and the bits that are plain read-write (RW), cleared by
writing one (W1C) and write-only (WO); every other bit is read-only.  Made from the tables of spec/:
ARR-5, TIL-4, VEC-5, BASIN-7, BASIN-8, FLU-5 (twice: core block and field block), BWD-7, CHK-6,
CAN-7, HBM-6, HBM-7, HGM-5, HGM-6, CLK-3, PWR-6, BOOT-8, MOD-6, REF-2, REF-3.  A field the tables
give as "from fuses", "from ledger", "from hardware", "from firmware", "from headgate", "from
identity" or "from always-on" has the reset value of log entry 6.
-/
namespace Sys2Proof.Machine

/-- The blocks of Table HGM-4. -/
inductive Blk where
  | ident | hg | ctx | core | field | side | pwck | eth
deriving DecidableEq, Repr

/-- First offset of a block. -/
def Blk.base : Blk → Nat
  | .ident => 0x00000000 | .hg => 0x00010000 | .ctx => 0x00100000 | .core => 0x01000000
  | .field => 0x01200000 | .side => 0x01300000 | .pwck => 0x01400000 | .eth => 0x01500000

/-- Distance between the copies of a block. -/
def Blk.stride : Blk → Nat
  | .ctx => 0x40 | .hg => 0x40 | _ => 0x1000

/-- Number of copies of a block. -/
def Blk.copies : Blk → Nat
  | .ctx => 4096 | .core => 240 | .field => 12 | .side => 4 | .eth => 16 | _ => 1

def Blk.all : List Blk := [.ident, .hg, .ctx, .core, .field, .side, .pwck, .eth]

/-- One row of a register table. `words` counts the elements of an array, `step` bytes apart. -/
structure RegRow where
  blk : Blk
  off : Nat
  words : Nat
  step : Nat
  reset : W32
  rw : W32
  w1c : W32
  wo : W32
deriving DecidableEq, Repr

/-- The register names of the manual. -/
inductive Reg where
  | coArrWidth | coArrBypLo | coArrBypHi | coArrMode | coArrTiles | coArrChkFail | coArrEvent | coSchCountLo
  | coSchCountHi | coSchHoldEcc | coSchHoldCredit | coSchWaitLimit | coSchState | coSchEvent | coVecLanes | coVecIssued
  | coRedIssued | coVecEvent | bsSpSameRow | bsSpDeferred | bsSpWinRefused | bsSpCredRefused | bsSpTables | bsSpEvent
  | bsPoolHit | bsPoolMiss | bsPoolMerged | bsPoolSplit | bsPoolInval | bsPoolRanges | bsFlPasses | fdFlPasses
  | bsFlRows | fdFlRows | bsFlChkFail | fdFlChkFail | bsFuRows | fdFuRows | bsFuChkFail | fdFuChkFail
  | bsFuWaitMax | fdFuWaitMax | bsFuIdxOob | fdFuIdxOob | bsEngEvent | fdEngEvent | coMskSlots | coMskSpill
  | coFstRef | coFstAmax | coFstNonzero | coFstUnder | coFstOver | coBwdEvent | coFstHist | coChkTransient
  | coChkPermanent | coChkTolerance | coChkDataside | coChkRepeat | coChkSuspect | coChkLastLoc | coBeSampled | coBeMismatch
  | coChkEvent | cnRtState | cnRtDataFlits | cnRtCtlFlits | cnRtCrcErr | cnRtReplay | cnRtDrop | cnRtSink
  | cnRtWait | cnRtEvent | hbIlv | hbScrubCfg | hbCorr | hbUncorr | hbWbDrop | hbLastLo
  | hbLastHi | hbLane | hbPatrol | hbEvent | bsEccCorr | bsEccUncorr | bsEccCacheDrop | bsEccLast
  | bsEccEvent | lkBvState | lkBvLanes | lkBvWin | lkBvReplay | lkBvCrcErr | lkBvFecCorr | lkBvRecover
  | lkBvEvent | hgState | hgTelLo | hgTelHi | hgTelCfg | hgTelHead | hgTelTail | hgIrqMod
  | hgCmdBaseLo | hgCmdBaseHi | hgCplBaseLo | hgCplBaseHi | hgCtxCfg | hgIrqLo | hgIrqHi | hgIrqData
  | hgDbCmd | hgDbCpl | hgCmdCons | hgCplProd | hgCtxErr | ckRef | ckHgCountLo | ckHgCountHi
  | ckXingDis | ckEvent | ckRgState | ckRgSpills | ckRgGauge | pwFeed | pwFeedV | pwBoard
  | pwAllot | pwEmerg | pwCtl | pwScale | pwOverrun | pwEvent | pwTrip | pwCoef
  | pwDom | pwTemp | pwVset | hgBootCtl | hgImgLo | hgImgHi | hgImgLen | hgBlkLo
  | hgBlkHi | hgBootStat | hgBootMs | hgLedger | hgPorts | hgTopo | hgRstCnt | hgBootEvent
  | lkEthState | lkEthLanes | lkEthFecCorr | lkEthFecUncorr | lkEthTsLo | lkEthTsHi | lkEthAddrLo | lkEthAddrHi
  | lkEthEvent | idDevice | idGrade | idSerialLo | idSerialHi | idFwVersion | idFwSvn | idReady
  | idEthBaseLo | idEthBaseHi | idFormats | idClock | idFields | idLimits | idCoreCap | idCoreLanes
deriving DecidableEq, Repr

/-- The row of a register in its table. -/
def Reg.row : Reg → RegRow
  | .coArrWidth => ⟨.core, 0x0, 1, 4, 0x0, 0x0, 0x0, 0x0⟩
  | .coArrBypLo => ⟨.core, 0x4, 1, 4, 0x0, 0x0, 0x0, 0x0⟩
  | .coArrBypHi => ⟨.core, 0x8, 1, 4, 0x0, 0x0, 0x0, 0x0⟩
  | .coArrMode => ⟨.core, 0xC, 1, 4, 0x8, 0x0, 0x0, 0x0⟩
  | .coArrTiles => ⟨.core, 0x10, 1, 4, 0x0, 0x0, 0x0, 0x0⟩
  | .coArrChkFail => ⟨.core, 0x14, 1, 4, 0x0, 0x0, 0x0, 0x0⟩
  | .coArrEvent => ⟨.core, 0x18, 1, 4, 0x0, 0x0, 0xF, 0x0⟩
  | .coSchCountLo => ⟨.core, 0x40, 1, 4, 0x0, 0x0, 0x0, 0x0⟩
  | .coSchCountHi => ⟨.core, 0x44, 1, 4, 0x0, 0x0, 0x0, 0x0⟩
  | .coSchHoldEcc => ⟨.core, 0x48, 1, 4, 0x0, 0x0, 0x0, 0x0⟩
  | .coSchHoldCredit => ⟨.core, 0x4C, 1, 4, 0x0, 0x0, 0x0, 0x0⟩
  | .coSchWaitLimit => ⟨.core, 0x50, 1, 4, 0x100000, 0x0, 0x0, 0x0⟩
  | .coSchState => ⟨.core, 0x54, 1, 4, 0x0, 0x0, 0x0, 0x0⟩
  | .coSchEvent => ⟨.core, 0x58, 1, 4, 0x0, 0x0, 0x3, 0x0⟩
  | .coVecLanes => ⟨.core, 0x80, 1, 4, 0x4000200, 0x0, 0x0, 0x0⟩
  | .coVecIssued => ⟨.core, 0x84, 1, 4, 0x0, 0x0, 0x0, 0x0⟩
  | .coRedIssued => ⟨.core, 0x88, 1, 4, 0x0, 0x0, 0x0, 0x0⟩
  | .coVecEvent => ⟨.core, 0x8C, 1, 4, 0x0, 0x0, 0xF, 0x0⟩
  | .bsSpSameRow => ⟨.core, 0xC0, 1, 4, 0x0, 0x0, 0x0, 0x0⟩
  | .bsSpDeferred => ⟨.core, 0xC4, 1, 4, 0x0, 0x0, 0x0, 0x0⟩
  | .bsSpWinRefused => ⟨.core, 0xC8, 1, 4, 0x0, 0x0, 0x0, 0x0⟩
  | .bsSpCredRefused => ⟨.core, 0xCC, 1, 4, 0x0, 0x0, 0x0, 0x0⟩
  | .bsSpTables => ⟨.core, 0xD0, 1, 4, 0x0, 0x0, 0x0, 0x0⟩
  | .bsSpEvent => ⟨.core, 0xD4, 1, 4, 0x0, 0x0, 0xF, 0x0⟩
  | .bsPoolHit => ⟨.field, 0x0, 1, 4, 0x0, 0x0, 0x0, 0x0⟩
  | .bsPoolMiss => ⟨.field, 0x4, 1, 4, 0x0, 0x0, 0x0, 0x0⟩
  | .bsPoolMerged => ⟨.field, 0x8, 1, 4, 0x0, 0x0, 0x0, 0x0⟩
  | .bsPoolSplit => ⟨.field, 0xC, 1, 4, 0x0, 0x0, 0x0, 0x0⟩
  | .bsPoolInval => ⟨.field, 0x10, 1, 4, 0x0, 0x0, 0x0, 0x0⟩
  | .bsPoolRanges => ⟨.field, 0x14, 1, 4, 0x0, 0x0, 0x0, 0x0⟩
  | .bsFlPasses => ⟨.core, 0x100, 1, 4, 0x0, 0x0, 0x0, 0x0⟩
  | .fdFlPasses => ⟨.field, 0x40, 1, 4, 0x0, 0x0, 0x0, 0x0⟩
  | .bsFlRows => ⟨.core, 0x104, 1, 4, 0x0, 0x0, 0x0, 0x0⟩
  | .fdFlRows => ⟨.field, 0x44, 1, 4, 0x0, 0x0, 0x0, 0x0⟩
  | .bsFlChkFail => ⟨.core, 0x108, 1, 4, 0x0, 0x0, 0x0, 0x0⟩
  | .fdFlChkFail => ⟨.field, 0x48, 1, 4, 0x0, 0x0, 0x0, 0x0⟩
  | .bsFuRows => ⟨.core, 0x10C, 1, 4, 0x0, 0x0, 0x0, 0x0⟩
  | .fdFuRows => ⟨.field, 0x4C, 1, 4, 0x0, 0x0, 0x0, 0x0⟩
  | .bsFuChkFail => ⟨.core, 0x110, 1, 4, 0x0, 0x0, 0x0, 0x0⟩
  | .fdFuChkFail => ⟨.field, 0x50, 1, 4, 0x0, 0x0, 0x0, 0x0⟩
  | .bsFuWaitMax => ⟨.core, 0x114, 1, 4, 0x0, 0x0, 0x0, 0x0⟩
  | .fdFuWaitMax => ⟨.field, 0x54, 1, 4, 0x0, 0x0, 0x0, 0x0⟩
  | .bsFuIdxOob => ⟨.core, 0x118, 1, 4, 0x0, 0x0, 0x0, 0x0⟩
  | .fdFuIdxOob => ⟨.field, 0x58, 1, 4, 0x0, 0x0, 0x0, 0x0⟩
  | .bsEngEvent => ⟨.core, 0x11C, 1, 4, 0x0, 0x0, 0xF, 0x0⟩
  | .fdEngEvent => ⟨.field, 0x5C, 1, 4, 0x0, 0x0, 0xF, 0x0⟩
  | .coMskSlots => ⟨.core, 0x140, 1, 4, 0x0, 0x0, 0x0, 0x0⟩
  | .coMskSpill => ⟨.core, 0x144, 1, 4, 0x0, 0x0, 0x0, 0x0⟩
  | .coFstRef => ⟨.core, 0x148, 1, 4, 0x0, 0x0, 0x0, 0x0⟩
  | .coFstAmax => ⟨.core, 0x14C, 1, 4, 0x0, 0x0, 0x0, 0x0⟩
  | .coFstNonzero => ⟨.core, 0x150, 1, 4, 0x0, 0x0, 0x0, 0x0⟩
  | .coFstUnder => ⟨.core, 0x154, 1, 4, 0x0, 0x0, 0x0, 0x0⟩
  | .coFstOver => ⟨.core, 0x158, 1, 4, 0x0, 0x0, 0x0, 0x0⟩
  | .coBwdEvent => ⟨.core, 0x15C, 1, 4, 0x0, 0x0, 0x7, 0x0⟩
  | .coFstHist => ⟨.core, 0x200, 64, 4, 0x0, 0x0, 0x0, 0x0⟩
  | .coChkTransient => ⟨.core, 0x180, 1, 4, 0x0, 0x0, 0x0, 0x0⟩
  | .coChkPermanent => ⟨.core, 0x184, 1, 4, 0x0, 0x0, 0x0, 0x0⟩
  | .coChkTolerance => ⟨.core, 0x188, 1, 4, 0x0, 0x0, 0x0, 0x0⟩
  | .coChkDataside => ⟨.core, 0x18C, 1, 4, 0x0, 0x0, 0x0, 0x0⟩
  | .coChkRepeat => ⟨.core, 0x190, 1, 4, 0x0, 0x0, 0x0, 0x0⟩
  | .coChkSuspect => ⟨.core, 0x194, 1, 4, 0x0, 0x0, 0x0, 0x0⟩
  | .coChkLastLoc => ⟨.core, 0x198, 1, 4, 0x0, 0x0, 0x0, 0x0⟩
  | .coBeSampled => ⟨.core, 0x19C, 1, 4, 0x0, 0x0, 0x0, 0x0⟩
  | .coBeMismatch => ⟨.core, 0x1A0, 1, 4, 0x0, 0x0, 0x0, 0x0⟩
  | .coChkEvent => ⟨.core, 0x1A4, 1, 4, 0x0, 0x0, 0xF, 0x0⟩
  | .cnRtState => ⟨.core, 0x300, 1, 4, 0x0, 0x0, 0x0, 0x0⟩
  | .cnRtDataFlits => ⟨.core, 0x304, 1, 4, 0x0, 0x0, 0x0, 0x0⟩
  | .cnRtCtlFlits => ⟨.core, 0x308, 1, 4, 0x0, 0x0, 0x0, 0x0⟩
  | .cnRtCrcErr => ⟨.core, 0x30C, 1, 4, 0x0, 0x0, 0x0, 0x0⟩
  | .cnRtReplay => ⟨.core, 0x310, 1, 4, 0x0, 0x0, 0x0, 0x0⟩
  | .cnRtDrop => ⟨.core, 0x314, 1, 4, 0x0, 0x0, 0x0, 0x0⟩
  | .cnRtSink => ⟨.core, 0x318, 1, 4, 0x0, 0x0, 0x0, 0x0⟩
  | .cnRtWait => ⟨.core, 0x31C, 1, 4, 0x0, 0x0, 0x0, 0x0⟩
  | .cnRtEvent => ⟨.core, 0x320, 1, 4, 0x0, 0x0, 0xF, 0x0⟩
  | .hbIlv => ⟨.side, 0x0, 1, 4, 0x0, 0x1, 0x0, 0x0⟩
  | .hbScrubCfg => ⟨.side, 0x4, 1, 4, 0x3C18, 0xFFFFF, 0x0, 0x0⟩
  | .hbCorr => ⟨.side, 0x8, 1, 4, 0x0, 0x0, 0x0, 0x0⟩
  | .hbUncorr => ⟨.side, 0xC, 1, 4, 0x0, 0x0, 0x0, 0x0⟩
  | .hbWbDrop => ⟨.side, 0x10, 1, 4, 0x0, 0x0, 0x0, 0x0⟩
  | .hbLastLo => ⟨.side, 0x14, 1, 4, 0x0, 0x0, 0x0, 0x0⟩
  | .hbLastHi => ⟨.side, 0x18, 1, 4, 0x0, 0x0, 0x0, 0x0⟩
  | .hbLane => ⟨.side, 0x1C, 1, 4, 0x0, 0x0, 0x0, 0x0⟩
  | .hbPatrol => ⟨.side, 0x20, 1, 4, 0x0, 0x0, 0x0, 0x0⟩
  | .hbEvent => ⟨.side, 0x24, 1, 4, 0x0, 0x0, 0xF, 0x0⟩
  | .bsEccCorr => ⟨.field, 0x80, 1, 4, 0x0, 0x0, 0x0, 0x0⟩
  | .bsEccUncorr => ⟨.field, 0x84, 1, 4, 0x0, 0x0, 0x0, 0x0⟩
  | .bsEccCacheDrop => ⟨.field, 0x88, 1, 4, 0x0, 0x0, 0x0, 0x0⟩
  | .bsEccLast => ⟨.field, 0x8C, 1, 4, 0x0, 0x0, 0x0, 0x0⟩
  | .bsEccEvent => ⟨.field, 0x90, 1, 4, 0x0, 0x0, 0x7, 0x0⟩
  | .lkBvState => ⟨.hg, 0x0, 1, 4, 0x0, 0x0, 0x0, 0x0⟩
  | .lkBvLanes => ⟨.hg, 0x4, 1, 4, 0x0, 0x0, 0x0, 0x0⟩
  | .lkBvWin => ⟨.hg, 0x8, 1, 4, 0x0, 0x3FF7F, 0x0, 0x0⟩
  | .lkBvReplay => ⟨.hg, 0xC, 1, 4, 0x0, 0x0, 0x0, 0x0⟩
  | .lkBvCrcErr => ⟨.hg, 0x10, 1, 4, 0x0, 0x0, 0x0, 0x0⟩
  | .lkBvFecCorr => ⟨.hg, 0x14, 1, 4, 0x0, 0x0, 0x0, 0x0⟩
  | .lkBvRecover => ⟨.hg, 0x18, 1, 4, 0x0, 0x0, 0x0, 0x0⟩
  | .lkBvEvent => ⟨.hg, 0x1C, 1, 4, 0x0, 0x0, 0xF, 0x0⟩
  | .hgState => ⟨.hg, 0x20, 1, 4, 0x0, 0x0, 0x0, 0x0⟩
  | .hgTelLo => ⟨.hg, 0x24, 1, 4, 0x0, 0xFFFFFFC0, 0x0, 0x0⟩
  | .hgTelHi => ⟨.hg, 0x28, 1, 4, 0x0, 0xFFF, 0x0, 0x0⟩
  | .hgTelCfg => ⟨.hg, 0x2C, 1, 4, 0x0, 0x1F, 0x0, 0x0⟩
  | .hgTelHead => ⟨.hg, 0x30, 1, 4, 0x0, 0x0, 0x0, 0x0⟩
  | .hgTelTail => ⟨.hg, 0x34, 1, 4, 0x0, 0xFFFFFFFF, 0x0, 0x0⟩
  | .hgIrqMod => ⟨.hg, 0x38, 1, 4, 0x8, 0xFF, 0x0, 0x0⟩
  | .hgCmdBaseLo => ⟨.ctx, 0x0, 1, 4, 0x0, 0xFFFFFFC0, 0x0, 0x0⟩
  | .hgCmdBaseHi => ⟨.ctx, 0x4, 1, 4, 0x0, 0xFFF, 0x0, 0x0⟩
  | .hgCplBaseLo => ⟨.ctx, 0x8, 1, 4, 0x0, 0xFFFFFFC0, 0x0, 0x0⟩
  | .hgCplBaseHi => ⟨.ctx, 0xC, 1, 4, 0x0, 0xFFF, 0x0, 0x0⟩
  | .hgCtxCfg => ⟨.ctx, 0x10, 1, 4, 0x7F000, 0x3FC07FF, 0x0, 0x0⟩
  | .hgIrqLo => ⟨.ctx, 0x14, 1, 4, 0x0, 0xFFFFFFFC, 0x0, 0x0⟩
  | .hgIrqHi => ⟨.ctx, 0x18, 1, 4, 0x0, 0xFFF, 0x0, 0x0⟩
  | .hgIrqData => ⟨.ctx, 0x1C, 1, 4, 0x0, 0xFFFFFFFF, 0x0, 0x0⟩
  | .hgDbCmd => ⟨.ctx, 0x20, 1, 4, 0x0, 0xFFFFFFFF, 0x0, 0x0⟩
  | .hgDbCpl => ⟨.ctx, 0x24, 1, 4, 0x0, 0xFFFFFFFF, 0x0, 0x0⟩
  | .hgCmdCons => ⟨.ctx, 0x28, 1, 4, 0x0, 0x0, 0x0, 0x0⟩
  | .hgCplProd => ⟨.ctx, 0x2C, 1, 4, 0x0, 0x0, 0x0, 0x0⟩
  | .hgCtxErr => ⟨.ctx, 0x30, 1, 4, 0x0, 0x0, 0xF, 0x0⟩
  | .ckRef => ⟨.pwck, 0x800, 1, 4, 0x0, 0x0, 0x0, 0x0⟩
  | .ckHgCountLo => ⟨.pwck, 0x804, 1, 4, 0x0, 0x0, 0x0, 0x0⟩
  | .ckHgCountHi => ⟨.pwck, 0x808, 1, 4, 0x0, 0x0, 0x0, 0x0⟩
  | .ckXingDis => ⟨.pwck, 0x80C, 1, 4, 0x0, 0x0, 0x0, 0x0⟩
  | .ckEvent => ⟨.pwck, 0x810, 1, 4, 0x0, 0x0, 0x1F, 0x0⟩
  | .ckRgState => ⟨.pwck, 0x900, 80, 4, 0x0, 0x0, 0x0, 0x0⟩
  | .ckRgSpills => ⟨.pwck, 0xA40, 80, 4, 0x0, 0x0, 0x0, 0x0⟩
  | .ckRgGauge => ⟨.pwck, 0xB80, 80, 4, 0x7F00, 0x0, 0x0, 0x0⟩
  | .pwFeed => ⟨.pwck, 0x0, 1, 4, 0x0, 0x0, 0x0, 0x0⟩
  | .pwFeedV => ⟨.pwck, 0x4, 1, 4, 0x0, 0x0, 0x0, 0x0⟩
  | .pwBoard => ⟨.pwck, 0x8, 1, 4, 0x0, 0x0, 0x0, 0x0⟩
  | .pwAllot => ⟨.pwck, 0xC, 1, 4, 0x1F420D0, 0x0, 0x0, 0x0⟩
  | .pwEmerg => ⟨.pwck, 0x10, 1, 4, 0x1194, 0x3FFF, 0x0, 0x0⟩
  | .pwCtl => ⟨.pwck, 0x14, 1, 4, 0x0, 0x0, 0x0, 0x0⟩
  | .pwScale => ⟨.pwck, 0x18, 1, 4, 0x10000, 0x0, 0x0, 0x0⟩
  | .pwOverrun => ⟨.pwck, 0x1C, 1, 4, 0x0, 0x0, 0x0, 0x0⟩
  | .pwEvent => ⟨.pwck, 0x20, 1, 4, 0x0, 0x0, 0xFF, 0x0⟩
  | .pwTrip => ⟨.pwck, 0x24, 1, 4, 0x7F, 0x0, 0x0, 0x0⟩
  | .pwCoef => ⟨.pwck, 0x100, 16, 4, 0x0, 0x0, 0x0, 0x0⟩
  | .pwDom => ⟨.pwck, 0x200, 80, 4, 0x0, 0x0, 0x0, 0x0⟩
  | .pwTemp => ⟨.pwck, 0x400, 96, 4, 0x0, 0x0, 0x0, 0x0⟩
  | .pwVset => ⟨.pwck, 0x600, 73, 4, 0x0, 0x0, 0x0, 0x0⟩
  | .hgBootCtl => ⟨.pwck, 0xD00, 1, 4, 0x0, 0x0, 0x0, 0x3⟩
  | .hgImgLo => ⟨.pwck, 0xD04, 1, 4, 0x0, 0xFFFFFFC0, 0x0, 0x0⟩
  | .hgImgHi => ⟨.pwck, 0xD08, 1, 4, 0x0, 0xFFF, 0x0, 0x0⟩
  | .hgImgLen => ⟨.pwck, 0xD0C, 1, 4, 0x0, 0x1FFFFFF, 0x0, 0x0⟩
  | .hgBlkLo => ⟨.pwck, 0xD10, 1, 4, 0x0, 0xFFFFFFC0, 0x0, 0x0⟩
  | .hgBlkHi => ⟨.pwck, 0xD14, 1, 4, 0x0, 0xFFF, 0x0, 0x0⟩
  | .hgBootStat => ⟨.pwck, 0xD18, 1, 4, 0x0, 0x0, 0x0, 0x0⟩
  | .hgBootMs => ⟨.pwck, 0xD1C, 1, 4, 0x0, 0x0, 0x0, 0x0⟩
  | .hgLedger => ⟨.pwck, 0xD20, 1, 4, 0x0, 0x0, 0x0, 0x0⟩
  | .hgPorts => ⟨.pwck, 0xD24, 1, 4, 0xFFFF, 0x0, 0x0, 0x0⟩
  | .hgTopo => ⟨.pwck, 0xD28, 1, 4, 0x0, 0x0, 0x0, 0x0⟩
  | .hgRstCnt => ⟨.pwck, 0xD2C, 1, 4, 0x0, 0x0, 0x0, 0x0⟩
  | .hgBootEvent => ⟨.pwck, 0xD30, 1, 4, 0x0, 0x0, 0xF, 0x0⟩
  | .lkEthState => ⟨.eth, 0x0, 1, 4, 0x0, 0x0, 0x0, 0x0⟩
  | .lkEthLanes => ⟨.eth, 0x4, 1, 4, 0x0, 0x0, 0x0, 0x0⟩
  | .lkEthFecCorr => ⟨.eth, 0x8, 1, 4, 0x0, 0x0, 0x0, 0x0⟩
  | .lkEthFecUncorr => ⟨.eth, 0xC, 1, 4, 0x0, 0x0, 0x0, 0x0⟩
  | .lkEthTsLo => ⟨.eth, 0x10, 1, 4, 0x0, 0x0, 0x0, 0x0⟩
  | .lkEthTsHi => ⟨.eth, 0x14, 1, 4, 0x0, 0x0, 0x0, 0x0⟩
  | .lkEthAddrLo => ⟨.eth, 0x18, 1, 4, 0x0, 0x0, 0x0, 0x0⟩
  | .lkEthAddrHi => ⟨.eth, 0x1C, 1, 4, 0x0, 0x0, 0x0, 0x0⟩
  | .lkEthEvent => ⟨.eth, 0x20, 1, 4, 0x0, 0x0, 0xF, 0x0⟩
  | .idDevice => ⟨.ident, 0x0, 1, 4, 0x1A712, 0x0, 0x0, 0x0⟩
  | .idGrade => ⟨.ident, 0x4, 1, 4, 0x0, 0x0, 0x0, 0x0⟩
  | .idSerialLo => ⟨.ident, 0x8, 1, 4, 0x0, 0x0, 0x0, 0x0⟩
  | .idSerialHi => ⟨.ident, 0xC, 1, 4, 0x0, 0x0, 0x0, 0x0⟩
  | .idFwVersion => ⟨.ident, 0x10, 1, 4, 0x0, 0x0, 0x0, 0x0⟩
  | .idFwSvn => ⟨.ident, 0x14, 1, 4, 0x0, 0x0, 0x0, 0x0⟩
  | .idReady => ⟨.ident, 0x18, 1, 4, 0x0, 0x0, 0x0, 0x0⟩
  | .idEthBaseLo => ⟨.ident, 0x1C, 1, 4, 0x0, 0x0, 0x0, 0x0⟩
  | .idEthBaseHi => ⟨.ident, 0x20, 1, 4, 0x0, 0x0, 0x0, 0x0⟩
  | .idFormats => ⟨.ident, 0x24, 1, 4, 0x1FFE, 0x0, 0x0, 0x0⟩
  | .idClock => ⟨.ident, 0x28, 1, 4, 0x640578, 0x0, 0x0, 0x0⟩
  | .idFields => ⟨.ident, 0x2C, 1, 4, 0x0, 0x0, 0x0, 0x0⟩
  | .idLimits => ⟨.ident, 0x30, 1, 4, 0x20801000, 0x0, 0x0, 0x0⟩
  | .idCoreCap => ⟨.ident, 0x400, 240, 8, 0x0, 0x0, 0x0, 0x0⟩
  | .idCoreLanes => ⟨.ident, 0x404, 240, 8, 0x0, 0x0, 0x0, 0x0⟩

/-- The registers of one block. -/
def Blk.regs : Blk → List Reg
  | .ident =>
    [.idDevice, .idGrade, .idSerialLo, .idSerialHi, .idFwVersion, .idFwSvn, .idReady, .idEthBaseLo, .idEthBaseHi,
     .idFormats, .idClock, .idFields, .idLimits, .idCoreCap, .idCoreLanes]
  | .hg =>
    [.lkBvState, .lkBvLanes, .lkBvWin, .lkBvReplay, .lkBvCrcErr, .lkBvFecCorr, .lkBvRecover, .lkBvEvent, .hgState,
     .hgTelLo, .hgTelHi, .hgTelCfg, .hgTelHead, .hgTelTail, .hgIrqMod]
  | .ctx =>
    [.hgCmdBaseLo, .hgCmdBaseHi, .hgCplBaseLo, .hgCplBaseHi, .hgCtxCfg, .hgIrqLo, .hgIrqHi, .hgIrqData, .hgDbCmd,
     .hgDbCpl, .hgCmdCons, .hgCplProd, .hgCtxErr]
  | .core =>
    [.coArrWidth, .coArrBypLo, .coArrBypHi, .coArrMode, .coArrTiles, .coArrChkFail, .coArrEvent, .coSchCountLo, .coSchCountHi,
     .coSchHoldEcc, .coSchHoldCredit, .coSchWaitLimit, .coSchState, .coSchEvent, .coVecLanes, .coVecIssued, .coRedIssued, .coVecEvent,
     .bsSpSameRow, .bsSpDeferred, .bsSpWinRefused, .bsSpCredRefused, .bsSpTables, .bsSpEvent, .bsFlPasses, .bsFlRows, .bsFlChkFail,
     .bsFuRows, .bsFuChkFail, .bsFuWaitMax, .bsFuIdxOob, .bsEngEvent, .coMskSlots, .coMskSpill, .coFstRef, .coFstAmax,
     .coFstNonzero, .coFstUnder, .coFstOver, .coBwdEvent, .coFstHist, .coChkTransient, .coChkPermanent, .coChkTolerance, .coChkDataside,
     .coChkRepeat, .coChkSuspect, .coChkLastLoc, .coBeSampled, .coBeMismatch, .coChkEvent, .cnRtState, .cnRtDataFlits, .cnRtCtlFlits,
     .cnRtCrcErr, .cnRtReplay, .cnRtDrop, .cnRtSink, .cnRtWait, .cnRtEvent]
  | .field =>
    [.bsPoolHit, .bsPoolMiss, .bsPoolMerged, .bsPoolSplit, .bsPoolInval, .bsPoolRanges, .fdFlPasses, .fdFlRows, .fdFlChkFail,
     .fdFuRows, .fdFuChkFail, .fdFuWaitMax, .fdFuIdxOob, .fdEngEvent, .bsEccCorr, .bsEccUncorr, .bsEccCacheDrop, .bsEccLast,
     .bsEccEvent]
  | .side =>
    [.hbIlv, .hbScrubCfg, .hbCorr, .hbUncorr, .hbWbDrop, .hbLastLo, .hbLastHi, .hbLane, .hbPatrol,
     .hbEvent]
  | .pwck =>
    [.ckRef, .ckHgCountLo, .ckHgCountHi, .ckXingDis, .ckEvent, .ckRgState, .ckRgSpills, .ckRgGauge, .pwFeed,
     .pwFeedV, .pwBoard, .pwAllot, .pwEmerg, .pwCtl, .pwScale, .pwOverrun, .pwEvent, .pwTrip,
     .pwCoef, .pwDom, .pwTemp, .pwVset, .hgBootCtl, .hgImgLo, .hgImgHi, .hgImgLen, .hgBlkLo,
     .hgBlkHi, .hgBootStat, .hgBootMs, .hgLedger, .hgPorts, .hgTopo, .hgRstCnt, .hgBootEvent]
  | .eth =>
    [.lkEthState, .lkEthLanes, .lkEthFecCorr, .lkEthFecUncorr, .lkEthTsLo, .lkEthTsHi, .lkEthAddrLo, .lkEthAddrHi, .lkEthEvent]

/-- Offset in the control space of element `word` of register `r` in copy `unit` of its block. -/
def Reg.addr (r : Reg) (unit word : Nat) : Nat :=
  r.row.blk.base + r.row.blk.stride * unit + r.row.off + r.row.step * word

/-- Typical event coefficients of Table PWR-3, in fJ. -/
def typicalCoef : List Nat :=
  [200, 110, 380, 300, 2000, 250, 5000, 6000, 410000, 25000, 2000000, 2200000, 12000, 10000, 3500000, 2000000]

/-- Reset value of a register word: its table's, with the values that depend on the copy or come
from fuses (log entry 6). -/
def Reg.resetAt (r : Reg) (unit word : Nat) : W32 :=
  match r with
  | .hgCtxCfg => if unit < 4 then r.row.reset ||| 0x800 else r.row.reset
  | .coArrWidth => 0x00404080
  | .idGrade => 0xE0
  | .pwCoef => BitVec.ofNat 32 (256 * typicalCoef.getD word 0)
  | .pwVset => 0x000B42D0
  | _ => r.row.reset

/-- The register element that lies at a control-space offset, if the tables name one. -/
def Reg.ofAddr (o : Nat) : Option (Reg × Nat × Nat) :=
  match Blk.all.find? (fun b => b.base ≤ o ∧ o < b.base + b.stride * b.copies) with
  | none => none
  | some b =>
    let unit := (o - b.base) / b.stride
    let l := (o - b.base) % b.stride
    match b.regs.find? (fun r => r.row.off ≤ l ∧ l < r.row.off + r.row.step * r.row.words ∧
        (l - r.row.off) % r.row.step = 0) with
    | none => none
    | some r => some (r, unit, (l - r.row.off) / r.row.step)

end Sys2Proof.Machine
end

