-- ==== Sys2Proof/Machine/Tab.lean ====
section
/-!
DEFINITION. Finite tables as plain data: a list of keyed entries whose keys rise.  Registers, cores,
windows, pages and every other sparse collection of the machine are held so.
-/
namespace Sys2Proof.Machine

/-- A table from natural keys. -/
abbrev Tab (α : Type) := List (Nat × α)

/-- Entry of a key. -/
def tget {α : Type} : Tab α → Nat → Option α
  | [], _ => none
  | (j, v) :: t, k => if j = k then some v else tget t k

/-- Entry of a key, or a default. -/
def tgetD {α : Type} (t : Tab α) (k : Nat) (d : α) : α := (tget t k).getD d

/-- Set the entry of a key. -/
def tput {α : Type} : Tab α → Nat → α → Tab α
  | [], k, v => [(k, v)]
  | (j, w) :: t, k, v => if j = k then (k, v) :: t else if k < j then (k, v) :: (j, w) :: t else (j, w) :: tput t k v

/-- Remove a key. -/
def tdel {α : Type} : Tab α → Nat → Tab α
  | [], _ => []
  | (j, w) :: t, k => if j = k then tdel t k else (j, w) :: tdel t k

/-- Keep the entries whose key satisfies a test. -/
def tfilter {α : Type} (p : Nat → Bool) (t : Tab α) : Tab α := t.filter (fun e => p e.1)

/-- Change the entry of a key, starting from a default. -/
def tmod {α : Type} (t : Tab α) (k : Nat) (d : α) (f : α → α) : Tab α := tput t k (f (tgetD t k d))

/-- Least key, from 0, below `bound`, that has no entry. -/
def tfree {α : Type} (t : Tab α) (bound : Nat) : Option Nat :=
  (List.range bound).find? (fun k => (tget t k).isNone)

/-- Remove the first equal element. -/
def eraseFirst {α : Type} [DecidableEq α] (x : α) : List α → List α
  | [] => []
  | y :: l => if y = x then l else y :: eraseFirst x l

end Sys2Proof.Machine
end

