-- ==== Sys2Proof/Machine/State.lean ====
section
/-!
DEFINITION. The state of the device: everything the manual says it holds, as plain data.  Control-space
registers lie in `regs`, memory in `mem`, and each unit's further state in a record of its own.
-/
namespace Sys2Proof.Machine

/-- Why a step can stop with a fault. No command of the device does: every refusal of the manual is a
next state with its status. -/
inductive Fault where
  /-- raised by no command; safe -/
  | none
deriving DecidableEq, Repr

/-- Why a command has no meaning. -/
inductive Refusal where
  /-- a command whose arm has no meaning yet; safe -/
  | notModelled (mnemonic : String)
deriving DecidableEq, Repr

/-! ### Memory -/

/-- What a filled range reads as: zero, or undefined bytes under a fill number. -/
inductive FillV where
  | zero
  | free (id : Nat)
deriving DecidableEq, Repr

/-- A filled address range, `first` inclusive to `last` exclusive. -/
structure Fill where
  first : Nat
  last : Nat
  v : FillV
deriving DecidableEq, Repr

/-- HBM, basin and companion memory over the 48-bit address space: listed bytes over filled ranges, newest fill first. -/
structure Memory where
  cells : List Host.Cell
  fills : List Fill
deriving DecidableEq, Repr

/-- A correction that has been read but not yet written back (R285). -/
structure WriteBack where
  /-- symbol positions and patterns to remove -/
  pat : List (Nat × Nat)
  /-- the word has been written since -/
  stale : Bool
deriving DecidableEq, Repr

/-- A byte-masked write under way in its bank (R135): the row as its read found it, the masked bytes, and whether the row has been read. -/
structure PartialWr where
  granule : Nat
  mask : W64
  bytes : List Byte
  data : List Byte
  read : Bool
deriving DecidableEq, Repr

/-- An unscheduled write of one granule that a bank holds back (R140, R142), and the ring buffer that it fills: window and buffer. -/
structure HeldWrite where
  granule : Nat
  bytes : List Byte
  buf : Option (Nat × Nat)
  /-- a deferred write of R142, which goes before the other waiting writes -/
  first : Bool
deriving DecidableEq, Repr

/-- A scheduled access of a bank: its granule, whether it writes, and the row's bytes before it. -/
structure Touch where
  granule : Nat
  wr : Bool
  old : List Byte
deriving DecidableEq, Repr

/-- The banks of a scratchpad or field pool in the present cycle (R140-R142). -/
structure BankPort where
  /-- scheduled accesses of this cycle -/
  touched : List Touch
  /-- granules of scheduled accesses that go on, by cycles from the next; true writes -/
  coming : List (List (Nat × Bool))
  /-- unscheduled writes that have landed in this cycle, with the row's bytes before them -/
  landed : List (HeldWrite × List Byte)
  /-- granules of unscheduled reads of this cycle -/
  reads : List Nat
  /-- writes held back, in order of arrival -/
  held : List HeldWrite
deriving DecidableEq, Repr

/-! ### A core -/

/-- Why a core is credit-held (Table TIL-3). -/
inductive Cause where
  | swap (twin : Nat) | commit | dma | token | injection | engine | passQueue | snoop | repeatRun
deriving DecidableEq, Repr

/-- A weight tile in a shadow or active register of the arrays: rows of element values, checksum rows, silt. -/
structure WTile where
  fmt : Fmt
  k : Nat
  w : Nat
  left : Nat
  /-- stored transposed -/
  trans : Bool
  /-- element bits, k rows of w -/
  els : List (List Nat)
  /-- block fields, by block index along K then column -/
  sf : List Nat
  /-- four checksum weights per reduction row -/
  chk : List (List W32)
  silt : Bool
deriving DecidableEq, Repr

/-- A weight load whose data have not all arrived (R65). -/
structure LoadPend where
  op : LoadOp
  trans : Bool
  /-- granules still awaited -/
  need : List Nat
  /-- granules that have arrived -/
  got : Tab (List Byte)
deriving DecidableEq, Repr

/-- An accumulator bank of one twin and half (R68): values by row × 128 + column. -/
structure Bank where
  isOpen : Bool
  final : Bool
  /-- type of the values, fixed at opening: +0.0 or integer 0 (R44, R68) -/
  integer : Bool
  rows : Nat
  /-- counter value at which each row's latest unit entered (R74) -/
  entered : Tab Nat
  /-- rows that the drain has read -/
  drained : Nat
  silt : Bool
  /-- reduction indices accumulated, for the tolerance of R231 -/
  kSum : Nat
  wfmt : Nat
  xfmt : Nat
  vals : Tab W32
  /-- checksum columns, by row × 4 + value -/
  colChk : Tab W32
  /-- checksum rows, by row × 132 + column -/
  rowChk : Tab W32
deriving DecidableEq, Repr

/-- A converted copy of a drained tile with its own checksums (R75, R200, R202). -/
structure StagedCopy where
  fmt : Nat
  /-- converted element bits, by row × 128 + column -/
  els : Tab Nat
  /-- block fields, by row × 128 + block -/
  sf : Tab Nat
  /-- accumulated 1ᵀY and vᵀY, by column -/
  pair : Tab (W32 × W32)
  /-- row records, six sums by row -/
  recs : Tab (List W32)
deriving DecidableEq, Repr

/-- Staging of a drained tile (R75, R79). -/
structure Staging where
  rows : Nat
  main : StagedCopy
  /-- the second copy of R200 -/
  second : Option StagedCopy
  silt : Bool
  stats : FmtStats
  hist : Tab Nat
  nanSrc : Bool
  /-- verdict of the tile: none while not ready -/
  verdict : Option Bool
  /-- a repeat procedure has decided what commits -/
  decided : Bool
  epi : Epilogue
  /-- the bank as the drain's last read left it: what the checksum unit gathered -/
  src : Option Bank
deriving DecidableEq, Repr

/-- What lands at the end of a vector instruction's latency (R120). -/
inductive VWrite where
  /-- lanes: number, value, the bits written; silt flags of granules set or cleared -/
  | reg (r : Nat) (lanes : List (Nat × W32 × W32)) (silt : List (Nat × Bool))
  /-- value and the bits written -/
  | mask (k : Nat) (v bits : BitVec 1024)
  | acc (a : Nat) (lo hi : W32) (silt : Bool)
  /-- bytes of one granule of the core's scratchpad with the bits of them that are written; a silted store writes the silt codeword -/
  | mem (granule : Nat) (bytes : List (Nat × Byte × Byte)) (silt : Bool)
deriving DecidableEq, Repr

/-- Vector engine and reduction unit (R116-R131). -/
structure Vec where
  /-- register words by register × 512 + lane -/
  regs : Tab W32
  /-- silted granules by register × 32 + granule -/
  silt : List Nat
  /-- k1-k7 -/
  masks : Tab (BitVec 1024)
  /-- a0-a3: lo, hi, silt -/
  accs : Tab (W32 × W32 × Bool)
  /-- results in flight and the counter value at which each becomes readable -/
  due : List (Nat × VWrite)
  /-- stochastic generators by element position -/
  gens : Tab W64
  /-- checksum rows gathered by converting stores, by column (R130) -/
  rows : Tab (W32 × W32)
deriving DecidableEq, Repr

/-- A sluice window (Table BASIN-5) with the bytes landed in each ring buffer (R161). -/
structure Window where
  base : Nat
  size : Nat
  ring : Nat
  kind : Nat
  wr : Bool
  add : Bool
  srcId : Nat
  gen : Nat
  isOpen : Bool
  drainClosed : Bool
  landed : Tab Nat
deriving DecidableEq, Repr

/-- A turnout-credit range (Table BASIN-6); `granted` is the full count of R162. -/
structure CRange where
  base : Nat
  units : Nat
  unitLog : Nat
  kind : Nat
  wr : Bool
  srcId : Nat
  gen : Nat
  isOpen : Bool
  drainClosed : Bool
  granted : Nat
  admitted : Nat
deriving DecidableEq, Repr

/-- A DMA transfer whose granules are not all acknowledged, and the token it then sends (R166). -/
structure DmaOut where
  open_ : List Nat
  tokens : List (PType × Packet)
deriving DecidableEq, Repr

/-- The task that a core runs (R106): program, pipeline, stage and sequence. -/
structure Task where
  prog : Nat
  pipe : Nat
  stage : Nat
  seq : Nat
  seed : W64
  step : Nat
  /-- C for the run-time shape (R100), and the spills of the core's region before the task -/
  budget : Nat
  spills : Nat
  /-- class, argument areas, shape, context and tag of its sequence, which may end before the task does (R294) -/
  cls : Nat
  input : Nat
  output : Nat
  shape : List Nat
  ctx : Nat
  tag : W32
deriving DecidableEq, Repr

/-- A pattern-log entry (Table CHK-5). -/
structure PEntry where
  seq : Nat
  unit : Nat
  cls : Nat
  twin : Nat
  half : Nat
  mode : Nat
  located : Bool
  wfmt : Nat
  xfmt : Nat
  cube : Nat
  row : Nat
  col : Nat
  pass : Nat
  region : Nat
  count : Nat
  entering : W32
  observed : W32
  expected : W32
  acts : List Byte
  weights : List Byte
  blocks : List Byte
deriving DecidableEq, Repr

/-- A credit hold in force: its cause and its cycles so far (R107, R112). -/
structure CreditHold where
  cause : Cause
  cycles : Nat
deriving DecidableEq, Repr

/-- A core's state outside its registers and memory. -/
structure Core where
  task : Option Task
  faulted : Bool
  /-- cycles left of an ECC hold -/
  ecc : Nat
  /-- credit holds in force; the core runs when none is left (R108) -/
  credit : List CreditHold
  port : BankPort
  /-- split operation (R84) -/
  split : Bool
  shadow : Tab WTile
  active : Tab WTile
  loads : List LoadPend
  /-- twins and halves, as twin × 3 + half, whose shadow holds a load not yet swapped in (R64, R101) -/
  unswapped : List Nat
  /-- twin × 6 + half × 2 + bank -/
  banks : Tab Bank
  /-- twin × 6 + half × 2 + bank -/
  staging : Tab Staging
  vec : Vec
  wins : Tab Window
  rngs : Tab CRange
  /-- write tokens by window × 8 + buffer, and free tokens by (target × 256 + window) × 8 + buffer -/
  wtok : Tab Nat
  ftok : Tab Nat
  /-- ring buffers of other cores whose turnout credit this core holds, keyed as `ftok`: from their free token to their write token (R109) -/
  owned : List Nat
  /-- checks received for the two latest boundaries (R260) -/
  checks : Tab Nat
  boundary : Nat
  /-- boundary whose checks the first wait point of the present step awaits (R111) -/
  gate : Option Nat
  /-- outstanding DMA granules (R143) -/
  dma : List DmaOut
  /-- transfers that wait for companion data or for snoops: descriptor and outstanding tags (R334, R338) -/
  dmaWait : List (DmaDesc × List Nat)
  partials : List PartialWr
  /-- 128 slots of 8 KiB: slot × 8192 + byte, and silted granules by slot × 128 + granule (R207, R210) -/
  maskBytes : Tab Byte
  maskSilt : List Nat
  maskUsed : List Nat
  /-- output rows of each transposed read, by its offset (R138, R199) -/
  tread : Tab (List (List Byte))
  /-- a repeat procedure is under way (R235) -/
  repeating : Bool
  /-- pattern-log entry captured by the repeat procedure under way (R238) -/
  logDue : Option PEntry
  /-- per core or partition reset in progress: the sink acts (R272) -/
  resetting : Bool
  suspect : Bool
  /-- where the best-effort sample starts in the present step (R242) -/
  samplePos : Nat
  /-- the core has not answered a control read for 100 µs, or its domain lost power without a drain (R375) -/
  lost : Bool
  /-- the governed stream of the present task has met a NaN source (Table BWD-4, row 3) -/
  fstNan : Bool
  /-- input vectors that follow flume descriptors to the pool (R178) -/
  vectors : List (BitVec 128 × List Byte)
  /-- figures of R56 of each conversion stream of the task -/
  streams : Tab FmtStats
deriving DecidableEq, Repr

/-! ### Engines -/

inductive PassState where
  | queued | filling | running | verdictDue | done
deriving DecidableEq, Repr

/-- A flume pass (R176-R184). -/
structure Pass where
  core : Nat
  /-- field of a pool pass -/
  field : Option Nat
  desc : BitVec 128
  senior : Bool
  st : PassState
  /-- results by vector × outputs + output -/
  res : Tab W32
  siltOut : List Nat
  attempt : Nat
  failed : List Nat
  /-- bytes of its results that have been sent, repeats included (R161, R184), and of these the acknowledged or refused -/
  sent : Nat
  acked : Nat
  /-- region count after its last row read (R179) -/
  until_ : Nat
deriving DecidableEq, Repr

/-- A row that furrow has computed and not yet written (R188, R189). -/
structure FuRow where
  req : Nat
  granule : Nat
  /-- bytes of the granule that the update writes -/
  new : List Byte
  silt : Bool
  checked : Bool
  integer : Bool
  /-- unrounded new values, and α Σs + β Σt_old, for the verdict of R191 -/
  newVals : List W32
  ref : FV
deriving DecidableEq, Repr

/-- A part of a furrow request that waits for its engine: a group of target elements and the group's place, and the source row of a
SCATTER_ADD (R192, R483). -/
structure FuOp where
  req : Nat
  group : Nat
  target : Nat
  source : Nat
deriving DecidableEq, Repr

/-- A furrow request (Table FLU-4). -/
structure FuReq where
  core : Nat
  remote : Bool
  req : BitVec 256
  /-- seed of the issuing task (R188) -/
  seed : W64
  /-- source of a remote add, or an optimiser's parameter block -/
  data : List Byte
  /-- it has reached its engines -/
  arrived : Bool
  /-- region count at which it began to wait behind a flume pass -/
  waiting : Option Nat
  /-- it waited behind a flume pass, and is served before the next (R196) -/
  behind : Bool
  /-- parts and rows not yet written -/
  left : Nat
  oob : Bool
  siltIdx : Option Nat
deriving DecidableEq, Repr

/-- One engine block (R169): its flume input buffer, the furrow parts that wait in order, its pending rows. -/
structure Block where
  input : List Byte
  ops : List FuOp
  rows : List FuRow
  suspect : Bool
deriving DecidableEq, Repr

/-- A pool range (Table BASIN-4). -/
structure PoolRange where
  first : Nat
  stripes : Nat
  mode : Nat
  part : Nat
  hbmFirst : Nat
  hbmLast : Nat
  /-- deferred change: new mode, window, or release (R152) -/
  change : Option (Nat × Nat × Nat)
deriving DecidableEq, Repr

/-- A cached line; lists of lines run from most to least recently used. -/
structure Line where
  line : Nat
  range : Nat
  data : List Byte
  upset : List (Nat × Nat)
deriving DecidableEq, Repr

/-- An open merge (R155). Merges of one HBM fill share its tag. -/
structure Merge where
  line : Nat
  targets : List Nat
  fill : Bool
  /-- field-region count at which the reply leaves -/
  due : Nat
  range : Nat
  tag : Nat
  /-- granules of the fill that have come -/
  got : Tab (List Byte)
  /-- the line has been invalidated since (R150): no read joins, and no line is allocated -/
  closed : Bool
deriving DecidableEq, Repr

/-- A reply that a target has still to get: it holds no receive credit, or an earlier read of it is unanswered (R156, R157). -/
structure HeldReply where
  core : Nat
  line : Nat
  part : Nat
  range : Nat
  data : List Byte
  /-- field-region count at which it was held -/
  since : Nat
deriving DecidableEq, Repr

/-- A field's pool and engines. -/
structure Field where
  ranges : Tab PoolRange
  lines : List Line
  merges : List Merge
  held : List HeldReply
  /-- reads of each core that have reached pool control and are not answered: core and line, in order (R157) -/
  asked : List (Nat × Nat)
  /-- passes that wait, at most 8, and passes whose core is held at the full queue (R178) -/
  queue : List Nat
  outside : List Nat
  /-- the pass whose buffers fill, and the pass whose rows are read or whose verdict is due -/
  filling : Option Nat
  running : Option Nat
  port : BankPort
  dark : Bool
  /-- R266 forbade making the field dark: its pool ports carry crossing traffic only (R426) -/
  withheld : Bool
deriving DecidableEq, Repr

/-! ### The canal -/

/-- One direction of a canal link at a router: its sending side and its receiving side (R258, R261). -/
structure CLink where
  down : Bool
  credits : Tab Nat
  lastCount : Tab Nat
  /-- sequence numbers of the last 24 flits sent -/
  kept : List Nat
  txSeq : Nat
  rxSeq : Nat
  discarding : Bool
  refused : Nat
  sinceWord : Nat
deriving DecidableEq, Repr

/-- A packet on its way: the routers still before it, the one that it is at first; the hops left in phase 0; and at its output port the
flits still to send and the cycles waited (R249, R264). -/
structure Flight where
  t : PType
  p : Packet
  path : List Nat
  leg : Nat
  left : Nat
  waited : Nat
  /-- it has come here in the present cycle -/
  moved : Bool
deriving DecidableEq, Repr

/-- An output port of a router (R253, R254). -/
structure OutPort where
  wait : List Flight
  /-- position of the calendar -/
  cal : Nat
  /-- turn of standard and junior, 2:1 -/
  turn : Nat
  /-- the 3 previous cycles: the token channel sent while data waited with a credit -/
  tok : List Bool
deriving DecidableEq, Repr

/-- A multicast group (R269). -/
structure Group where
  src : Nat
  targets : List Nat
  part : Nat
  prog : Nat
deriving DecidableEq, Repr

/-! ### The Brivlink -/

/-- A message that the device has sent (Table HGM-2), or a link flit. -/
inductive BvMsg where
  | rd (tag line lines : Nat) | wr (tag line : Nat) (data : List Byte) | wrPart (tag line : Nat) (mask : W64) (data : List Byte)
  | snpInv (tag line : Nat) | snpData (tag line : Nat) | cpl (tag : Nat) (status : Nat) | cplData (tag : Nat) (data : List Byte)
  | credit (req rsp snp dat : Nat) | idle (ack : Nat) | replayReq (ack : Nat) | replay (fseq : Nat)
deriving DecidableEq, Repr

/-- Directory state of a shared line other than I. -/
inductive DirSt where
  | shared | modified
deriving DecidableEq, Repr

/-- What waits on a snoop: a read to answer, or a write to perform (R337, R338). -/
inductive SnoopFor where
  | read (pkt : Packet) | write (data : List Byte) (pkt : Option Packet) | probe
deriving DecidableEq, Repr

structure Snoop where
  line : Nat
  tag : Nat
  what : SnoopFor
  core : Option Nat
  /-- headgate count at which it was sent -/
  sent : Nat
deriving DecidableEq, Repr

/-- Brivlink link, credits and directory. -/
structure Bv where
  /-- messages and link flits sent, oldest first -/
  tx : List BvMsg
  /-- messages that wait for a credit of their channel (R329) -/
  wait : List BvMsg
  /-- fseq of the next flit sent -/
  txSeq : Nat
  /-- the last fseq received in order -/
  rxSeq : Nat
  /-- fseq of the flits sent and not yet covered by an ack, at most 512 (R330) -/
  kept : List Nat
  discarding : Bool
  /-- successive replays from one fseq, and that fseq (R331) -/
  replays : Nat
  replayAt : Nat
  /-- credits that the device holds: REQ, RSP and SNP messages, DAT lines -/
  credReq : Nat
  credRsp : Nat
  credSnp : Nat
  credDat : Nat
  dir : Tab DirSt
  snoops : List Snoop
  nextTag : Nat
  /-- unacknowledged device writes to space 3: tag, context, command tag -/
  writes : List (Nat × Nat × W32)
  /-- unanswered device reads of space 3: tag, core, first line -/
  reads : List (Nat × Nat × Nat)
  /-- reads and data snoops that have been sent and not answered, and the lines of their replies (R329) -/
  asked : List (Nat × Nat)
deriving DecidableEq, Repr

/-! ### The headgate complex -/

/-- A segment (Table PRG-2), pages inclusive. -/
structure Seg where
  base : Nat
  limit : Nat
  rd : Bool
  wr : Bool
  add : Bool
  exp : Bool
  raw : BitVec 128
deriving DecidableEq, Repr

/-- Control state of an allotment scope (R413). -/
structure Scope where
  allot : Option Nat
  window : Nat
  ceiling : Nat
  k : Nat
  overs : Nat
  lastChange : Nat
  shedJ : Bool
  shedS : Bool
  /-- 1 ms periods since the window mean was last at 0.85 of the allotment or more -/
  lowFor : Nat
  peak : Nat
  /-- headgate count of the latest overrun report (R415) -/
  overrunAt : Option Nat
deriving DecidableEq, Repr

structure Partition where
  clusters : List Nat
  senior : Nat
  standard : Nat
  junior : Nat
  checks : Bool
  sample : Nat
  segs : List Seg
  ctxFirst : Nat
  ctxCount : Nat
  queueLimit : Nat
  imgBase : Nat
  imgBytes : Nat
  /-- first telemetry sequence that its tenants may read (R461) -/
  telFrom : Nat
  pow : Scope
  vtStd : Rat
  vtJun : Rat
  vtCtx : Tab Rat
  sampleSkipped : Nat
  /-- headgate count of the latest checks-disabled report (R224) -/
  chkAt : Nat
  /-- survey deferral limit in hours (Table RES-1) -/
  deferH : Nat
  /-- counted cycles of its stages in the present window (R422) -/
  cyc : Nat
deriving DecidableEq, Repr

structure Program where
  img : Image
  part : Nat
  base : Nat
  bytes : Nat
  reserved : Nat
  unloading : Bool
deriving DecidableEq, Repr

/-- A weight tensor's bases (R351). -/
structure TBind where
  weight : Nat
  side : Nat
  tside : Nat
  bytes : Nat
deriving DecidableEq, Repr

/-- Figures of a layer over a step: non-zero sources, overflows, counters 31 to 63, counter 63, amax, a NaN source (R217, R219). -/
structure GovSum where
  z : Nat
  overs : Nat
  h31 : Nat
  h63 : Nat
  amax : W32
  nan : Bool
deriving DecidableEq, Repr

/-- Format governor of one layer (R217-R219). Formats: 1 E5M2, 2 G12, 3 BF16. -/
structure Gov where
  policy : BitVec 64
  fmt : Nat
  eref : Int
  scale : Int
  steps : Nat
  hold8 : Nat
  hold12 : Nat
  /-- figures of the layer's tasks since the last decision (R217) -/
  sum : GovSum
  /-- decision taken and not yet in force: format, E_ref, scale (R220) -/
  next : Option (Nat × Int × Int)
deriving DecidableEq, Repr

structure Model where
  prog : Nat
  part : Nat
  tensors : List TBind
  govs : Tab Gov
deriving DecidableEq, Repr

/-- A loaded pipeline (R303), keyed program × 64 + pipeline. -/
structure Pipe where
  /-- current core of each stage -/
  cores : List Nat
  /-- sequences holding slots, earliest first -/
  slots : List Nat
  live : Bool
  halted : Bool
  held : Bool
  reserved : Bool
  lastUsed : Nat
  /-- for each stage, the sequences whose task it has still to start, in the order in which the stage before ended theirs -/
  queues : List (List Nat)
  stopAdmit : Bool
deriving DecidableEq, Repr

inductive SeqSt where
  | queued | inRing | flight
deriving DecidableEq, Repr

/-- A sequence: the work of one DISPATCH. -/
structure Sequ where
  ctx : Nat
  tag : W32
  irq : Bool
  part : Nat
  cls : Nat
  model : Nat
  shape : List Nat
  steps : Nat
  done : Nat
  seed : W64
  input : Nat
  output : Nat
  /-- headgate count of the deadline -/
  deadline : Option Nat
  st : SeqSt
  /-- returned from a pipeline that went down: ahead of its class (R301) -/
  front : Bool
  pipe : Nat
  cancel : Bool
  bell : Nat
  ackAt : Nat
  startAt : Nat
  energy : Nat
  /-- counted cycles of its stages in the present window (R422) -/
  cyc : Nat
  /-- of a senior sequence: each ended task's stage, its H and its spills (R324) -/
  held : List (Nat × Nat × Nat)
deriving DecidableEq, Repr

/-- A pinned matrix (R171-R174). -/
structure Pin where
  part : Nat
  field : Option Nat
  core : Option Nat
  base : Nat
  bytes : Nat
  n : Nat
  k : Nat
  fmt : Nat
  matrix : Nat
  side : Nat
  /-- outputs in each segment but the last -/
  segOut : Nat
  segs : Nat
  /-- blocks whose engines hold it: field × 32 + block (R172) -/
  blocks : List Nat
  lost : Bool
  unpin : Bool
deriving DecidableEq, Repr

/-- A completion that is due (Table HGM-8). -/
structure Cpl where
  ctx : Nat
  tag : W32
  status : Nat
  interim : Bool
  detail : W64
  pos : W32
  hint : W32
  energy : W64
  irq : Bool
deriving DecidableEq, Repr

/-- A command that has been read and not finally completed (R346, R348). -/
structure OpenCmd where
  ctx : Nat
  tag : W32
  op : Nat
  deferred : Bool
  /-- the firmware has decided it -/
  decided : Bool
deriving DecidableEq, Repr

/-- A telemetry record (R354). -/
structure TRec where
  seq : Nat
  kind : Nat
  region : Nat
  count : Nat
  part : Option Nat
  body : List Byte
deriving DecidableEq, Repr

/-- A secured tensor (Table RES-2). -/
structure STensor where
  base : Nat
  bytes : Nat
  method : Nat
  slot : Nat
  /-- method now: 1 mirror, 2 parity, 0 not chosen yet -/
  now : Nat
  highLast : Bool
  lowRun : Nat
  /-- method at the last committed point; a tensor that changes method ships whole until then (R364) -/
  was : Nat
  /-- dirty granules -/
  dirty : List Nat
  /-- local copy and uncommitted deltas by granule -/
  copy : Tab (List Byte)
  delta : Tab (List Byte)
deriving DecidableEq, Repr

/-- Securing of a partition (R359-R369). -/
structure Secure where
  n : Nat
  rMax : Nat
  defer : Nat
  mirrorMax : Nat
  areaBase : Nat
  areaBytes : Nat
  step0 : Nat
  tensors : List STensor
  epoch : Nat
  committed : Nat
  /-- 0 none open, 1 captured, 2 sent -/
  phase : Nat
  /-- headgate counts of capture and send -/
  capturedAt : Nat
  sentAt : Nat
  step : Nat
  hold : Nat
  dirtyBytes : Nat
  /-- headgate count since which a capture waits for the commit of the last point, the unreserved pipelines held (R368) -/
  holdFrom : Option Nat
  /-- step number that the job has reached, and that of the last committed point -/
  cur : Nat
  cstep : Nat
deriving DecidableEq, Repr

/-- A member of the ring (Table RES-4). -/
structure Member where
  pos : W32
  conn : Nat
  /-- headgate count at which it was last heard by the relief device or a neighbour -/
  heard : Nat
  lost : Bool
  fenceOrdered : Bool
deriving DecidableEq, Repr

/-- What a device of a ring sends over the Aeldal transport (R368-R373). -/
inductive RingMsg where
  /-- Ethernet port addresses, position ID, and the tensors' sizes and methods (R370) -/
  | config (ports : List Nat) (pos : W32) (tensors : List (Nat × Nat))
  /-- mirror deltas and whole tensors of an epoch: bytes -/
  | mirror (epoch bytes : Nat)
  /-- a member's share of a slot's parity stream -/
  | parity (epoch slot : Nat)
  | commit (epoch : Nat) | rollback (epoch : Nat)
  | beat (heard : List Nat) | beatAck | fence | fenceAck
  /-- stop acknowledging a member -/
  | stopAck (member : Nat)
  | announce (pos : W32)
deriving DecidableEq, Repr

structure Ring where
  id : Nat
  role : Nat
  index : Nat
  beat : Nat
  reliefBase : Nat
  reliefBytes : Nat
  /-- the members in order, the relief device last -/
  members : List Member
  /-- this device has fenced itself -/
  fenced : Bool
  reliefLost : Bool
  beats : Nat
  restored : Nat
  takenOver : Option Nat
  /-- messages sent: device (members in order, the relief device last) and message -/
  sent : List (Nat × RingMsg)
deriving DecidableEq, Repr

/-- Survey state of a core (R377). -/
structure Survey where
  dueAt : Nat
  due : Bool
  since : Nat
  movedFrom : Option (Nat × Nat)
  reports : Nat
deriving DecidableEq, Repr

/-- A partial reset in progress (Tables BOOT-7, BOOT-9): its level (0 partition, 1 cluster, 2 core), its cores, when its
bound has passed, and the completions that wait for it. -/
structure PReset where
  level : Nat
  part : Option Nat
  cores : List Nat
  until_ : Nat
  cpls : List Cpl
deriving DecidableEq, Repr

/-- Headgate complex: ownership, programs and queues. -/
structure Head where
  parts : Tab Partition
  progs : Tab Program
  models : Tab Model
  pipes : Tab Pipe
  seqs : Tab Sequ
  nextSeq : Nat
  pins : Tab Pin
  cplDue : List Cpl
  opened : List OpenCmd
  /-- completion entries reserved per context (R346) -/
  resv : Tab Nat
  /-- headgate count of the latest interrupt of each context, and contexts with one due -/
  irqAt : Tab Nat
  irqDue : List Nat
  groups : Tab Group
  /-- via entries other than 0xFF, by router × 512 + endpoint -/
  via : Tab Nat
  calS : Nat
  tel : List TRec
  telNext : Nat
  telLost : Nat
  /-- records that the ring has overwritten: sequence number and partition -/
  telGone : List (Nat × Option Nat)
  telPush : List TRec
  /-- records due during a reload proper (R358) -/
  telBuf : List TRec
  ledger : List W32
  ledgerNow : List W32
  suspects : Tab Nat
  /-- suspect events that have come about and are not yet counted: core, or 256 + field × 32 + block (R240) -/
  suspectDue : List Nat
  transients : Tab (List Nat)
  plog : List PEntry
  plogNext : Nat
  secure : Tab Secure
  ring : Option Ring
  surveys : Tab Survey
  /-- headgate count of the latest command doorbell of each context -/
  bells : Tab Nat
  /-- firmware reload: 0 none, 1 draining, 2 proper -/
  reload : Nat
  reloadCmd : Option Cpl
  reloadWait : List Cpl
  reloads : Nat
  resets : List PReset
  /-- firmware images and reports held by the headgate: the image that a reload has verified -/
  reloadImage : List Byte
deriving DecidableEq, Repr

/-! ### Clocks, power, heat, boot, module -/

/-- A clock region and power domain (R381-R395). -/
structure Region where
  powered : Bool
  count : Nat
  running : Bool
  locked : Bool
  /-- the region has left reset (R382) -/
  out : Bool
  holdover : Bool
  holdoverSince : Nat
  /-- event records of the present holdover (R384) -/
  holdReports : Nat
  slewing : Bool
  k : Nat
  thermal : Nat
  kMargin : Nat
  /-- 0 none, 1 announced -/
  spill : Nat
  spills : Nat
  margin : Nat
  least : Nat
  warnings : Nat
  /-- a warning's setpoint raises are under way (R410) -/
  below3 : Bool
  /-- headgate counts since which the margin stands at 6 % or more, or below 3 % at 0.85 V -/
  highSince : Nat
  lowSince : Nat
  shed : Bool
  /-- headgate count at which a shed of the domain began that has not powered it off yet (R426) -/
  draining : Option Nat
  power : Nat
  volts : Nat
  lastStep : Nat
deriving DecidableEq, Repr

/-- A VCORE phase group (R403, R404, R408, R410). -/
structure VGroup where
  raise : Nat
  raisedAt : Nat
  loweredAt : Nat
  off : Bool
  offAt : Nat
  /-- headgate counts of latches -/
  latches : List Nat
  stay : Bool
deriving DecidableEq, Repr

/-- A temperature sensor: reading in 1/16 °C, and for each level the count since which it holds and is below. -/
structure Sensor where
  t : Int
  high : Int
  warn : Bool
  step : Bool
  shed : Bool
  warnSince : Option Nat
  stepSince : Option Nat
  shedSince : Option Nat
  coolWarn : Option Nat
  coolStep : Option Nat
  coolShed : Option Nat
  below95 : Option Nat
deriving DecidableEq, Repr

/-- A crossing, keyed as log entry 20 numbers them (Table CLK-1, R387). -/
structure Crossing where
  engaged : Bool
  skew : Bool
  /-- entries that its receiver has not taken (R386, R389) -/
  fill : Nat
  /-- receiving region's count when the last failing condition of R387 cleared; `none` while one fails -/
  clear : Option Nat
deriving DecidableEq, Repr

/-- Correlation agent (R396, R397). -/
structure Agent where
  pairs : List (Nat × Nat × Nat)
  spills : Nat
  dis : Nat
  heldOver : Bool
  least : Nat
deriving DecidableEq, Repr

structure Power where
  presentA : Bool
  presentB : Bool
  cvA : Nat
  cvB : Nat
  brake : Bool
  emergency : Bool
  clearAt : Option Nat
  board : Nat
  winMean : Nat
  fast : Bool
  dev : Scope
  savedAllot : Nat × Nat
  overrun : Nat
  /-- scale factor of the latest window -/
  scale : Rat
  tripSensor : Nat
  tripped : Bool
  tripC : Nat
  trips : Nat
  /-- events counted in this window by scope × 16 + class; scope 60 is unowned -/
  events : Tab Nat
  groups : Tab VGroup
  sensors : Tab Sensor
  /-- bus-converter disconnected feeds -/
  cutA : Bool
  cutB : Bool
deriving DecidableEq, Repr

structure Clocks where
  regions : Tab Region
  crossings : Tab Crossing
  agents : Tab Agent
  refPresent : Bool
  allHold : Bool
  dis : Nat
  hgLatch : Nat
  lastMark : Nat
deriving DecidableEq, Repr

/-- Fuses and one-time memory, never cleared (Table SEC-1, R3, R408, R419). -/
structure Fuses where
  grade : Nat
  serial : W64
  svn : Nat
  revoked : List Nat
  keyHash : Tab (BitVec 512)
  cert : List Byte
  ethBase : Nat
  /-- Vmin in mV by group × 17 + setting -/
  vmin : Tab Nat
deriving DecidableEq, Repr

/-- Boot and always-on state (17, 19). -/
structure Boot where
  /-- Table BOOT-8 phase -/
  phase : Nat
  status : Nat
  /-- readiness status decided at B13 -/
  outcome : Nat
  failures : Nat
  vaon : Bool
  /-- headgate count at the start of each rotation wave so far -/
  rotated : List Nat
  /-- no boot before a device reset: a trip has shut the device down (R428) -/
  halted : Bool
  /-- counts: region 79's at the boot's start, the headgate's at the entry of B5 -/
  startAt : Nat
  b5At : Nat
  b5Ms : Nat
  ms : Nat
  fetched : List Byte
  block : List Byte
  verified : Bool
  measure : BitVec 512
  slot : Nat
  imgSvn : Nat
  fwver : Nat
  revoke : Nat
  commit : Bool
  fuseDue : Bool
  ready : Bool
  decided : Bool
  strict : Bool
  ledgerOk : Bool
  presented : Nat
  appended : Nat
  stacksOk : Bool
  ethDone : List Nat
  surveyed : Bool
  lanesDone : Bool
  hbmDone : Bool
  scrubbed : Bool
  expected : Nat
  /-- ports trained at full width (hg_ports bits 31:16) -/
  fullPorts : Nat
  partialResets : Nat
  deviceResets : Nat
  newEntries : List W32
  refsel : Bool
  addr : Nat
  dynAddr : Option (BitVec 7)
  ptr : W32
  i3cOut : List W32
  nacks : Nat
  ibi : Nat
  jtagOut : List (List Bool)
  jtagCells : List Bool
  jtagInstr : Nat
  jtagDrive : List Bool
  resetLow : Bool
  readyPin : Bool
  alertN : Bool
  bvState : Nat
  bvWidth : Nat
  bvTries : Nat
  bvReversed : Bool
  hgState : Nat
deriving DecidableEq, Repr

/-- An Ethernet port (R471-R474). -/
structure EthPort where
  st : Nat
  width : Nat
  tries : Nat
  kr : Bool
  degraded : Bool
  lanes : Nat
  failedBoots : Tab Nat
  /-- region-76 count at first bring-up -/
  since : Option Nat
  tsLatch : Nat
  addr : Nat
deriving DecidableEq, Repr

/-- A connection context of the Aeldal transport (R472, R473). -/
structure Conn where
  part : Nat
  /-- the set of ports that it names -/
  ports : List Nat
  isOpen : Bool
  /-- packets refused at their target (R164) -/
  dropped : Nat
  /-- turnout units written since it opened, and granules written in a sluice window -/
  unit : Nat
  off : Nat
  /-- packets that wait for a port, with the core that sends them -/
  held : List (Option Nat × List Byte)
  /-- packets received: port and timestamp -/
  rx : List (Nat × Nat)
  /-- packets sent: port, timestamp and bytes -/
  tx : List (Nat × Nat × List Byte)
deriving DecidableEq, Repr

/-- An HBM write that waits for the invalidations of R150 before its ACK: port, writer, stamp, first granule,
granules, and the (line, field) pairs not yet acknowledged. -/
structure InvWait where
  port : Nat
  toE : Nat
  part : Nat
  granule : Nat
  n : Nat
  left : List (Nat × Nat)
deriving DecidableEq, Repr

/-- HBM side and stack state beyond registers: corrections by (pseudo channel key × 36 + symbol), with the counts' times. -/
structure Hbm where
  lanes : Tab (List Nat)
  total : Tab Nat
  trained : List Nat
  refreshes : Tab Nat
  refused : Nat
  invals : List InvWait
deriving DecidableEq, Repr

/-- The whole device. -/
structure State where
  /-- the model's own queue of waiting commands, first in, first out -/
  pending : List Instr
  /-- the model's own count of free values drawn (log entry 7) -/
  fresh : Nat
  regs : Tab W32
  mem : Memory
  /-- disturbed stored bits, by granule: symbol position and pattern -/
  upset : Tab (List (Nat × Nat))
  backs : Tab WriteBack
  cores : Tab Core
  fields : Tab Field
  blocks : Tab Block
  passes : Tab Pass
  furrow : Tab FuReq
  links : Tab CLink
  canal : List (PType × Packet)
  /-- output ports: link router × 4 + direction, or 4,096 + endpoint -/
  outs : Tab OutPort
  bv : Bv
  head : Head
  clk : Clocks
  pow : Power
  fuses : Fuses
  boot : Boot
  ports : Tab EthPort
  conns : Tab Conn
  hbm : Hbm
deriving DecidableEq, Repr

/-! ### Reset -/

def BankPort.reset : BankPort := ⟨[], [], [], [], []⟩

def Vec.reset : Vec := ⟨[], [], [], [], [], [], []⟩

def Core.reset : Core :=
  { task := none, faulted := false, ecc := 0, credit := [], port := BankPort.reset, split := false,
    shadow := [], active := [], loads := [], unswapped := [], banks := [], staging := [], vec := Vec.reset, wins := [], rngs := [],
    wtok := [], ftok := [], owned := [], checks := [], boundary := 0, gate := none, dma := [], dmaWait := [], partials := [],
    maskBytes := [], maskSilt := [], maskUsed := [], tread := [], repeating := false, logDue := none, resetting := false, suspect := false,
    samplePos := 0, lost := false, fstNan := false, vectors := [], streams := [] }

def Field.reset : Field :=
  { ranges := [], lines := [], merges := [], held := [], asked := [], queue := [], outside := [], filling := none, running := none, port := BankPort.reset, dark := false,
    withheld := false }

def Block.reset : Block := ⟨[], [], [], false⟩

def CLink.reset : CLink :=
  { down := false, credits := [], lastCount := [], kept := [], txSeq := 0, rxSeq := 0,
    discarding := false, refused := 0, sinceWord := 0 }

def Region.reset : Region :=
  { powered := false, count := 0, running := false, locked := false, out := false, holdover := false, holdoverSince := 0, holdReports := 0,
    slewing := false, k := 0, thermal := 0, kMargin := 0, spill := 0, spills := 0, margin := 0, least := 0x7F,
    warnings := 0, below3 := false, highSince := 0, lowSince := 0, shed := false, draining := none, power := 0, volts := 0,
    lastStep := 0 }

def VGroup.reset : VGroup := ⟨0, 0, 0, false, 0, [], false⟩

def Sensor.reset : Sensor := ⟨0, 0, false, false, false, none, none, none, none, none, none, none⟩

def Crossing.reset : Crossing := ⟨false, false, 0, none⟩

def OutPort.reset : OutPort := ⟨[], 0, 0, []⟩

def Agent.reset : Agent := ⟨[], 0, 0, false, 0x7F⟩

def EthPort.reset : EthPort := ⟨0, 0, 0, false, false, 0, [], none, 0, 0⟩

/-- The device allotment with no programming: 8,400 W over 2 s (Table HGM-11). -/
def Scope.device : Scope := ⟨some 8400, 2000, 0, 0, 0, 0, false, false, 0, 0, none⟩

/-- A partition's allotment until a management context sets it (R412). -/
def Scope.partition : Scope := ⟨none, 2000, 9000, 0, 0, 0, false, false, 0, 0, none⟩

def Bv.reset : Bv :=
  { tx := [], wait := [], txSeq := 0, rxSeq := 1023, kept := [], discarding := false, replays := 0, replayAt := 0,
    credReq := 256, credRsp := 256, credSnp := 64, credDat := 1024, dir := [], snoops := [], nextTag := 0, writes := [],
    reads := [], asked := [] }

def Head.reset : Head :=
  { parts := [], progs := [], models := [], pipes := [], seqs := [], nextSeq := 0, pins := [], cplDue := [],
    opened := [], resv := [], irqAt := [], irqDue := [], groups := [], via := [], calS := 7,
    tel := [], telNext := 0, telLost := 0, telGone := [], telPush := [], telBuf := [], ledger := [], ledgerNow := [], suspects := [], suspectDue := [],
    transients := [], plog := [], plogNext := 0, secure := [], ring := none, surveys := [], bells := [],
    reload := 0, reloadCmd := none, reloadWait := [], reloads := 0, resets := [], reloadImage := [] }

def Power.reset : Power :=
  { presentA := false, presentB := false, cvA := 0, cvB := 0, brake := false, emergency := false,
    clearAt := none, board := 0, winMean := 0, fast := false, dev := Scope.device, savedAllot := (8400, 2000),
    overrun := 0, scale := 1, tripSensor := 0x7F, tripped := false, tripC := 0, trips := 0, events := [],
    groups := [], sensors := [], cutA := false, cutB := false }

def Clocks.reset : Clocks :=
  { regions := [], crossings := [], agents := [], refPresent := true, allHold := false, dis := 0, hgLatch := 0,
    lastMark := 0 }

/-- The fuses of the module modelled: grade 224, nothing revoked (log entry 6). -/
def Fuses.reset : Fuses :=
  { grade := 224, serial := 0#64, svn := 0, revoked := [], keyHash := [], cert := [], ethBase := 0, vmin := [] }

def Boot.reset : Boot :=
  { phase := 0, status := 0, outcome := 0, failures := 0, vaon := false, rotated := [], halted := false, startAt := 0, b5At := 0, b5Ms := 0,
    ms := 0, fetched := [], block := [], verified := false, measure := 0, slot := 0, imgSvn := 0, fwver := 0,
    revoke := 0, commit := false, fuseDue := false, ready := false, decided := false, strict := false,
    ledgerOk := false, presented := 0, appended := 0, stacksOk := false, ethDone := [], surveyed := false,
    lanesDone := false, hbmDone := false, scrubbed := false, expected := 0xFFFF, fullPorts := 0, partialResets := 0,
    deviceResets := 0, newEntries := [], refsel := false, addr := 0, dynAddr := none,
    ptr := 0, i3cOut := [], nacks := 0, ibi := 0, jtagOut := [], jtagCells := [], jtagInstr := 0,
    jtagDrive := [], resetLow := false, readyPin := false, alertN := false, bvState := 0, bvWidth := 0,
    bvTries := 0, bvReversed := false, hgState := 0 }

def Hbm.reset : Hbm := ⟨[], [], [], [], 0, []⟩

/-- The ledger as the factory leaves it: the 16 good cores beyond the grade of 224 are hidden, cores 224 to 239 (R3; log entry 6). -/
def factoryLedger : List W32 := (List.range 16).map (fun i => BitVec.ofNat 32 (0xC8000000 + 224 + i))

/-- The device as manufactured, without power: every register at the value its table gives. -/
def State.reset : State :=
  { pending := [], fresh := 0, regs := [], mem := ⟨[], []⟩, upset := [], backs := [], cores := [], fields := [],
    blocks := [], passes := [], furrow := [], links := [], canal := [], outs := [], bv := Bv.reset, head := { Head.reset with ledger := factoryLedger },
    clk := Clocks.reset, pow := Power.reset, fuses := Fuses.reset, boot := Boot.reset, ports := (List.range 16).map (fun p => (p, { EthPort.reset with addr := p })), conns := [],
    hbm := Hbm.reset }

end Sys2Proof.Machine
end

