-- ==== Sys2Proof/Machine/Mem.lean ====
section
/-!
DEFINITION. Memory: the read and the write of one byte, byte runs and granules, and fills.  Every
write keeps the canonical form `Memory.wf`.
-/
namespace Sys2Proof.Machine

/-- The fill that an address lies in: the newest. -/
def fillAt (fs : List Fill) (a : Nat) : Option Fill := fs.find? (fun f => f.first ≤ a ∧ a < f.last)

/-- What an unlisted address is known to read as: zero outside every fill (log entry 5), `none` in undefined memory. -/
def knownBase (fs : List Fill) (a : Nat) : Option Byte :=
  match fillAt fs a with
  | none => some 0
  | some f => match f.v with
    | .zero => some 0
    | .free _ => none

/-- What an unlisted address reads as. -/
def baseByte (fs : List Fill) (a : Nat) : Byte :=
  match fillAt fs a with
  | none => 0
  | some f => match f.v with
    | .zero => 0
    | .free id => Config.freeByte id a

/-- One byte of memory. -/
def mread (m : Memory) (a : Nat) : Byte := (tget m.cells a).getD (baseByte m.fills a)

/-- Write one byte, in canonical form. -/
def mwrite (m : Memory) (a : Nat) (b : Byte) : Memory :=
  if knownBase m.fills a = some b then { m with cells := tdel m.cells a }
  else { m with cells := tput m.cells a b }

/-- Fill a range: its listed bytes and every fill inside it go. -/
def mfill (m : Memory) (first last : Nat) (v : FillV) : Memory :=
  { cells := m.cells.filter (fun c => !(first ≤ c.1 && c.1 < last))
    fills := ⟨first, last, v⟩ :: m.fills.filter (fun f => !(first ≤ f.first && f.last ≤ last)) }

/-- Addresses of the listed bytes rise, and none holds what its address would read as unlisted. -/
def Memory.wf (m : Memory) : Bool :=
  decide (m.cells.Pairwise (fun a b => a.1 < b.1)) && m.cells.all (fun c => decide (knownBase m.fills c.1 ≠ some c.2))

/-- `n` bytes from an address. -/
def mreads (m : Memory) (a : Nat) : Nat → List Byte
  | 0 => []
  | n + 1 => mread m a :: mreads m (a + 1) n

/-- Write a run of bytes. -/
def mwrites (m : Memory) (a : Nat) : List Byte → Memory
  | [] => m
  | b :: bs => mwrites (mwrite m a b) (a + 1) bs

/-- Little-endian number of `n` bytes (R12). -/
def mnat (m : Memory) (a n : Nat) : Nat := leNat (mreads m a n)

/-- The silt pattern, R286: bytes F5 FF repeated 32 times. -/
def siltBytes : List Byte := (List.replicate 32 [0xF5#8, 0xFF#8]).flatten

/-- A granule of 64 bytes holds the silt pattern. -/
def isSilt (bs : List Byte) : Bool := bs == siltBytes

end Sys2Proof.Machine
end

