-- ==== Sys2Proof/Machine/Ecc.lean ====
section
/-!
DEFINITION. The code of R281-R283: Reed–Solomon over GF(2^16), with four check symbols.  The model
keeps, for each granule, how its stored bits differ from the codeword of its data; the syndromes depend
on that difference alone.  Symbol positions are the powers of x in the codeword polynomial: 0-3 the
check symbols, 4-35 the data symbols (log entry 13).
-/
namespace Sys2Proof.Machine

/-- Multiply by α = x modulo x^16 + x^12 + x^3 + x + 1. -/
def gfDouble (a : Nat) : Nat :=
  if a ≥ 0x8000 then ((a * 2) % 0x10000) ^^^ 0x100B else a * 2

def gfMulAux : Nat → Nat → Nat → Nat
  | 0, _, _ => 0
  | n + 1, a, b => (if b % 2 = 1 then a else 0) ^^^ gfMulAux n (gfDouble a) (b / 2)

/-- Product in GF(2^16). -/
def gfMul (a b : Nat) : Nat := gfMulAux 16 a b

/-- α^n. -/
def gfAlpha : Nat → Nat
  | 0 => 1
  | n + 1 => gfDouble (gfAlpha n)

/-- Coefficients g0-g3 of g(x) = (x+1)(x+α)(x+α²)(x+α³) below x^4. -/
def rsGen : List Nat :=
  (List.range 4).foldl (fun p j =>
    let a := gfAlpha j
    ((0 :: p).zip (p ++ [0])).map (fun q => q.1 ^^^ gfMul a q.2)) [1]

/-- Check symbols r0-r3 of 32 data symbols, R281. -/
def rsEncode (d : List Nat) : List Nat :=
  let g := rsGen
  d.reverse.foldl (fun r di =>
    let f := di ^^^ r.getD 3 0
    [gfMul f (g.getD 0 0), r.getD 0 0 ^^^ gfMul f (g.getD 1 0), r.getD 1 0 ^^^ gfMul f (g.getD 2 0),
     r.getD 2 0 ^^^ gfMul f (g.getD 3 0)]) [0, 0, 0, 0]

/-- Syndrome j of an error pattern of symbol positions and values. -/
def syndrome (pat : List (Nat × Nat)) (j : Nat) : Nat :=
  pat.foldl (fun s p => s ^^^ gfMul p.2 (gfAlpha (j * p.1))) 0

/-- Outcome of a read (R283). -/
inductive EccOut where
  | fast
  /-- pattern that the slow path removes -/
  | slow (pat : List (Nat × Nat))
  | uncorrectable
deriving DecidableEq, Repr

/-- The single-symbol patterns with the given syndromes. -/
def eccOne (s0 s1 s2 s3 : Nat) : List (List (Nat × Nat)) :=
  if s0 = 0 then []
  else (List.range 36).filterMap (fun i =>
    let x := gfAlpha i
    if gfMul s0 x = s1 ∧ gfMul s1 x = s2 ∧ gfMul s2 x = s3 then some [(i, s0)] else none)

/-- a^(2^16-2), the inverse. -/
def gfInv (a : Nat) : Nat :=
  (List.range 15).foldl (fun p _ => let q := gfMul p.1 p.1; (q, gfMul p.2 q)) (a, 1) |>.2

/-- The two-symbol patterns with the given syndromes. -/
def eccTwo (s0 s1 s2 s3 : Nat) : List (List (Nat × Nat)) :=
  (List.range 36).flatMap (fun i => (List.range i).filterMap (fun j =>
    let x := gfAlpha i
    let y := gfAlpha j
    let sm := x ^^^ y
    let pr := gfMul x y
    if (gfMul sm s1 ^^^ gfMul pr s0) = s2 ∧ (gfMul sm s2 ^^^ gfMul pr s1) = s3 then
      let a := gfMul (s1 ^^^ gfMul y s0) (gfInv sm)
      let b := s0 ^^^ a
      if a = 0 ∨ b = 0 then none else some [(j, b), (i, a)]
    else none))

/-- R283 on the difference between the stored bits and a codeword. -/
def eccDecode (pat : List (Nat × Nat)) : EccOut :=
  let s0 := syndrome pat 0
  let s1 := syndrome pat 1
  let s2 := syndrome pat 2
  let s3 := syndrome pat 3
  if s0 = 0 ∧ s1 = 0 ∧ s2 = 0 ∧ s3 = 0 then .fast
  else match eccOne s0 s1 s2 s3 ++ eccTwo s0 s1 s2 s3 with
    | [p] => .slow p
    | _ => .uncorrectable

/-- Combine two difference patterns. -/
def patXor (p q : List (Nat × Nat)) : List (Nat × Nat) :=
  (List.range 36).filterMap (fun i =>
    let v := (p ++ q).foldl (fun a e => if e.1 = i then a ^^^ e.2 else a) 0
    if v = 0 then none else some (i, v))

/-- Apply the data part of a difference to the 64 bytes of a granule. -/
def patApply (pat : List (Nat × Nat)) (bs : List Byte) : List Byte :=
  if pat.isEmpty then bs
  else (bs.zip (List.range bs.length)).map (fun p =>
    pat.foldl (fun b e => if e.1 = p.2 / 2 + 4 then b ^^^ BitVec.ofNat 8 (e.2 / 256 ^ (p.2 % 2)) else b) p.1)

end Sys2Proof.Machine
end

