-- ==== Sys2Proof/Machine/Flags.lean ====
section
/-!
DEFINITION. Register words, counters and event bits: every change of a control-space register that a
unit makes goes through `setReg`, `bump`, `bumpSat` and `setEvent`.
-/
namespace Sys2Proof.Machine

/-- The stored word of a register element. -/
def rawReg (s : State) (r : Reg) (unit : Nat) (word : Nat := 0) : W32 :=
  tgetD s.regs (r.addr unit word) (r.resetAt unit word)

/-- Set the stored word of a register element. -/
def setReg (s : State) (r : Reg) (unit : Nat) (v : W32) (word : Nat := 0) : State :=
  { s with regs := tput s.regs (r.addr unit word) v }

/-- Add to a counter register, modulo 2^32. -/
def bump (s : State) (r : Reg) (unit : Nat) (n : Nat) : State :=
  setReg s r unit (rawReg s r unit + BitVec.ofNat 32 n)

/-- Raise a register to a value at least as large. -/
def raiseReg (s : State) (r : Reg) (unit n : Nat) : State :=
  if (rawReg s r unit).toNat < n then setReg s r unit (BitVec.ofNat 32 n) else s

/-- Replace bits hi:lo of a word. -/
def putBits (v : W32) (lo w n : Nat) : W32 :=
  let m : W32 := BitVec.ofNat 32 ((2 ^ w - 1) * 2 ^ lo)
  (v &&& ~~~ m) ||| (BitVec.ofNat 32 (n % 2 ^ w * 2 ^ lo))

/-- Bits lo+w-1:lo of a word. -/
def getBits (v : W32) (lo w : Nat) : Nat := v.toNat / 2 ^ lo % 2 ^ w

/-- Add one to a saturating field. -/
def bumpSat (s : State) (r : Reg) (unit lo w : Nat) (word : Nat := 0) : State :=
  let v := rawReg s r unit word
  let n := getBits v lo w
  setReg s r unit (putBits v lo w (min (2 ^ w - 1) (n + 1))) word

/-- Set a W1C event bit (it stays until a write clears it). -/
def setEvent (s : State) (r : Reg) (unit bit : Nat) : State :=
  setReg s r unit (rawReg s r unit ||| BitVec.ofNat 32 (2 ^ bit))

/-- Set an event bit when a condition holds. -/
def setEventIf (c : Bool) (s : State) (r : Reg) (unit bit : Nat) : State :=
  if c then setEvent s r unit bit else s

/-- Software's write of a register word: RW bits take the value, W1C bits clear where it has a one,
every other bit stays (R13, R92). -/
def writeBits (r : Reg) (old v : W32) : W32 :=
  let row := r.row
  (old &&& ~~~ row.rw &&& ~~~ (row.w1c &&& v)) ||| (v &&& row.rw)

end Sys2Proof.Machine
end

