-- ==== Sys2Proof/Machine/Ops.lean ====
section
/-!
DEFINITION. Shared operations: geometry (R6-R10, R20), access to the units' records, the fallow
ledger's view (R81, R82, R439), time (R395), telemetry (R354, R482), completions (R346-R348), and
granule reads and writes with the code of R281-R287.
-/
namespace Sys2Proof.Machine

/-! ### Geometry -/

def coreX (c : Nat) : Nat := c % 20
def coreY (c : Nat) : Nat := c / 20
/-- Field of a core, R6, R8. -/
def coreField (c : Nat) : Nat := coreY c / 4 * 4 + coreX c / 5
/-- Cluster of a core, R7. -/
def coreCluster (c : Nat) : Nat := coreField c * 5 + coreX c % 5
/-- Scratchpad index of a core in its field, R20. -/
def spadIndex (c : Nat) : Nat := coreX c % 5 * 4 + coreY c % 4
/-- Core of a field with a scratchpad index. -/
def coreOfSpad (f i : Nat) : Nat := (f / 4 * 4 + i % 4) * 20 + (f % 4 * 5 + i / 4)
def clusterCores (cl : Nat) : List Nat := (List.range 4).map (fun r => coreOfSpad (cl / 5) (cl % 5 * 4 + r))
def fieldClusters (f : Nat) : List Nat := (List.range 5).map (fun i => f * 5 + i)
def fieldCores (f : Nat) : List Nat := (List.range 20).map (coreOfSpad f)
/-- Region of a cluster is its ID; of a field, 60 + field. -/
def coreRegion (c : Nat) : Nat := coreCluster c
def fieldRegion (f : Nat) : Nat := 60 + f

/-- Basin slot base, scratchpad base and pool base (R19, Table ORG-2). -/
def fieldBase (f : Nat) : Nat := 0x100000000000 + f * 0x80000000
def spadBase (c : Nat) : Nat := fieldBase (coreField c) + spadIndex c * 0x03000000
def poolBase (f : Nat) : Nat := fieldBase f + 0x3C000000
def spadBytes : Nat := 0x03000000
def poolBytes : Nat := 0x24000000
def hbmTop : Nat := 0xD800000000
def stripeBytes : Nat := 0x30000

/-- Where a device global address lies. -/
inductive Place where
  | hbm (a : Nat) | spad (core off : Nat) | pool (field off : Nat) | ctl (off : Nat) | comp (a : Nat) | nowhere
deriving DecidableEq, Repr

/-- Spaces of bits 47:44 (R19; HBM ends at 0x00D8_0000_0000). -/
def placeOf (a : Nat) : Place :=
  match a / 2 ^ 44 with
  | 0 => if a < hbmTop then .hbm a else .nowhere
  | 1 =>
    let o := a % 2 ^ 44
    let f := o / 0x80000000
    let l := o % 0x80000000
    if f > 11 then .nowhere
    else if l < 0x3C000000 then .spad (coreOfSpad f (l / 0x03000000)) (l % 0x03000000)
    else if l < 0x60000000 then .pool f (l - 0x3C000000)
    else .nowhere
  | 2 => .ctl (a % 2 ^ 44)
  | 3 => .comp (a % 2 ^ 44)
  | _ => .nowhere

/-! ### Records -/

def getCore (s : State) (c : Nat) : Core := tgetD s.cores c Core.reset
def setCore (s : State) (c : Nat) (k : Core) : State := { s with cores := tput s.cores c k }
def modCore (s : State) (c : Nat) (f : Core → Core) : State := setCore s c (f (getCore s c))
def getField (s : State) (f : Nat) : Field := tgetD s.fields f Field.reset
def setField (s : State) (f : Nat) (v : Field) : State := { s with fields := tput s.fields f v }
def getBlock (s : State) (b : Nat) : Block := tgetD s.blocks b Block.reset
def setBlock (s : State) (b : Nat) (v : Block) : State := { s with blocks := tput s.blocks b v }
def getRegion (s : State) (r : Nat) : Region := tgetD s.clk.regions r Region.reset
def setRegion (s : State) (r : Nat) (v : Region) : State :=
  { s with clk := { s.clk with regions := tput s.clk.regions r v } }
def modRegion (s : State) (r : Nat) (f : Region → Region) : State := setRegion s r (f (getRegion s r))
def getLink (s : State) (router dir : Nat) : CLink := tgetD s.links (router * 4 + dir) CLink.reset
def setLink (s : State) (router dir : Nat) (l : CLink) : State := { s with links := tput s.links (router * 4 + dir) l }
def getVGroup (s : State) (g : Nat) : VGroup := tgetD s.pow.groups g VGroup.reset
def setVGroup (s : State) (g : Nat) (v : VGroup) : State :=
  { s with pow := { s.pow with groups := tput s.pow.groups g v } }
def getSensor (s : State) (i : Nat) : Sensor := tgetD s.pow.sensors i Sensor.reset
def setSensor (s : State) (i : Nat) (v : Sensor) : State :=
  { s with pow := { s.pow with sensors := tput s.pow.sensors i v } }
def getPort (s : State) (p : Nat) : EthPort := tgetD s.ports p EthPort.reset
def setPort (s : State) (p : Nat) (v : EthPort) : State := { s with ports := tput s.ports p v }
def setBoot (s : State) (b : Boot) : State := { s with boot := b }
def setPow (s : State) (p : Power) : State := { s with pow := p }
def setBv (s : State) (b : Bv) : State := { s with bv := b }
def getPart (s : State) (p : Nat) : Option Partition := tget s.head.parts p
def setPart (s : State) (p : Nat) (v : Partition) : State :=
  { s with head := { s.head with parts := tput s.head.parts p v } }
def getSeq (s : State) (q : Nat) : Option Sequ := tget s.head.seqs q
def setSeq (s : State) (q : Nat) (v : Sequ) : State := { s with head := { s.head with seqs := tput s.head.seqs q v } }
def pipeKey (prog pipe : Nat) : Nat := prog * 64 + pipe
def getPipe (s : State) (k : Nat) : Option Pipe := tget s.head.pipes k
def setPipe (s : State) (k : Nat) (v : Pipe) : State :=
  { s with head := { s.head with pipes := tput s.head.pipes k v } }

/-- A fresh draw of a free value. -/
def drawFresh (s : State) : Nat × State := (s.fresh, { s with fresh := s.fresh + 1 })

/-! ### Time -/

/-- Headgate time is the count of region 78 (R395). -/
def hgNow (s : State) : Nat := (getRegion s 78).count
/-- Headgate cycles in n nanoseconds: 1 ns is 1.4 cycles. -/
def nsCycles (n : Nat) : Nat := n * 14 / 10
def usCycles (n : Nat) : Nat := n * 1400
def msCycles (n : Nat) : Nat := n * 1400000
def secCycles (n : Nat) : Nat := n * 1400000000
def hourCycles (n : Nat) : Nat := secCycles (3600 * n)

/-! ### The fallow ledger's view -/

/-- Entries in force: programmed, applied for this boot only, and found by the start-up survey and still to be programmed (R439). -/
def ledgerAll (s : State) : List W32 := s.head.ledger ++ s.head.ledgerNow ++ s.boot.newEntries

def ledgerType (e : W32) : Nat := getBits e 28 4

def ledgerHas (s : State) (ty : Nat) (loc mask : Nat) : Bool :=
  (ledgerAll s).any (fun e => ledgerType e == ty && (getBits e 0 24 &&& mask) == loc)

/-- Union of both twins' defective cube columns (R81). -/
def bypassUnion (s : State) (c : Nat) : List Nat :=
  (List.range 64).filter (fun j =>
    (ledgerAll s).any (fun e => ledgerType e == 2 && getBits e 0 8 == c && getBits e 9 6 == j))

def fieldDark (s : State) (f : Nat) : Bool := ledgerHas s 0xE f 0xF || (getField s f).dark

/-- A core is fallow by a type 0x1 or 0xC entry, or by R82. -/
def coreFallow (s : State) (c : Nat) : Bool :=
  ledgerHas s 1 c 0xFF || ledgerHas s 0xC c 0xFF || decide ((bypassUnion s c).length > 4)

def corePresented (s : State) (c : Nat) : Bool := !coreFallow s c && !fieldDark s (coreField c)

/-- Presented width and half widths of a core (R81); 0 when fallow. -/
def coreWidths (s : State) (c : Nat) : Nat × Nat × Nat :=
  if coreFallow s c then (0, 0, 0)
  else
    let u := bypassUnion s c
    let l := 64 - 2 * (u.filter (· < 32)).length
    let r := 64 - 2 * (u.filter (32 ≤ ·)).length
    (l + r, l, r)

/-- Physical weight column of presented column n (R81). -/
def physColumn (s : State) (c n : Nat) : Nat :=
  let u := bypassUnion s c
  (((List.range 128).filter (fun p => !u.contains (p / 2))).getD n 0)

def blockFallow (s : State) (f b : Nat) : Bool := ledgerHas s 9 (f + b * 16) 0x1FF
def routerWithdrawn (s : State) (c : Nat) : Bool := ledgerHas s 3 c 0xFF || fieldDark s (coreField c)

/-- Pool withheld: a dark field, or a pool bank beyond repair (R441). -/
def poolWithheld (s : State) (f : Nat) : Bool := fieldDark s f || ledgerHas s 0xD f 0xF

/-- The pool of a field that is off for heat or after a latch (R426, R404). -/
def poolGone (s : State) (f : Nat) : Bool := !(getRegion s (60 + f)).powered && ((getRegion s (60 + f)).shed || (getField s f).dark)

def presentedCount (s : State) : Nat := ((List.range 240).filter (corePresented s)).length

/-- Partition that owns a core. -/
def corePart (s : State) (c : Nat) : Option Nat :=
  (s.head.parts.find? (fun p => p.2.clusters.contains (coreCluster c))).map Prod.fst

def partCores (s : State) (p : Nat) : List Nat :=
  match getPart s p with
  | none => []
  | some r => (List.range 240).filter (fun c => r.clusters.contains (coreCluster c))

/-- Checks are enabled for a core's partition (R73); cores of no partition have them on. -/
def coreChecks (s : State) (c : Nat) : Bool :=
  match corePart s c with
  | none => true
  | some p => match getPart s p with
    | none => true
    | some r => r.checks

/-- The core may execute: its cluster is powered and running, it is not fallow, not in reset, not faulted. -/
def coreLive (s : State) (c : Nat) : Bool :=
  let r := getRegion s (coreRegion c)
  r.powered && r.out && !coreFallow s c && !(getCore s c).resetting && !(getCore s c).faulted

/-- No hold freezes the core (R89, R107). -/
def coreUnheld (s : State) (c : Nat) : Bool :=
  (getCore s c).ecc == 0 && (getCore s c).credit.isEmpty

/-- The core runs its schedule this cycle. -/
def coreRuns (s : State) (c : Nat) : Bool := coreLive s c && coreUnheld s c

/-- Credit-hold a core for a cause (R107); a hold already in force for it goes on. -/
def creditHold (s : State) (c : Nat) (why : Cause) : State :=
  modCore s c (fun k => if k.credit.any (·.cause = why) then k else { k with credit := k.credit ++ [⟨why, 0⟩] })

/-- End a credit hold of one cause; the core stays held while another cause holds it (R108). -/
def releaseHold (s : State) (c : Nat) (why : Cause) : State :=
  modCore s c (fun k => { k with credit := k.credit.filter (fun h => h.cause ≠ why) })

/-- The core runs, or is held for these causes alone: the event that waits is presented again (R108). -/
def retryRuns (s : State) (c : Nat) (why : List Cause) : Bool :=
  coreLive s c && (getCore s c).ecc == 0 && (getCore s c).credit.all (fun h => why.contains h.cause)

/-- Start an ECC hold of 6 cycles (R108, R284). -/
def eccHold (s : State) (c : Nat) : State := modCore s c (fun k => { k with ecc := max k.ecc 6 })

/-- Schedule counter of a core (R106). -/
def schedCount (s : State) (c : Nat) : Nat :=
  (rawReg s .coSchCountLo c).toNat + 2 ^ 32 * (rawReg s .coSchCountHi c).toNat

def setSchedCount (s : State) (c n : Nat) : State :=
  setReg (setReg s .coSchCountLo c (BitVec.ofNat 32 n)) .coSchCountHi c (BitVec.ofNat 32 (n / 2 ^ 32))

/-! ### Telemetry -/

/-- Bytes of a record: envelope of 16 bytes and body. -/
def recBytes (r : TRec) : List Byte :=
  leBytes 4 r.seq ++ leBytes 2 r.kind ++ leBytes 2 r.body.length ++ leBytes 2 r.region ++ leBytes 6 r.count ++ r.body

/-- Drop the oldest records until the ring of 16 MiB holds the rest (R354). -/
def trimTel : Nat → List TRec → List TRec
  | 0, l => l
  | n + 1, l => if (l.map (fun r => 16 + r.body.length)).sum ≤ 0x1000000 then l else trimTel n l.tail

/-- Add a record of a kind to the telemetry stream, and to the records to be pushed while pushing is on. -/
def telemeter (s : State) (kind region : Nat) (part : Option Nat) (body : List Byte) : State :=
  let h := s.head
  let r : TRec := ⟨h.telNext % 2 ^ 32, kind, region, (getRegion s region).count % 2 ^ 48, part, body⟩
  let push := getBits (rawReg s .hgTelCfg 0) 0 5 ≠ 0
  if h.reload = 2 then
    { s with head := if h.telBuf.length < 4096 then { h with telNext := h.telNext + 1, telBuf := h.telBuf ++ [r] }
                     else { h with telNext := h.telNext + 1, telLost := h.telLost + 1 } }
  else
    let l := h.tel ++ [r]
    let kept := trimTel l.length l
    { s with head := { h with tel := kept, telGone := h.telGone ++ (l.take (l.length - kept.length)).map (fun x => (x.seq, x.part)), telNext := h.telNext + 1,
                              telPush := if push then h.telPush ++ [r] else h.telPush } }

/-- An event record, R482: kind 0x0003, 16 bytes. -/
def report (s : State) (code status : Nat) (part : Option Nat) (unit detail : Nat) (region : Nat := 78) : State :=
  telemeter s 3 region part
    ([BitVec.ofNat 8 status, BitVec.ofNat 8 (part.getD 0xFF)] ++ leBytes 2 unit ++ leBytes 2 code ++ leBytes 2 0
      ++ leBytes 8 detail)

/-- A suspect event of a core, or of block 256 + field × 32 + block, has come about (R240); SUSPECT_EVENT counts it. -/
def addSuspect (s : State) (unit : Nat) : State :=
  { s with head := { s.head with suspectDue := s.head.suspectDue ++ [unit] } }

/-! ### Status codes (Table REF-1) -/

inductive St where
  | ok | deferred | refusedCapacity | refusedAllotment | shapeExceedsPlan | poisonConsumed | checkPersistent
  | bankConflict | windowViolation | creditExhausted | stageLost | regionShed | topologyMismatch | authFail
  | linkDegraded | configConflict | degraded | readyDegraded | badCommand | cancelled
deriving DecidableEq, Repr

def St.code : St → Nat
  | .ok => 0x00 | .deferred => 0x01 | .refusedCapacity => 0x02 | .refusedAllotment => 0x03
  | .shapeExceedsPlan => 0x04 | .poisonConsumed => 0x05 | .checkPersistent => 0x06 | .bankConflict => 0x07
  | .windowViolation => 0x08 | .creditExhausted => 0x09 | .stageLost => 0x0A | .regionShed => 0x0B
  | .topologyMismatch => 0x0C | .authFail => 0x0D | .linkDegraded => 0x0E | .configConflict => 0x0F
  | .degraded => 0x10 | .readyDegraded => 0x11 | .badCommand => 0x12 | .cancelled => 0x13

/-! ### Completions -/

/-- A completion of a command falls due (Table HGM-8). During a reload proper it is kept until step 7 (R358). -/
def postCpl (s : State) (c : Cpl) : State :=
  if s.head.reload = 2 then { s with head := { s.head with reloadWait := s.head.reloadWait ++ [c] } }
  else { s with head := { s.head with cplDue := s.head.cplDue ++ [c] } }

/-- Final completion of a mailbox command. -/
def complete (s : State) (h : Hdr) (st : St) (detail : Nat := 0) (detail2 : Nat := 0) : State :=
  postCpl s ⟨h.ctx, h.tag, st.code, false, BitVec.ofNat 64 detail, BitVec.ofNat 32 detail2,
    BitVec.ofNat 32 (detail2 / 2 ^ 32), 0, h.irq⟩

/-- Events attributed to a scope for metering (R419); scope 60 is unowned. -/
def meter (s : State) (part : Option Nat) (cls n : Nat) : State :=
  let k := part.getD 60 * 16 + cls
  { s with pow := { s.pow with events := tmod s.pow.events k 0 (· + n) } }

/-- Events of a core's task are charged to its sequence, in fJ (R422). -/
def chargeTask (s : State) (c cls n : Nat) : State :=
  match (getCore s c).task with
  | none => s
  | some t => match getSeq s t.seq with
    | none => s
    | some q => setSeq s t.seq { q with energy := q.energy + n * (rawReg s .pwCoef 0 cls).toNat / 256 }

/-- Events that a core counts, for its partition and its task's sequence (R419, R422). -/
def meterCore (s : State) (c cls n : Nat) : State := chargeTask (meter s (corePart s c) cls n) c cls n

/-- Share of its partition's remaining modelled energy of this window that falls to a sequence for its counted cycles, in fJ (R422). -/
def seqShare (s : State) (r : Sequ) : Nat :=
  let total := (((tget s.head.parts r.part).map (·.cyc)).getD 0)
  let rest := ([8, 9, 10, 11, 12, 13, 15].map (fun i => tgetD s.pow.events (r.part * 16 + i) 0 * (rawReg s .pwCoef 0 i).toNat)).sum
  if total = 0 then 0 else rest / 256 * r.cyc / total

/-- Remove a sequence and post its final completion (R315); the tasks of the cores that `stop` names end. -/
def endSeqOn (s : State) (q : Nat) (st : St) (detail : Nat) (stop : Nat → Bool) : State :=
  match getSeq s q with
  | none => s
  | some r =>
    let h := s.head
    let pipes := match tget h.pipes r.pipe with
      | none => h.pipes
      | some p => tput h.pipes r.pipe
          { p with slots := p.slots.filter (· ≠ q), queues := p.queues.map (·.filter (· ≠ q)), lastUsed := hgNow s }
    let s1 := { s with head := { h with seqs := tdel h.seqs q, pipes := pipes } }
    let s2 := { s1 with cores := s1.cores.map (fun e =>
      (e.1, match e.2.task with
        | some t => if t.seq = q && stop e.1 then { e.2 with task := none, credit := [] } else e.2
        | none => e.2)) }
    let micro := (s.pow.scale * ((r.energy + seqShare s r : Nat) : Rat) / 1000000000).floor.toNat
    postCpl s2 ⟨r.ctx, r.tag, st.code, false, BitVec.ofNat 64 detail, 0, 0, BitVec.ofNat 64 micro, r.irq⟩

def endSeq (s : State) (q : Nat) (st : St) (detail : Nat) : State := endSeqOn s q st detail (fun _ => true)

/-- The ring buffers that a core's task holds are released: what it has landed in them counts no more, and their credits are free again (R294). -/
def releaseRings (s : State) (c : Nat) : State :=
  let s := (getCore s c).owned.foldl (fun s x => modCore s (x / 2048) (fun k => match tget k.wins (x / 8 % 256) with
    | none => k
    | some w => { k with wins := tput k.wins (x / 8 % 256) { w with landed := tdel w.landed (x % 8) } })) s
  modCore s c (fun k => { k with owned := [] })

/-- End the sequence whose task a core runs; its tasks on other stages run to their end (R294, R308). -/
def endTaskSeq (s : State) (c : Nat) (st : St) (detail : Nat) : State :=
  match (getCore s c).task with
  | none => s
  | some t =>
    let s := releaseRings (endSeqOn s t.seq st detail (· == c)) c
    modCore s c (fun k => { k with task := none, credit := [] })

/-- Sequences with a task started and not finally complete, of one pipeline (R303). -/
def inFlight (s : State) (k : Nat) : List Nat :=
  match getPipe s k with
  | none => []
  | some p => p.slots.filter (fun q => match getSeq s q with
    | some r => r.st == .flight
    | none => false)

/-- Detail of a DISPATCH's final completion: the steps completed, where its status carries them (Table HGM-9); for STAGE_LOST
in a secured partition those up to the restored point (R376). -/
def seqDetail (s : State) (q : Nat) (st : St) : Nat :=
  match getSeq s q with
  | none => 0
  | some r => match st with
    | .ok | .cancelled | .refusedAllotment => r.done
    | .stageLost => r.done - ((tget s.head.secure r.part).map (fun (c : Secure) => c.cur - c.cstep)).getD 0
    | _ => 0

def endAll (s : State) (st : St) (qs : List Nat) : State :=
  qs.foldl (fun s q => endSeq s q st (seqDetail s q st)) s

/-- Halt a pipeline: its sequences in flight end with a status. -/
def haltPipe (s : State) (k : Nat) (st : St) : State :=
  match getPipe s k with
  | none => s
  | some p => endAll (setPipe s k { p with halted := true, queues := p.queues.map (fun _ => []) }) st (inFlight s k)

/-! ### Granules, the code and silt -/

/-- Field that a basin address lies in, or side of an HBM address under the interleave in force. -/
def mode1 (s : State) : Bool := (rawReg s .hbIlv 0).getLsbD 0

/-- R277: stack, channel, pseudo channel, word. -/
def hbmDecode (m1 : Bool) (a : Nat) : Nat × Nat × Nat × Nat :=
  let side := a / 0x3600000000
  let q := (a - side * 0x3600000000) / 4096
  let p := a / 4096
  let stack := if m1 then 6 * side + q % 6 else p % 24
  let spage := if m1 then q / 6 else p / 24
  (stack, (a / 128 % 32) ^^^ (spage % 32), a / 64 % 2, spage)

/-- Endpoint of the controller port that serves an address (R278). -/
def hbmPort (m1 : Bool) (a : Nat) : Nat :=
  let d := hbmDecode m1 a
  let side := d.1 / 6
  let j := 32 * (d.1 % 6) + d.2.1
  match side with
  | 0 => 300 + j % 20
  | 1 => 320 + j % 24
  | 2 => 344 + j % 20
  | _ => 364 + j % 24

/-- Bytes of granule g, as its data stand. -/
def granuleBytes (s : State) (g : Nat) : List Byte := mreads s.mem (g * 64) 64

/-- Dirty marks of secured tensors for a written granule, whose first change since the last committed point keeps
the old bytes as the local copy (R360, R361). -/
def markDirty (s : State) (g : Nat) (old : List Byte) : State :=
  if s.head.secure.isEmpty then s
  else { s with head := { s.head with secure := s.head.secure.map (fun e =>
    (e.1, { e.2 with tensors := e.2.tensors.map (fun t =>
      if t.base ≤ g * 64 ∧ g * 64 < t.base + t.bytes then
        { t with dirty := if t.dirty.contains g then t.dirty else t.dirty ++ [g],
                 copy := if (tget t.copy g).isSome then t.copy else tput t.copy g old }
      else t) })) } }

/-- Write a whole granule: new codeword, silt cleared (R290), pending write-backs made stale (R285). -/
def putGranule (s : State) (g : Nat) (bs : List Byte) : State :=
  let old := granuleBytes s g
  let s := { s with mem := mwrites s.mem (g * 64) (bs.take 64), upset := tdel s.upset g,
                    backs := match tget s.backs g with
                      | none => s.backs
                      | some b => tput s.backs g { b with stale := true } }
  markDirty s g old

/-- Write consecutive granules from a granule-aligned address. -/
def putBytes (s : State) (a : Nat) (bs : List Byte) : State :=
  ((chunks 64 bs).zip (List.range (bs.length / 64 + 1))).foldl (fun s p =>
    let g := a / 64 + p.2
    putGranule s g (if p.1.length = 64 then p.1 else p.1 ++ mreads s.mem (g * 64 + p.1.length) (64 - p.1.length))) s

/-- Toggle stored bits of a granule: a physical disturbance. -/
def disturb (s : State) (g : Nat) (up : List (Nat × Nat)) : State :=
  if up.isEmpty then s
  else
    let p := patXor (tgetD s.upset g []) (up.filter (fun e => e.1 < 36))
    { s with upset := if p.isEmpty then tdel s.upset g else tput s.upset g p }

/-- Count a correction or an uncorrectable word where its place says (Tables HBM-6, HBM-7). -/
def countCorr (s : State) (g : Nat) (pat : List (Nat × Nat)) : State :=
  match placeOf (g * 64) with
  | .hbm a =>
    let d := hbmDecode (mode1 s) a
    let side := d.1 / 6
    let s := bump s .hbCorr side 1
    let pc := (d.1 * 32 + d.2.1) * 2 + d.2.2.1
    pat.foldl (fun s e =>
      let k := pc * 36 + e.1
      let now := hgNow s
      let times := (tgetD s.hbm.lanes k []).filter (fun t => now < t + hourCycles 24) ++ [now]
      let tot := tgetD s.hbm.total (side * 36 + e.1) 0 + 1
      let s := { s with hbm := { s.hbm with lanes := tput s.hbm.lanes k times,
                                            total := tput s.hbm.total (side * 36 + e.1) tot } }
      let best := getBits (rawReg s .hbLane side) 6 26
      let s := if tot > best then
          setReg s .hbLane side (BitVec.ofNat 32 (e.1 + 64 * min tot (2 ^ 26 - 1))) else s
      if times.length = 1025 then
        report (setEvent s .hbEvent side 2) 0x0013 0 none d.1 (d.2.1 + 32 * d.2.2.1 + 256 * e.1) (72 + side)
      else s) s
  | .spad c _ => bump s .bsEccCorr (coreField c) 1
  | .pool f _ => bump s .bsEccCorr f 1
  | _ => s

def countUncorr (s : State) (g : Nat) : State :=
  let a := g * 64
  let basin := fun (s : State) (f : Nat) =>
    let s := bump s .bsEccUncorr f 1
    let s := setReg s .bsEccLast f (BitVec.ofNat 32 (a % 0x80000000 / 64))
    report (setEvent s .bsEccEvent f 0) 0x0001 0 none (60 + f) g (60 + f)
  match placeOf a with
  | .hbm _ =>
    let side := (hbmDecode (mode1 s) a).1 / 6
    let s := bump s .hbUncorr side 1
    let s := setReg s .hbLastLo side (BitVec.ofNat 32 a)
    let s := setReg s .hbLastHi side (BitVec.ofNat 32 (a / 2 ^ 32 % 65536))
    report (setEvent s .hbEvent side 0) 0x0001 0 none (72 + side) g (72 + side)
  | .spad c _ => basin s (coreField c)
  | .pool f _ => basin s f
  | _ => s

/-- A read of a granule through the code (R283-R287): its bytes, whether the slow path ran, the state. -/
structure Fetched where
  bytes : List Byte
  corrected : Bool
  st : State
deriving DecidableEq, Repr

def fetchGranule (s : State) (g : Nat) : Fetched :=
  match tget s.upset g with
  | none => ⟨granuleBytes s g, false, s⟩
  | some pat =>
    match eccDecode pat with
    | .fast => ⟨patApply pat (granuleBytes s g), false, s⟩
    | .slow e =>
      let s' := countCorr s g e
      ⟨patApply (patXor pat e) (granuleBytes s g), true, { s' with backs := tput s'.backs g ⟨e, false⟩ }⟩
    | .uncorrectable => ⟨siltBytes, false, countUncorr (putGranule s g siltBytes) g⟩

/-- Reads of the granules that bytes a … a+n-1 lie in. -/
def fetchBytes (s : State) (a n : Nat) : Fetched :=
  if n = 0 then ⟨[], false, s⟩
  else
    let g0 := a / 64
    let cnt := (a + n - 1) / 64 - g0 + 1
    let r := (List.range cnt).foldl (fun (r : Fetched) i =>
      let x := fetchGranule r.st (g0 + i)
      ⟨r.bytes ++ x.bytes, r.corrected || x.corrected, x.st⟩) ⟨[], false, s⟩
    ⟨(r.bytes.drop (a % 64)).take n, r.corrected, r.st⟩

/-- Some granule that bytes a … a+n-1 lie in is silt, after a fetch has cleared what is uncorrectable. -/
def siltIn (s : State) (a n : Nat) : Bool :=
  if n = 0 then false
  else (List.range ((a + n - 1) / 64 - a / 64 + 1)).any (fun i => isSilt (granuleBytes s (a / 64 + i)))

/-- A core's read of its own scratchpad: a correction holds the core (Table HBM-3); silt sets bs_sp_event (Table BASIN-7). -/
def spadFetch (s : State) (c off n : Nat) : Fetched :=
  let r := fetchBytes s (spadBase c + off) n
  let s := if r.corrected then eccHold r.st c else r.st
  let s := meterCore s c 6 ((n + 63) / 64)
  ⟨r.bytes, r.corrected, setEventIf (siltIn s (spadBase c + off) n) s .bsSpEvent c 3⟩

/-- Zero scrub of a range, whose cached lines go (R290), and undefined contents for a range (R144). -/
def scrub (s : State) (first last : Nat) : State :=
  let fields : Tab Field := s.fields.map (fun e =>
    (e.1, { e.2 with lines := e.2.lines.filter (fun l => !(first ≤ l.line * 256 && l.line * 256 < last)) }))
  { s with fields := fields,
           mem := mfill s.mem first last .zero,
           upset := tfilter (fun g => !(first ≤ g * 64 && g * 64 < last)) s.upset,
           backs := tfilter (fun g => !(first ≤ g * 64 && g * 64 < last)) s.backs }

def undefine (s : State) (first last : Nat) : State :=
  { s with mem := mfill s.mem first last (.free s.fresh), fresh := s.fresh + 1,
           upset := tfilter (fun g => !(first ≤ g * 64 && g * 64 < last)) s.upset,
           backs := tfilter (fun g => !(first ≤ g * 64 && g * 64 < last)) s.backs }

/-! ### Pool, cache and directory -/

/-- A field drops its copy of an HBM line, and its open merges of the line take no more reads and allocate nothing (R150). -/
def dropLine (s : State) (f line : Nat) : State :=
  let fl := getField s f
  let held := fl.lines.any (fun l => l.line == line)
  if held || fl.merges.any (fun m => m.line == line) then
    let s := setField s f { fl with lines := fl.lines.filter (fun l => l.line ≠ line),
                                    merges := fl.merges.map (fun m => if m.line = line && m.range < 16 then { m with closed := true } else m) }
    if held then bump s .bsPoolInval f 1 else s
  else s

/-- Invalidate every cached copy of an HBM line of 256 bytes (R150). -/
def invalLine (s : State) (a : Nat) : State := (List.range 12).foldl (fun s f => dropLine s f (a / 256)) s

/-- The pool range that holds a pool offset. -/
def rangeOf (s : State) (f off : Nat) : Option PoolRange :=
  ((getField s f).ranges.find? (fun e =>
    e.2.mode ≠ 0 && decide (e.2.first * stripeBytes ≤ off) && decide (off < (e.2.first + e.2.stripes) * stripeBytes))).map Prod.snd

/-- Basin rows or HBM bursts that bytes a … a+n-1 lie in, read or written (Table PWR-3): rows count for the owner of the scratchpad or
pool range, and for the task of the scratchpad's core or of the core that the pool's engine serves; bursts for the stamped partition. -/
def meterRows (s : State) (c part : Option Nat) (wr : Bool) (a n : Nat) : State :=
  if n = 0 then s
  else
    let k := (a + n - 1) / 64 - a / 64 + 1
    let w := if wr then 1 else 0
    match placeOf a with
    | .spad x _ => meterCore s x (6 + w) k
    | .pool f o =>
      let s := meter s ((rangeOf s f o).map (·.part)) (6 + w) k
      match c with
      | some c => chargeTask s c (6 + w) k
      | none => s
    | .hbm _ => meter s part (10 + w) k
    | _ => s

/-- Rows that a core's own units and engines read or write. -/
def meterUse (s : State) (c : Nat) (wr : Bool) (a n : Nat) : State := meterRows s (some c) (corePart s c) wr a n

/-- Units of a core write bytes anywhere: the touched granules are rewritten whole. -/
def putUnaligned (s : State) (c a : Nat) (bs : List Byte) : State :=
  let pre := a % 64
  putBytes (meterUse s c true a bs.length) (a - pre) (mreads s.mem (a - pre) pre ++ bs)

/-- Shared window of lk_bv_win, base and size in bytes (R335). -/
def sharedWin (s : State) : Nat × Nat :=
  let v := rawReg s .lkBvWin 0
  (getBits v 8 10 * 2 ^ 30, getBits v 0 7 * 2 ^ 30)

def inShared (s : State) (a : Nat) : Bool :=
  let w := sharedWin s
  decide (w.1 ≤ a) && decide (a < w.1 + w.2)

/-- An HBM write of whole granules: landed, cached copies invalidated, dirty marks set (R150, R280, R360). -/
def hbmPut (s : State) (a : Nat) (bs : List Byte) : State :=
  let s := putBytes s a bs
  if bs.isEmpty then s
  else (List.range ((a + bs.length - 1) / 256 - a / 256 + 1)).foldl (fun s i => invalLine s (a / 256 * 256 + 256 * i)) s

/-- Channel of a message and the credits that it takes: 0 REQ, 1 RSP, 2 SNP, 3 DAT; `none` takes none (Table HGM-2, log entry 9). -/
def bvCost : BvMsg → Option (Nat × Nat)
  | .rd _ _ _ => some (0, 1)
  | .wr _ _ d => some (3, (d.length + 63) / 64)
  | .wrPart _ _ _ _ => some (3, 1)
  | .snpInv _ _ | .snpData _ _ => some (2, 1)
  | .cpl _ _ => some (1, 1)
  | .cplData _ d => some (3, (d.length + 63) / 64)
  | _ => none

/-- Slots of 8 bytes of a message (R328); link flits carry none. -/
def bvSlots : BvMsg → Nat
  | .wr _ _ d | .cplData _ d => 1 + 8 * ((d.length + 63) / 64)
  | .wrPart _ _ _ _ => 10
  | .idle _ | .replayReq _ | .replay _ => 0
  | _ => 1

def bvCredit (b : Bv) : Nat → Nat
  | 0 => b.credReq | 1 => b.credRsp | 2 => b.credSnp | _ => b.credDat

def bvSpend (b : Bv) (ch n : Nat) : Bv :=
  match ch with
  | 0 => { b with credReq := b.credReq - n }
  | 1 => { b with credRsp := b.credRsp - n }
  | 2 => { b with credSnp := b.credSnp - n }
  | _ => { b with credDat := b.credDat - n }

/-- Tag and data lines of the reply that a message asks for (R329). -/
def bvAsks : BvMsg → Option (Nat × Nat)
  | .rd tag _ lines => some (tag, lines)
  | .snpData tag _ => some (tag, 1)
  | _ => none

/-- The device holds receive space, 1,024 lines in all, for every line of the reply that a message asks for (R329). -/
def bvRoom (b : Bv) (m : BvMsg) : Bool := decide ((b.asked.map Prod.snd).sum + ((bvAsks m).map Prod.snd).getD 0 ≤ 1024)

/-- A message leaves in flits of 25 slots, numbered and kept for a replay (R327, R330). -/
def bvEmit (b : Bv) (m : BvMsg) : Bv :=
  let n := (bvSlots m + 24) / 25
  let kept := b.kept ++ (List.range n).map (fun i => (b.txSeq + i) % 1024)
  { b with asked := b.asked ++ (bvAsks m).toList, tx := b.tx ++ [m], txSeq := (b.txSeq + n) % 1024, kept := kept.drop (kept.length - 512) }

/-- Send a message while its channel has credit and its reply room, and none of its channel waits before it. -/
def bvTry (b : Bv) (m : BvMsg) : Bv :=
  match bvCost m with
  | none => bvEmit b m
  | some (ch, n) =>
    if n ≤ bvCredit b ch ∧ bvRoom b m ∧ b.wait.all (fun w => (bvCost w).map Prod.fst != some ch) then bvEmit (bvSpend b ch n) m
    else { b with wait := b.wait ++ [m] }

/-- Credits have come: messages that waited are sent in order. -/
def bvFlush (b : Bv) : Bv := b.wait.foldl bvTry { b with wait := [] }

/-- A read or a data snoop has been answered: its receive space is free again. -/
def bvAnswered (b : Bv) (tag : Nat) : Bv := bvFlush { b with asked := b.asked.filter (fun x => x.1 ≠ tag) }

/-- Send a Brivlink message on behalf of a partition, or of none: its bytes are metered (Table PWR-3, class 13). -/
def bvSendFor (s : State) (part : Option Nat) (m : BvMsg) : State := meter (setBv s (bvTry s.bv m)) part 13 (8 * bvSlots m)

def bvSend (s : State) (m : BvMsg) : State := bvSendFor s none m

/-- One message of a device write to space 3: WR of whole lines, or WR_PART within one line, whose data stand at their places;
seen in companion memory, and unacknowledged until its CPL (R334, R348). -/
def compMsg (s : State) (a : Nat) (bs : List Byte) (ctx : Nat) (tag : W32) : State :=
  if bs.isEmpty then s
  else
    let t := s.bv.nextTag
    let o := a % 64
    let msg : BvMsg := if o = 0 ∧ bs.length % 64 = 0 then .wr t (a / 64) bs
      else .wrPart t (a / 64) (BitVec.ofNat 64 ((2 ^ bs.length - 1) * 2 ^ o))
        (List.replicate o 0 ++ bs ++ List.replicate (64 - o - bs.length) 0)
    let b := { s.bv with nextTag := (t + 1) % 2048, writes := s.bv.writes ++ [(t, ctx, tag)] }
    let part := (s.head.seqs.find? (fun e => e.2.ctx == ctx && e.2.tag == tag)).map (fun e => e.2.part)
    bvSendFor { s with mem := mwrites s.mem (3 * 2 ^ 44 + a) bs, bv := b } part msg

/-- A device write of bytes to companion memory: the part of a line before the first boundary, runs of at most 8 lines, and the rest. -/
def compWrite (s : State) (a : Nat) (bs : List Byte) (ctx : Nat) (tag : W32) : State :=
  let pre := bs.take ((64 - a % 64) % 64)
  let rest := bs.drop pre.length
  let n := rest.length / 64 * 64
  let b := a + pre.length
  let s := compMsg s a pre ctx tag
  let s := ((chunks 512 (rest.take n)).zip (List.range (n / 512 + 1))).foldl (fun s x => compMsg s (b + 512 * x.2) x.1 ctx tag) s
  compMsg s (b + n) (rest.drop n) ctx tag

end Sys2Proof.Machine
end

