-- ==== Sys2Proof/Machine/Views.lean ====
section
/-!
DEFINITION. What a read of a control-space register gives.  Fields that show state held elsewhere are
computed from it, so that each piece of state has one home; every other field is the stored word.
-/
namespace Sys2Proof.Machine

def b2n (b : Bool) : Nat := if b then 1 else 0

def w32 (n : Nat) : W32 := BitVec.ofNat 32 n

/-- co_sch_state, Table TIL-4. -/
def schState (k : Core) : Nat :=
  let hold := b2n (k.ecc > 0) + 2 * b2n !k.credit.isEmpty
  (if k.faulted then 3 else if k.task.isNone then 0 else if hold > 0 then 2 else 1) + 4 * hold

/-- Cores that entries made after manufacture leave fallow: of other reasons than the die screening, the interconnect test and the grade
(R325, Table BOOT-4); 0 before the readiness decision. -/
def fellInService (s : State) : Nat :=
  let made := s.head.ledger.filter (fun e => [0, 1, 8].contains (getBits e 24 4))
  let new : State := { s with head := { s.head with ledger := made, ledgerNow := [] } }
  if s.boot.decided then ((List.range 240).filter (fun c => coreFallow s c && !coreFallow new c)).length else 0

/-- The sink acts for a core (R272). -/
def sinkActive (s : State) (c : Nat) : Bool :=
  !(getRegion s (coreRegion c)).powered || (getCore s c).resetting || coreFallow s c

/-- Freeboard setpoint of a group at a setting, mV (R408): Vmin × 1.08 rounded up to 5 mV, clamped. -/
def freeboard (s : State) (g k : Nat) : Nat :=
  let v := tgetD s.fuses.vmin (g * 17 + k) 666
  let m := (v * 108 + 499) / 500 * 5
  max 600 (min 850 m)

/-- Region of a phase group; group 72 runs at setting 0. -/
def groupSetting (s : State) (g : Nat) : Nat := if g = 72 then 0 else (getRegion s g).k

def setpoint (s : State) (g : Nat) : Nat := min 850 (freeboard s g (groupSetting s g) + (getVGroup s g).raise)

/-- hb_ilv and lk_bv_win lock when the device declares itself ready, until a device reset (R276, R335, R443). -/
def regsLocked (s : State) : Bool := s.boot.decided && decide (s.boot.outcome ≠ St.topologyMismatch.code)

/-- Fields of id_fields: dark and withheld. -/
def fieldMask (p : Nat → Bool) : Nat := ((List.range 12).map (fun f => b2n (p f) * 2 ^ f)).sum

/-- Low and high halves of an Ethernet timestamp counter (R398). -/
def ethCount (s : State) (p : Nat) : Nat :=
  match (getPort s p).since with
  | none => 0
  | some t => (getRegion s 76).count - t

/-- Capability state of a core (Table REF-3). -/
def capState (s : State) (c : Nat) : Nat :=
  if fieldDark s (coreField c) then 3 else if coreFallow s c then 2 else if (getCore s c).suspect then 1 else 0

def fallowLanes (s : State) (p : Nat) : Nat :=
  ((List.range 8).map (fun l => b2n ((ledgerAll s).any (fun e =>
    ledgerType e == 0xB && getBits e 0 4 == p && (getBits e 7 1 == 1 || getBits e 4 3 == l))) * 2 ^ l)).sum

/-- Value that a read of element `w` of register `r` of copy `u` gives. -/
def regValue (s : State) (r : Reg) (u w : Nat) : W32 :=
  let raw := rawReg s r u w
  let k := getCore s u
  let g := getRegion s w
  match r with
  | .coArrWidth => let x := coreWidths s u; w32 (x.1 + 256 * x.2.1 + 65536 * x.2.2)
  | .coArrBypLo => w32 ((bypassUnion s u).filter (· < 32) |>.map (2 ^ ·) |>.sum)
  | .coArrBypHi => w32 ((bypassUnion s u).filter (32 ≤ ·) |>.map (fun b => 2 ^ (b - 32)) |>.sum)
  | .coArrMode => putBits (putBits raw 2 1 (b2n k.split)) 3 1 (b2n (coreChecks s u))
  | .coSchState => w32 (schState k)
  | .bsSpTables => putBits (w32 ((k.wins.filter (·.2.isOpen)).length + 65536 * (k.rngs.filter (·.2.isOpen)).length))
      23 4 (getBits raw 23 4)
  | .coMskSlots => w32 k.maskUsed.length
  | .coChkSuspect => w32 (min 3 (tgetD s.head.suspects u 0) + 4 * b2n k.suspect)
  | .cnRtState => w32 (b2n (routerWithdrawn s u) + 2 * b2n (sinkActive s u) +
      ((List.range 4).map (fun d => b2n (getLink s u d).down * 2 ^ (2 + d))).sum)
  | .bsPoolRanges =>
      let rs := (getField s u).ranges.filter (fun e => e.2.mode ≠ 0)
      w32 (rs.length + 32 * ((rs.filter (·.2.mode == 2)).map (·.2.stripes)).sum
        + 2 ^ 18 * ((rs.filter (·.2.mode == 1)).map (·.2.stripes)).sum)
  | .hbIlv => putBits (rawReg s .hbIlv 0) 1 1 (b2n (regsLocked s))
  | .hbScrubCfg => rawReg s .hbScrubCfg 0
  | .lkBvState => w32 (s.boot.bvState + 8 * s.boot.bvWidth + 32 * s.boot.bvTries + 128 * b2n s.boot.bvReversed)
  | .lkBvWin => putBits raw 31 1 (b2n (regsLocked s))
  | .hgState => w32 s.boot.hgState
  | .hgDbCmd => raw
  | .ckRef => w32 (b2n s.clk.refPresent + 2 * b2n s.clk.allHold)
  | .ckHgCountLo => w32 (hgNow s)
  | .ckHgCountHi => w32 (s.clk.hgLatch / 2 ^ 32)
  | .ckXingDis => w32 s.clk.dis
  | .ckRgState => w32 (g.k + 32 * b2n g.locked + 64 * b2n g.running + 128 * b2n g.holdover + 256 * b2n g.slewing)
  | .ckRgSpills => w32 g.spills
  | .ckRgGauge => w32 (g.margin + 256 * g.least + 65536 * min 0xFFFF g.warnings)
  | .pwFeed => w32 (b2n s.pow.presentA + 2 * b2n s.pow.presentB + 4 * b2n s.pow.emergency + 8 * b2n s.pow.brake)
  | .pwFeedV => w32 (s.pow.cvA + 65536 * s.pow.cvB)
  | .pwBoard => w32 (s.pow.board + 65536 * s.pow.winMean)
  | .pwAllot => w32 ((s.pow.dev.allot.getD 0) + 2 ^ 14 * s.pow.dev.window)
  | .pwCtl => w32 (s.pow.dev.k + 32 * b2n s.pow.dev.shedJ + 64 * b2n s.pow.dev.shedS + 128 * b2n s.pow.fast)
  | .pwScale => w32 (s.pow.scale * 65536 + 1 / 2).floor.toNat
  | .pwOverrun => w32 s.pow.overrun
  | .pwTrip => w32 (s.pow.tripSensor + 128 * b2n s.pow.tripped + 256 * s.pow.tripC + 65536 * min 0xFFFF s.pow.trips)
  | .pwDom => w32 (g.power + 65536 * g.volts + 2 ^ 28 * b2n g.powered + 2 ^ 29 * b2n g.shed)
  | .pwTemp =>
      let t := getSensor s w
      w32 ((t.t % 65536).toNat + 65536 * (t.high % 256).toNat + 2 ^ 24 * b2n t.warn + 2 ^ 25 * b2n t.step + 2 ^ 26 * b2n t.shed)
  | .pwVset => w32 (setpoint s w + 1024 * freeboard s w (groupSetting s w) + 2 ^ 20 * (getVGroup s w).raise)
  | .hgBootCtl => 0
  | .hgBootStat => w32 (s.boot.phase + 16 * s.boot.status + 4096 * min 255 s.boot.failures)
  | .hgBootMs => w32 (min 0xFFFF s.boot.ms + 65536 * min 0xFFFF s.boot.b5Ms)
  | .hgLedger => w32 (s.head.ledger.length + 65536 * min 0xFFFF s.boot.appended)
  | .hgPorts => w32 (s.boot.expected + 65536 * s.boot.fullPorts)
  | .hgTopo => w32 (s.boot.presented + 256 * b2n s.boot.strict + 512 * b2n s.boot.ledgerOk + 1024 * b2n (s.boot.bvWidth == 1 || s.boot.bvWidth == 2)
      + 2048 * (if s.boot.decided then fieldMask (poolWithheld s) else 0))
  | .hgRstCnt => w32 (min 0xFFFF s.boot.partialResets + 65536 * min 0xFFFF s.boot.deviceResets)
  | .lkEthState =>
      let p := getPort s u
      w32 (p.st + 8 * p.width + 32 * p.tries + 256 * b2n p.kr + 512 * b2n p.degraded)
  | .lkEthLanes => w32 ((getPort s u).lanes + 256 * fallowLanes s u)
  | .lkEthTsLo => w32 (ethCount s u)
  | .lkEthTsHi => w32 ((getPort s u).tsLatch / 2 ^ 32)
  | .lkEthAddrLo => w32 (getPort s u).addr
  | .lkEthAddrHi => w32 ((getPort s u).addr / 2 ^ 32 % 65536)
  | .idGrade => w32 (s.fuses.grade + 256 * s.boot.presented + 65536 * min 255 (fellInService s))
  | .idSerialLo => w32 s.fuses.serial.toNat
  | .idSerialHi => w32 (s.fuses.serial.toNat / 2 ^ 32)
  | .idFwVersion => if s.boot.hgState ≥ 2 ∨ s.head.reload = 2 then w32 s.boot.fwver else 0
  | .idFwSvn => w32 ((if s.boot.hgState ≥ 2 ∨ s.head.reload = 2 then s.boot.imgSvn + 65536 * s.boot.slot else 0) + 256 * s.fuses.svn
      + 2 ^ 18 * (s.fuses.revoked.map (2 ^ ·)).sum)
  | .idReady => w32 (if s.boot.decided then s.boot.outcome + 256 else 0)
  | .idEthBaseLo => w32 s.fuses.ethBase
  | .idEthBaseHi => w32 (s.fuses.ethBase / 2 ^ 32 % 65536)
  | .idFields => if s.boot.decided then w32 (fieldMask (fieldDark s) + 4096 * fieldMask (poolWithheld s)) else 0
  | .idCoreCap => if s.boot.decided then
      let x := coreWidths s w
      w32 (x.1 + 256 * x.2.1 + 65536 * x.2.2 + 2 ^ 24 * capState s w) else 0
  | .idCoreLanes => if s.boot.decided then 0x04000200 else 0
  | _ => raw

/-- Word at a control-space offset. Outside the identity window, where unnamed words read as zero (R479), an access to a word that
no table names is refused: `none` (R25, R341). -/
def ctlRead (s : State) (off : Nat) : Option W32 :=
  match Reg.ofAddr off with
  | some (r, u, w) => some (regValue s r u w)
  | none => if off < 0x1000 ∧ off % 4 = 0 then some 0 else none

/-- Side effects of a read: the latches of R399 and R474. -/
def ctlReadEffect (s : State) (off : Nat) : State :=
  match Reg.ofAddr off with
  | some (.ckHgCountLo, _, _) => { s with clk := { s.clk with hgLatch := hgNow s } }
  | some (.lkEthTsLo, u, _) => let p := getPort s u; setPort s u { p with tsLatch := ethCount s u }
  | _ => s

end Sys2Proof.Machine
end

