-- ==== Sys2Proof/Machine/Operands.lean ====
section
/-!
DEFINITION. Operand forms: element runs in a core's scratchpad (R40-R42), descriptor fields, and the
right of a partition over an address (R306-R308).
-/
namespace Sys2Proof.Machine

/-- Bits lo+w-1:lo of a descriptor. -/
def fld {n : Nat} (d : BitVec n) (lo w : Nat) : Nat := d.toNat / 2 ^ lo % 2 ^ w

/-- Right of one segment. -/
def Seg.has (g : Seg) : Right → Bool
  | .rd => g.rd | .wr => g.wr | .add => g.add | .exp => g.exp

/-- Where a run of regions (first byte, byte after the last) covers bytes a … z-1 without a gap, each of `n` steps going as far as some
region that holds its first byte reaches. -/
def covered (rs : List (Nat × Nat)) : Nat → Nat → Nat → Bool
  | 0, a, z => decide (z ≤ a)
  | n + 1, a, z =>
    if z ≤ a then true
    else
      let reach := ((rs.filter (fun r => decide (r.1 ≤ a) && decide (a < r.2))).map Prod.snd).foldl max a
      if reach = a then false else covered rs n reach z

/-- Regions that a partition holds with a right: its segments, and for rd, wr and add the scratchpads of its cores and its pinned pool
ranges (R306, R308). -/
def partRegions (s : State) (p : Nat) (v : Partition) (r : Right) : List (Nat × Nat) :=
  (v.segs.filter (fun g => g.has r)).map (fun g => (g.base * 4096, (g.limit + 1) * 4096)) ++
  (if r = .exp then []
   else v.clusters.flatMap (fun cl => (clusterCores cl).map (fun c => (spadBase c, spadBase c + spadBytes))) ++
    s.fields.flatMap (fun e => (e.2.ranges.filter (fun x => x.2.part == p && x.2.mode == 1)).map (fun x =>
      (poolBase e.1 + x.2.first * stripeBytes, poolBase e.1 + (x.2.first + x.2.stripes) * stripeBytes))))

/-- A partition may access bytes a … a+n-1 with a right, of which at least one is meant; no byte lies outside the device's places. -/
def partAllows (s : State) (p : Nat) (r : Right) (a n : Nat) : Bool :=
  match getPart s p with
  | none => false
  | some v =>
    let rs := partRegions s p v r
    placeOf a ≠ .nowhere && placeOf (a + (n - 1)) ≠ .nowhere && covered rs rs.length a (a + max n 1)

/-- A task's access to bytes a … a+n-1: in its own core's scratchpad, or admitted with a right (R308). -/
def taskAllows (s : State) (c : Nat) (r : Right) (a n : Nat) : Bool :=
  let own := fun a => match placeOf a with
    | .spad x _ => x == c
    | _ => false
  n == 0 || (own a && own (a + n - 1)) || (match corePart s c with
    | some p => partAllows s p r a n
    | none => false)

/-- Values of `n` elements of a core's scratchpad, with their blocks' shared fields. -/
structure Elems where
  vals : List FV
  bits : List Nat
  sfs : List Nat
  silt : Bool
  st : State

/-- Read `n` elements at a scratchpad offset whose block fields lie at `sfOff` (R40, R41). -/
def readElems (s : State) (c : Nat) (f : Fmt) (n off sfOff : Nat) : Elems :=
  let r := spadFetch s c off (elemBytes f n)
  let silt := siltIn r.st (spadBase c + off) (elemBytes f n)
  let es := unpackElems f n r.bytes
  if fmtBlock f = 0 then ⟨decodeElems f es [], es, [], silt, r.st⟩
  else
    let nb := (n + fmtBlock f - 1) / fmtBlock f
    let q := spadFetch r.st c sfOff nb
    let sfs := q.bytes.map (·.toNat)
    ⟨decodeElems f es sfs, es, sfs, silt || siltIn q.st (spadBase c + sfOff) nb, q.st⟩

/-- FP32 words at a scratchpad offset. -/
def readF32s (s : State) (c off n : Nat) : List W32 × State :=
  let r := spadFetch s c off (4 * n)
  ((chunks 4 r.bytes).map (fun b => w32 (leNat b)), r.st)

/-- Bank of a scratchpad offset: default interleave, or 2-D inside the declared ranges (R136, R137). -/
def spadBank (twoD : List Range) (off : Nat) : Nat :=
  let b := off / 64 % 256
  if twoD.any (fun r => decide (r.off ≤ off) && decide (off < r.off + r.len)) then b ^^^ (off / 2 ^ 14 % 256) else b

/-- The stage record that a core's task runs, and the ranges that it declares 2-D. -/
def taskStage (s : State) (c : Nat) : Option StageRec :=
  match (getCore s c).task with
  | none => none
  | some t => match tget s.head.progs t.prog with
    | none => none
    | some p => p.img.stages[t.stage]?

def twoDOf (s : State) (c : Nat) : List Range := ((taskStage s c).map (·.twoD)).getD []

/-- Value of an extent at a run-time shape (R351). -/
def extentOf (shape : List Nat) : Extent → Nat
  | .const n => n
  | .var v m => shape.getD v 0 * m

/-- Trip count of a loop at a run-time shape; a last trip over part of the extent is a whole one, as the padding of R93 has it. -/
def tripCount (shape : List Nat) (t : Trip) : Nat := (extentOf shape t.extent + t.per - 1) / t.per

def loopCycles (shape : List Nat) (l : Loop) : Nat := (l.trips.map (tripCount shape)).foldl (· * ·) l.cycles

/-- Counted cycles of a product: with no rows or no columns, one for each token that it sends (R98). -/
def productCycles (shape : List Nat) (p : ProductRec) : Nat :=
  if extentOf shape p.m = 0 ∨ extentOf shape p.n = 0 then p.tokens else (p.loops.map (loopCycles shape)).sum

/-- The budget C of a stage at a run-time shape (R100). -/
def stageBudget (shape : List Nat) (st : StageRec) : Nat :=
  (st.products.map (productCycles shape)).sum + (st.loops.map (loopCycles shape)).sum

/-- Run-time shape of the sequence whose task a core runs. -/
def taskShape (s : State) (c : Nat) : List Nat := ((getCore s c).task.map (·.shape)).getD []

def taskSeed (s : State) (c : Nat) : W64 := ((getCore s c).task.map (·.seed)).getD 0

/-! ### Bank ports (R133-R142, R154) -/

/-- Banks with one port: a core's scratchpad, or a field's pool. -/
inductive BankUnit where
  | spad (c : Nat) | pool (f : Nat)
deriving DecidableEq, Repr

def getBanks (s : State) : BankUnit → BankPort
  | .spad c => (getCore s c).port
  | .pool f => (getField s f).port

def setBanks (s : State) (u : BankUnit) (p : BankPort) : State :=
  match u with
  | .spad c => modCore s c (fun k => { k with port := p })
  | .pool f => setField s f { getField s f with port := p }

/-- Banks that hold a granule of the basin. -/
def unitOf (g : Nat) : Option BankUnit :=
  match placeOf (g * 64) with
  | .spad c _ => some (.spad c)
  | .pool f _ => some (.pool f)
  | _ => none

/-- Bank of a basin granule (R136, R137, R146). -/
def bankOf (s : State) (g : Nat) : Nat :=
  match placeOf (g * 64) with
  | .spad c o => spadBank (twoDOf s c) o
  | .pool _ o => o / 64 % 3072
  | _ => 0

/-- A furrow row of this granule is computed and not yet written (R190). -/
def furrowBusy (s : State) (g : Nat) : Bool := s.blocks.any (fun b => b.2.rows.any (fun r => r.granule == g))

/-- Bytes landed in a ring buffer rise or fall with a write (R161). -/
def countLanded (s : State) (d : HeldWrite) (f : Nat → Nat) : State :=
  match unitOf d.granule, d.buf with
  | some (.spad c), some (w, b) => modCore s c (fun k => match tget k.wins w with
    | none => k
    | some v => { k with wins := tput k.wins w { v with landed := tmod v.landed b 0 f } })
  | _, _ => s

/-- A same-row event of R142. -/
def sameRow (s : State) (u : BankUnit) : State :=
  match u with
  | .spad c => setEvent (bump s .bsSpSameRow c 1) .bsSpEvent c 1
  | .pool _ => s

/-- An unscheduled write lands, and the port keeps the row's bytes before it for the rest of the cycle. -/
def landRow (s : State) (u : BankUnit) (d : HeldWrite) : State :=
  let old := granuleBytes s d.granule
  let s := countLanded (putGranule s d.granule d.bytes) d (· + 64)
  let p := getBanks s u
  setBanks s u { p with landed := p.landed ++ [(d, old)] }

/-- The bank of a granule has neither a scheduled access nor an unscheduled write in this cycle, and the write port of a scratchpad
has a granule left of its 32 (R140). -/
def bankFree (s : State) (u : BankUnit) (g : Nat) : Bool :=
  let p := getBanks s u
  let b := bankOf s g
  !p.touched.any (fun t => bankOf s t.granule == b) && !p.landed.any (fun x => bankOf s x.1.granule == b) &&
  (match u with
    | .spad _ => decide ((p.touched.filter (·.wr)).length + p.landed.length < 32)
    | .pool _ => true)

/-- Put a write among those held back: deferred writes first, each kind in order of arrival. -/
def holdWrite (p : BankPort) (d : HeldWrite) : BankPort :=
  { p with held := if d.first then p.held.filter (·.first) ++ d :: p.held.filter (fun x => !x.first) else p.held ++ [d] }

/-- An unscheduled write of one basin granule arrives: it lands, or waits behind the accesses of Table BASIN-2 that go first; behind a
scheduled access of its own row it is a deferred write, which goes before the other waiting writes (R140, R142, R190). -/
def bankWrite (s : State) (g : Nat) (bs : List Byte) (buf : Option (Nat × Nat)) : State :=
  match unitOf g with
  | none => putGranule s g bs
  | some u =>
    let p := getBanks s u
    let d : HeldWrite := ⟨g, bs, buf, p.touched.any (·.granule == g) || furrowBusy s g⟩
    if d.first then sameRow (setBanks s u (holdWrite p d)) u
    else if bankFree s u g && !p.held.any (fun x => bankOf s x.granule == bankOf s g) then landRow s u d
    else setBanks s u (holdWrite p d)

/-- A write held back lands in a cycle in which its bank is free, after the furrow write of its row (R142, R190). -/
def landHeld (s : State) (u : BankUnit) (d : HeldWrite) : State :=
  let p := getBanks s u
  if bankFree s u d.granule && !furrowBusy s d.granule && (p.held.find? (fun x => bankOf s x.granule == bankOf s d.granule)) == some d then
    landRow (setBanks s u { p with held := eraseFirst d p.held }) u d
  else if p.touched.any (·.granule == d.granule) then sameRow s u
  else s

/-- An unscheduled write that has landed in this cycle is taken back: the bank has a scheduled access (R140, R142). -/
def takeBack (s : State) (u : BankUnit) (gs : List Nat) (x : HeldWrite × List Byte) : State :=
  let s := countLanded (putGranule s x.1.granule x.2) x.1 (· - 64)
  let p := getBanks s u
  let same := gs.contains x.1.granule
  let d := { x.1 with first := same }
  let held := if same then d :: p.held else p.held.filter (·.first) ++ d :: p.held.filter (fun x => !x.first)
  let s := setBanks s u { p with landed := eraseFirst x p.landed, held := held }
  if same then sameRow s u else s

/-- Scheduled accesses of one cycle reach their banks; false where two meet in one bank of a scratchpad, which then serves neither: its
scheduled writes of the cycle are undone (R141). A pool's engines take turns (R154). -/
def touchBanks (s : State) (u : BankUnit) (gs : List (Nat × Bool)) : State × Bool :=
  let p := getBanks s u
  let bk := gs.map (fun g => bankOf s g.1)
  let pool := match u with
    | .pool _ => true
    | .spad _ => false
  let clash := if pool then [] else bk.filter (fun b => p.touched.any (fun t => bankOf s t.granule == b) || decide (1 < bk.count b))
  if clash.isEmpty then
    let s := (p.landed.filter (fun x => bk.contains (bankOf s x.1.granule))).foldl (fun s x => takeBack s u (gs.map Prod.fst) x) s
    let p := getBanks s u
    (setBanks s u { p with touched := p.touched ++ gs.map (fun g => ⟨g.1, g.2, if g.2 then granuleBytes s g.1 else []⟩) }, true)
  else
    ((p.touched.filter (fun t => t.wr && clash.contains (bankOf s t.granule))).foldl (fun s t => putGranule s t.granule t.old) s, false)

/-- BANK_CONFLICT: the core faults and its pipeline halts (R141). -/
def bankConflict (s : State) (c : Nat) : State :=
  let s := setEvent (modCore s c (fun k => { k with faulted := true })) .bsSpEvent c 0
  match (getCore s c).task with
  | none => s
  | some t => haltPipe s (pipeKey t.prog t.pipe) .bankConflict

/-- Accesses of the cycles that follow, merged with those under way. -/
def mergeCycles : List (List (Nat × Bool)) → List (List (Nat × Bool)) → List (List (Nat × Bool))
  | [], b => b
  | a, [] => a
  | x :: a, y :: b => (x ++ y) :: mergeCycles a b

/-- Scheduled accesses of a core to granules of its scratchpad, cycle by cycle from this one; false where the core has faulted. -/
def schedCycles (s : State) (c : Nat) (cy : List (List (Nat × Bool))) : State × Bool :=
  let r := touchBanks s (.spad c) (cy.headD [])
  if r.2 then
    let p := getBanks r.1 (.spad c)
    (setBanks r.1 (.spad c) { p with coming := mergeCycles p.coming cy.tail }, true)
  else (bankConflict r.1 c, false)

/-- Scheduled accesses to granules at offsets: 64 a cycle through the read port or 32 through the write port (R80, R140). -/
def schedTouch (s : State) (c : Nat) (wr : Bool) (offs : List Nat) : State × Bool :=
  schedCycles s c (chunks (if wr then 32 else 64) (offs.map (fun o => ((spadBase c + o) / 64, wr))))

/-- Scheduled reads at offsets and, in the cycles after them, scheduled writes: a pass of the checksum unit. -/
def schedPass (s : State) (c : Nat) (reads writes : List Nat) : State × Bool :=
  let gr := fun (wr : Bool) (o : Nat) => ((spadBase c + o) / 64, wr)
  schedCycles s c (chunks 64 (reads.map (gr false)) ++ chunks 32 (writes.map (gr true)))

/-- A scratchpad range of a pass begins on a granule and lies in the scratchpad. -/
def spadSpan (off n : Nat) : Bool := off % 64 == 0 && decide (off + n ≤ spadBytes)

/-- An unscheduled read of basin granules meets its banks in this cycle: it is noted, for the cycles that it waits (R140). -/
def noteRead (s : State) (g : Nat) : State :=
  match unitOf g with
  | none => s
  | some u =>
    let p := getBanks s u
    if p.touched.isEmpty then s else setBanks s u { p with reads := p.reads ++ [g] }

/-- Banks in which an unscheduled access of this cycle waits behind a scheduled one (Table BASIN-7). -/
def waitingBanks (s : State) (u : BankUnit) : Nat :=
  let p := getBanks s u
  ((p.touched.map (fun t => bankOf s t.granule)).eraseDups.filter (fun b =>
    p.held.any (fun d => bankOf s d.granule == b) || p.reads.any (fun g => bankOf s g == b))).length

/-- A cycle of a port ends: waiting writes whose banks are free land, in order; and the next begins, with the scheduled accesses that go
on in it unless the core is held. False where two of these meet in one bank. -/
def nextCycle (s : State) (u : BankUnit) (go : Bool) : State × Bool :=
  let s := match u with
    | .spad c => bump s .bsSpDeferred c (waitingBanks s u)
    | .pool _ => s
  let s := (getBanks s u).held.foldl (fun s d => landHeld s u d) s
  let p := getBanks s u
  if go then touchBanks (setBanks s u { p with touched := [], landed := [], reads := [], coming := p.coming.tail }) u (p.coming.headD [])
  else (setBanks s u { p with touched := [], landed := [], reads := [] }, true)

/-- A task of a senior-reserved pipeline would write a secured tensor of its partition (R366). -/
def securedWrite (s : State) (c a n : Nat) : Bool :=
  match (getCore s c).task with
  | none => false
  | some t => ((getPipe s (pipeKey t.prog t.pipe)).map (·.reserved)).getD false &&
    (match (corePart s c).bind (tget s.head.secure) with
      | none => false
      | some x => x.tensors.any (fun y => decide (a < y.base + y.bytes) && decide (y.base < a + n)))

/-- Granule-aligned offsets of n bytes at an offset. -/
def granOffs (off n : Nat) : List Nat :=
  if n = 0 then [] else (List.range ((off + n - 1) / 64 - off / 64 + 1)).map (fun i => (off / 64 + i) * 64)

end Sys2Proof.Machine
end

