-- ==== Sys2Proof/Machine/CanalOps.lean ====
section
/-!
DEFINITION. Shared canal operations: endpoints (R248), routes (R264, R265), the packets in flight, the
discard of R251, the sink of R272, and the admission of a remote write (R159-R164, R458), and the pattern log (R237, R238).
-/
namespace Sys2Proof.Machine

/-- Core ID of the router that serves an endpoint (Table CAN-1). -/
def endpointRouter (e : Nat) : Nat :=
  if e < 240 then e
  else if e < 300 then coreOfSpad ((e - 240) / 5) ((e - 240) % 5 * 4 + 1)
  else if e < 320 then e - 300
  else if e < 344 then (e - 320) / 2 * 20 + 19
  else if e < 364 then 220 + (e - 344)
  else if e < 388 then (e - 364) / 2 * 20
  else match e with
    | 388 => 21 | 389 => 38 | 390 => 201 | 391 => 218 | 392 => 112 | _ => 107

/-- Routers from one router to another in dimension order, x before y, both ends included (R264). -/
def pathXY (a b : Nat) : List Nat :=
  let xa := coreX a
  let xb := coreX b
  let ya := coreY a
  let yb := coreY b
  let xs := if xa ≤ xb then (List.range (xb - xa + 1)).map (xa + ·) else (List.range (xa - xb + 1)).map (xa - ·)
  let ys := if ya ≤ yb then (List.range (yb - ya)).map (ya + 1 + ·) else (List.range (ya - yb)).map (ya - 1 - ·)
  xs.map (fun x => ya * 20 + x) ++ ys.map (fun y => y * 20 + xb)

/-- Direction from a router to its neighbour: 0 north, 1 east, 2 south, 3 west. -/
def dirOf (a b : Nat) : Nat :=
  if b + 20 = a then 0 else if b = a + 1 then 1 else if b = a + 20 then 2 else 3

def linkDead (s : State) (a b : Nat) : Bool :=
  let l := getLink s a (dirOf a b)
  l.down || ledgerHas s 4 (a + 256 * dirOf a b) 0x3FF || ledgerHas s 4 (b + 256 * dirOf b a) 0x3FF

/-- A dimension-order path avoids every withdrawn router and link. -/
def pathLive (s : State) : List Nat → Bool
  | [] => true
  | [a] => !routerWithdrawn s a
  | a :: b :: t => !routerWithdrawn s a && !linkDead s a b && pathLive s (b :: t)

/-- A hop crosses a stitch seam. -/
def isSeam (a b : Nat) : Bool := coreField a != coreField b

def seams : List Nat → Nat
  | a :: b :: t => b2n (isSeam a b) + seams (b :: t)
  | _ => 0

/-- Cycles of a route, router to router (R14). -/
def hopCycles (p : List Nat) : Nat := 2 * (p.length - 1) + 2 * seams p

/-- Via entry of R265: 0xFF direct, else the best live detour; `none` with no route. -/
def viaFor (s : State) (a b : Nat) : Option Nat :=
  if pathLive s (pathXY a b) then some 0xFF
  else
    let cand := (List.range 240).filter (fun v => pathLive s (pathXY a v) && pathLive s (pathXY v b))
    let key := fun v => ((pathXY a v).length + (pathXY v b).length) * 100000 + (seams (pathXY a v) + seams (pathXY v b)) * 1000 + v
    cand.foldl (fun best v => match best with
      | none => some v
      | some w => if key v < key w then some v else some w) none

/-- The via table's entry in force. -/
def viaOf (s : State) (router dst : Nat) : Nat := tgetD s.head.via (router * 512 + dst) 0xFF

/-- Routers that a packet passes from endpoint to endpoint. -/
def routeOf (s : State) (src dst : Nat) : List Nat :=
  let a := endpointRouter src
  let b := endpointRouter dst
  let v := viaOf s a dst
  if v = 0xFF then pathXY a b else pathXY a v ++ (pathXY v b).drop 1

/-- A control-channel packet: token and check types (Table CAN-4). -/
def isCtlPkt : PType → Bool
  | .writeToken | .freeToken | .ack | .error | .inval | .check => true
  | _ => false

def isReqPkt : PType → Bool
  | .write | .writeAdd | .readReq | .engineReq | .ctrl => true
  | _ => false

/-- Channel of Table CAN-4. -/
def vcOf (t : PType) (p : Packet) : Nat :=
  let cls := match p.cls with
    | .senior => 0 | .standard => 1 | .junior => 2
  match t with
  | .check => 7
  | .writeToken | .freeToken | .ack | .error | .inval => 0
  | .readReply => 2 + 2 * cls
  | .ctrl => if p.src = 393 then 1 + 2 * cls else 2 + 2 * cls
  | _ => 1 + 2 * cls

/-- Buffers of a channel and phase at a router input (R257). -/
def vcBuffers (vc : Nat) : Nat := if vc = 0 || vc = 7 then 4 else 8

/-! ### Crossings (Table CLK-1, R386-R389) -/

/-- The routers of the seam links: side-by-side seams, then stacked seams (log entry 20). -/
def seamLinks : List (Nat × Nat) :=
  ((List.range 240).filter (fun c => coreX c < 19 && coreX c % 5 == 4)).map (fun c => (c, c + 1)) ++
  ((List.range 240).filter (fun c => coreY c < 11 && coreY c % 4 == 3)).map (fun c => (c, c + 20))

/-- Pairs of regions that meet: cores and routers 0-239, seams 240-315 (76 links), HBM ports 316-403, attachments 404-409, control
paths 410-415 (log entry 20). -/
def crossPairs : List (Nat × Nat) :=
  (List.range 240).map (fun c => (coreRegion c, fieldRegion (coreField c))) ++
  seamLinks.map (fun p => (fieldRegion (coreField p.1), fieldRegion (coreField p.2))) ++
  (List.range 88).map (fun i => (fieldRegion (coreField (endpointRouter (300 + i))),
    if i < 20 then 72 else if i < 44 then 73 else if i < 64 then 74 else 75)) ++
  (List.range 6).map (fun i => (fieldRegion (coreField (endpointRouter (388 + i))), if i < 4 then 76 else if i = 4 then 77 else 78)) ++
  [(76, 77), (76, 78), (76, 79), (77, 78), (77, 79), (78, 79)]

def getCrossing (s : State) (x : Nat) : Crossing := tgetD s.clk.crossings x Crossing.reset

def setCrossing (s : State) (x : Nat) (c : Crossing) : State :=
  { s with clk := { s.clk with crossings := tput s.clk.crossings x c } }

/-- The crossing by which an endpoint sends to its router, and the one by which it receives; a pool port lies in its router's region. -/
def endCrossings (e : Nat) : Option (Nat × Nat) :=
  if e < 240 then some (2 * e, 2 * e + 1)
  else if e < 300 then none
  else if e < 388 then some (2 * (e + 16) + 1, 2 * (e + 16))
  else if e < 394 then some (2 * (e + 16) + 1, 2 * (e + 16))
  else none

/-- The crossing of a seam link from router a to router b. -/
def seamCrossing (a b : Nat) : Option Nat :=
  if isSeam a b then
    let l := seamLinks
    match l.findIdx? (fun p => p == (a, b)), l.findIdx? (fun p => p == (b, a)) with
    | some i, _ => some (2 * (240 + i))
    | none, some i => some (2 * (240 + i) + 1)
    | none, none => none
  else none

/-- The FIFO of a crossing holds its 8 entries: the sender waits (R386, R389). -/
def fifoFull (s : State) (x : Option Nat) : Bool := x.any (fun x => decide (8 ≤ (getCrossing s x).fill))

/-- Entries come into a crossing, one a cycle; the FIFO holds no more than 8 of them. -/
def fifoPut (s : State) (x : Option Nat) (n : Nat) : State :=
  match x with
  | none => s
  | some x => let c := getCrossing s x; setCrossing s x { c with fill := min 8 (c.fill + n) }

/-! ### Output ports (R249, R253-R257) -/

def getOut (s : State) (k : Nat) : OutPort := tgetD s.outs k OutPort.reset
def setOut (s : State) (k : Nat) (o : OutPort) : State :=
  { s with outs := if o = OutPort.reset then tdel s.outs k else tput s.outs k o }

/-- Output port that a packet waits at: the link of its next hop, or its endpoint's port. -/
def outKey (f : Flight) : Nat :=
  match f.path with
  | a :: b :: _ => a * 4 + dirOf a b
  | _ => 4096 + f.p.dst

/-- A packet at the first output port of its route. -/
def flightStart (s : State) (t : PType) (p : Packet) : Flight :=
  let a := endpointRouter p.src
  let v := viaOf s a p.dst
  ⟨t, p, routeOf s p.src p.dst, if v = 0xFF then 0 else (pathXY a v).length - 1, max 1 p.len, 0, true⟩

/-- Put a packet on the canal: into its source's crossing, and to the first output port of its route (a multicast's copies are not
followed router by router: log entry 69). -/
def sendPkt (s : State) (t : PType) (p : Packet) : State :=
  let s := { s with canal := s.canal ++ [(t, p)] }
  if p.mcast ≠ 0#2 then s
  else
    let f := flightStart s t p
    let s := fifoPut s ((endCrossings p.src).map Prod.fst) f.left
    let o := getOut s (outKey f)
    setOut s (outKey f) { o with wait := o.wait ++ [f] }

/-- Phase of a packet's next hop (R264). -/
def Flight.phase (f : Flight) : Nat := if f.leg = 0 then 1 else 0

/-- The next flit of a packet has its credit: a buffer of its channel and phase at the next router (R257), and room in the crossing of a
seam (R389). Every endpoint takes what comes (R259), but for a full crossing. -/
def flitCredit (s : State) (f : Flight) : Bool :=
  match f.path with
  | a :: b :: _ =>
    let l := getLink s a (dirOf a b)
    let vc := vcOf f.t f.p
    !l.down && !(getLink s b (dirOf b a)).discarding && decide (0 < tgetD l.credits (vc * 2 + f.phase) (vcBuffers vc)) &&
      !fifoFull s (seamCrossing a b)
  | _ => !fifoFull s ((endCrossings f.p.dst).map Prod.snd)

/-- The first flit of a packet finds a canal credit (R80, R107); the copies of a multicast are not followed. -/
def canalCredit (s : State) (t : PType) (p : Packet) : Bool := p.mcast ≠ 0#2 || flitCredit s (flightStart s t p)

/-- First packet of a channel that waits at a port. -/
def headFlit (s : State) (o : OutPort) (vc : Nat) : Option Flight :=
  match o.wait.find? (fun f => vcOf f.t f.p == vc && !f.moved) with
  | some f => if flitCredit s f then some f else none
  | none => none

/-- Position n of the calendar is a senior position (R254). -/
def seniorPos (cs n : Nat) : Bool := (List.range cs).any (fun i => 64 * i / cs == n)

/-- The data flit that the calendar chooses (R254): of a class, the reply channel goes first. -/
def dataPick (s : State) (o : OutPort) : Option Flight :=
  let cls := fun (c : Nat) => (headFlit s o (2 + 2 * c)).or (headFlit s o (1 + 2 * c))
  let turns := if o.turn < 2 then (cls 1).or (cls 2) else (cls 2).or (cls 1)
  if seniorPos s.head.calS o.cal then (cls 0).or turns else turns.or (cls 0)

/-- The token channel must let data go first: it has sent in one of the 3 previous cycles while data waited (R253). -/
def tokThrottled (s : State) (o : OutPort) : Bool := o.tok.any id && (dataPick s o).isSome

/-- The flit that an output port sends in this cycle (R253). -/
def portPick (s : State) (o : OutPort) : Option Flight :=
  (headFlit s o 7).or (((if tokThrottled s o then none else headFlit s o 0)).or (dataPick s o))

/-- A port's calendar, turn and token record after a cycle in which it sends a flit, or none. -/
def portAfter (s : State) (o : OutPort) (f : Option Flight) : OutPort :=
  let tok := (f.any (fun f => vcOf f.t f.p == 0) && (dataPick s o).isSome) :: o.tok.take 2
  match f with
  | none => { o with tok := tok }
  | some f =>
    if isCtlPkt f.t then { o with tok := tok }
    else
      let junior := decide (5 ≤ vcOf f.t f.p)
      let std := decide (3 ≤ vcOf f.t f.p) && !junior
      { o with tok := tok, cal := (o.cal + 1) % 64, turn := if junior then 0 else if std then (if o.turn < 2 then o.turn + 1 else 2) else o.turn }

/-- Longest waits of a router's check and senior data flits, saturating (Table CAN-7). -/
def noteWait (s : State) (r : Nat) (f : Flight) : State :=
  let lo := if f.t = .check then some 0 else if vcOf f.t f.p = 1 ∨ vcOf f.t f.p = 2 then some 8 else none
  match lo with
  | none => s
  | some lo =>
    let v := rawReg s .cnRtWait r
    if getBits v lo 8 < f.waited then setReg s .cnRtWait r (putBits v lo 8 (min 255 f.waited)) else s

/-- Flits leave a router by an output (Table CAN-7). -/
def countFlits (s : State) (r : Nat) (t : PType) (fl : Nat) : State := bump s (if isCtlPkt t then .cnRtCtlFlits else .cnRtDataFlits) r fl

/-- Flits cross one link: its sender numbers them, keeps its last 24 and spends credits (R257, R258, R261). -/
def crossLink (s : State) (a b vc phase fl : Nat) : State :=
  let d := dirOf a b
  let l := getLink s a d
  let seqs := (List.range fl).map (fun i => (l.txSeq + i) % 64)
  let kept := l.kept ++ seqs
  let key := vc * 2 + phase
  let l := { l with kept := kept.drop (kept.length - 24), txSeq := (l.txSeq + fl) % 64,
                    credits := tput l.credits key (tgetD l.credits key (vcBuffers vc) - fl) }
  let s := setLink s a d l
  let r := getLink s b (dirOf b a)
  setLink s b (dirOf b a) { r with rxSeq := (r.rxSeq + fl) % 64, refused := 0 }

/-- One cycle of an output port of a link: it sends the flit of R253; a packet whose last flit has gone waits at the next port. -/
def portCycle (s : State) (k : Nat) : State :=
  let o := getOut s k
  let pick := portPick s o
  let o' := portAfter s o pick
  let o' := { o' with wait := o'.wait.map (fun f => if f.moved then f else { f with waited := f.waited + 1 }) }
  match pick with
  | some f =>
    match f.path with
    | a :: b :: rest =>
      let s := noteWait (countFlits s a f.t 1) a f
      let s := fifoPut (crossLink s a b (vcOf f.t f.p) f.phase 1) (seamCrossing a b) 1
      let s := setOut s k { o' with wait := o'.wait.filterMap (fun g =>
        if g.t = f.t ∧ g.p = f.p ∧ g.path = f.path then (if g.left ≤ 1 then none else some { g with left := g.left - 1, waited := 0 }) else some g) }
      if 1 < f.left then s
      else
        let g : Flight := { f with path := b :: rest, leg := f.leg - 1, left := max 1 f.p.len, waited := 0, moved := true }
        let x := getOut s (outKey g)
        setOut s (outKey g) { x with wait := x.wait ++ [g] }
    | _ => setOut s k o'
  | none => setOut s k o'

/-- One cycle of the canal: every crossing's receiver takes an entry while its region runs, and every output port of a link sends a flit
that it has a credit for. -/
def canalCycle (s : State) : State :=
  let xs : Tab Crossing := s.clk.crossings.map (fun e => (e.1,
    let r := match crossPairs[e.1 / 2]? with
      | some p => getRegion s (if e.1 % 2 = 0 then p.2 else p.1)
      | none => Region.reset
    if r.running then { e.2 with fill := e.2.fill - 1 } else e.2))
  let s : State := { s with clk := { s.clk with crossings := xs },
                            outs := s.outs.map (fun e => (e.1, { e.2 with wait := e.2.wait.map (fun f => { f with moved := false }) })) }
  (s.outs.filter (fun e => !e.2.wait.isEmpty || e.2.tok.any id)).foldl (fun s e => portCycle s e.1) s

/-- Where a packet waits on its way. -/
def flightOf (s : State) (t : PType) (p : Packet) : Option (Nat × Flight) :=
  s.outs.findSome? (fun e => (e.2.wait.find? (fun f => f.t = t ∧ f.p = p)).map (fun f => (e.1, f)))

/-- Hops of a path, each with its phase: the first `leg` hops travel in phase 0. -/
def pathHops (leg : Nat) : List Nat → List (Nat × Nat × Nat)
  | a :: b :: t => (a, b, if leg = 0 then 1 else 0) :: pathHops (leg - 1) (b :: t)
  | _ => []

/-- Hops of the route between two endpoints. -/
def routeHops (s : State) (src dst : Nat) : List (Nat × Nat × Nat) :=
  let a := endpointRouter src
  let v := viaOf s a dst
  pathHops (if v = 0xFF then 0 else (pathXY a v).length - 1) (routeOf s src dst)

/-- Endpoints that receive a packet: the targets of its group or of its field mask, or its one destination (R269, R270). -/
def targetsOf (s : State) (p : Packet) : List Nat :=
  if p.mcast = 2#2 then ((tget s.head.groups p.dst).map (·.targets)).getD []
  else if p.mcast = 1#2 then ((List.range 20).filter (fun i => p.fmask.getLsbD i)).map (coreOfSpad p.dst)
  else [p.dst]

/-- The tree of a packet: the hops of the routes to its targets, each once (R269, R270). -/
def treeHops (s : State) (p : Packet) : List (Nat × Nat × Nat) := ((targetsOf s p).flatMap (routeHops s p.src)).eraseDups

/-- Hops that a packet has still before it. -/
def hopsLeft (s : State) (t : PType) (p : Packet) : List (Nat × Nat × Nat) :=
  match flightOf s t p with
  | some (_, f) => pathHops f.leg f.path
  | none => treeHops s p

/-- A link passes flits of a channel and phase: it is up, its receiver discards none, its sender holds a credit (R257, R261, R262). -/
def hopOpen (s : State) (vc : Nat) (h : Nat × Nat × Nat) : Bool :=
  let l := getLink s h.1 (dirOf h.1 h.2.1)
  !l.down && !(getLink s h.2.1 (dirOf h.2.1 h.1)).discarding && decide (0 < tgetD l.credits (vc * 2 + h.2.2) (vcBuffers vc))

/-- A request of a memory port and the queue that it joins there: a pseudo channel of HBM, or a pool's reads. -/
def portQueue (s : State) (t : PType) (p : Packet) : Option (Nat × Nat × Nat × Nat) :=
  if decide (300 ≤ p.dst) && decide (p.dst < 388) && (t = .readReq || t = .write) then
    let d := hbmDecode (mode1 s) (p.addr.toNat * 64)
    some (1, d.1, d.2.1, d.2.2.1)
  else if t = .readReq && decide (240 ≤ p.dst) && decide (p.dst < 300) then some (0, p.dst, 0, 0)
  else none

/-- A senior request that waits at the same queue is served first (R320). -/
def seniorFirst (s : State) (t : PType) (p : Packet) : Bool :=
  p.cls ≠ .senior && (portQueue s t p).isSome &&
  s.canal.any (fun e => e.2.cls == .senior && portQueue s e.1 e.2 == portQueue s t p && (flightOf s e.1 e.2).any (fun x => x.2.path.length == 1))

/-- A packet may reach its endpoint: its links pass it, no packet of its flow goes before it (R267), the endpoint's crossing has room (R389), where it
waits at the endpoint's port with others the port picks it (R253), and no senior request goes before it at a memory port (R320). -/
def mayArrive (s : State) (t : PType) (p : Packet) : Bool :=
  (match s.canal.find? (fun e => e.2.src == p.src && e.2.dst == p.dst && e.2.mcast == p.mcast && vcOf e.1 e.2 == vcOf t p) with
    | none => true
    | some e => e == (t, p)) && !seniorFirst s t p &&
  (hopsLeft s t p).all (hopOpen s (vcOf t p)) &&
  (p.mcast ≠ 0#2 || (!fifoFull s ((endCrossings p.dst).map Prod.snd) &&
    (match flightOf s t p with
      | none => true
      | some (k, f) => f.path.length ≠ 1 || f.moved || portPick s (getOut s k) == some f)))

/-- A core's injection port has no room for a flit of a channel, or the crossing to its router is full: the core is held (R257, R389). -/
def injectionFull (s : State) (c vc : Nat) : Bool :=
  fifoFull s (some (2 * c)) ||
  decide (8 ≤ ((s.outs.filter (fun e => e.1 / 4 = c ∨ 4096 ≤ e.1)).flatMap (fun e => (e.2.wait.filter (fun f =>
    f.p.src == c && vcOf f.t f.p == vc && f.path.headD 0 == c)).map (·.left))).sum)

/-- Packets leave the canal without reaching their target. -/
def dropPackets (s : State) (keep : PType → Packet → Bool) : State :=
  { s with canal := s.canal.filter (fun e => keep e.1 e.2),
           outs := s.outs.map (fun e => (e.1, { e.2 with wait := e.2.wait.filter (fun f => keep f.t f.p) })) }

/-- A packet reaches its targets: it leaves the packets in flight, the routers still on its way count its flits and their links pass them
(Table CAN-7), and its hops are metered (Table PWR-3). -/
def arrive (s : State) (t : PType) (p : Packet) : State :=
  let fl := max 1 p.len
  let hops := hopsLeft s t p
  let ends := targetsOf s p
  let total := (treeHops s p).length
  let fo := flightOf s t p
  let s := { s with canal := eraseFirst (t, p) s.canal }
  let s := match fo with
    | none => s
    | some (k, f) => setOut s k { getOut s k with wait := eraseFirst f (getOut s k).wait }
  let s := hops.foldl (fun s h => countFlits (crossLink s h.1 h.2.1 (vcOf t p) h.2.2 fl) h.1 t fl) s
  let s := ends.foldl (fun s e => countFlits s (endpointRouter e) t fl) s
  let s := if p.mcast = 0#2 then
      let e := 4096 + p.dst
      let s := match fo with
        | none => s
        | some (_, f) => setOut s e (portAfter s (getOut s e) (some f))
      fifoPut s ((endCrossings p.dst).map Prod.snd) fl
    else s
  meter s (if p.part < 60 then some p.part else none) (if isCtlPkt t then 9 else 8) (fl * total)

/-- R251: the packet is discarded by the first router that reads it. -/
def badPacket (t : PType) (p : Packet) : Bool :=
  let lenOk := match t with
    | .write | .writeAdd | .readReply => decide (1 ≤ p.len ∧ p.len ≤ 8)
    | .engineReq => p.len == 1
    | .ctrl => decide (p.len ≤ 1)
    | _ => p.len == 0
  let mcOk := match t with
    | .write | .writeAdd => p.mcast == 0#2 || p.mcast == 2#2
    | .readReply => p.mcast == 0#2 || p.mcast == 1#2
    | _ => p.mcast == 0#2
  !lenOk || !mcOk || p.wkind == 3#2

def discardPkt (s : State) (t : PType) (p : Packet) : State :=
  let r := endpointRouter p.src
  let s := match flightOf s t p with
    | none => s
    | some (k, f) => setOut s k { getOut s k with wait := eraseFirst f (getOut s k).wait }
  setEvent (bump { s with canal := eraseFirst (t, p) s.canal } .cnRtDrop r 1) .cnRtEvent r 2

/-- A packet with every optional field zero. -/
def mkPkt (cls : Cls) (src dst part addr aux : Nat) : Packet :=
  { cls := cls, len := 0, mcast := 0#2, dst := dst, src := src, part := part, addr := BitVec.ofNat 42 addr,
    index := 0, gen := 0#8, aux := BitVec.ofNat 16 aux, fmask := 0#20, wkind := 0#2, data := [] }

/-- Service class of the task that a core runs; standard with none (R252). -/
def taskCls (s : State) (c : Nat) : Cls :=
  match (getCore s c).task.map (·.cls) with
  | some 0 => .senior
  | some 2 => .junior
  | _ => .standard

/-- Partition stamp of a core's packets (R271); an unowned core has none of the stamps of R457, and is admitted nowhere. -/
def coreStamp (s : State) (c : Nat) : Nat := (corePart s c).getD 60

/-- Packets that carry a run of bytes from a first granule, at most 8 flits of 512 bytes each (R249). -/
def dataPackets (p : Packet) (granule : Nat) (data : List Byte) : List Packet :=
  ((chunks 4096 data).zip (List.range (data.length / 4096 + 1))).map (fun x =>
    { p with len := (x.1.length + 511) / 512, addr := BitVec.ofNat 42 (granule + 64 * x.2), data := x.1 })

def sendAll (s : State) (t : PType) (ps : List Packet) : State := ps.foldl (fun s p => sendPkt s t p) s

/-- ERROR with a status, for the request that it refuses. -/
def sendError (s : State) (fromE : Nat) (p : Packet) (st : St) : State :=
  sendPkt s .error { mkPkt p.cls fromE p.src p.part p.addr.toNat st.code with index := p.index, gen := p.gen }

/-- ACK for n granules from the first. -/
def sendAck (s : State) (fromE toE part granule n : Nat) : State :=
  sendPkt s .ack (mkPkt .standard fromE toE part granule n)

/-- The status that a sink answers a request with (R31, R272). -/
def sinkStatus (s : State) (c : Nat) (p : Packet) : St :=
  let k := getCore s c
  let last := fun (gen : Nat) => p.gen.toNat == (gen + 255) % 256
  let drained := (p.wkind == 1#2 && ((tget k.wins p.index).map (fun w => !w.isOpen && w.drainClosed && last w.gen)).getD false) ||
    (p.wkind == 2#2 && ((tget k.rngs p.index).map (fun w => !w.isOpen && w.drainClosed && last w.gen)).getD false)
  if drained || coreFallow s c then .windowViolation else if k.resetting then .stageLost else .regionShed

/-- The sink absorbs a packet addressed to its core (R272). -/
def sinkAbsorb (s : State) (c : Nat) (t : PType) (p : Packet) : State :=
  let s := bump s .cnRtSink c 1
  if isReqPkt t then sendError (setEvent s .cnRtEvent c 3) c p (sinkStatus s c p) else s

/-- Keys, as those of free tokens, of the ring buffers of a core's window that granules g … g+n-1 lie in; none in a plain window (R161). -/
def ringKeys (s : State) (t index g n : Nat) : List Nat :=
  match tget (getCore s t).wins index with
  | none => []
  | some v =>
    let per := v.size / max 1 v.ring
    if v.ring = 0 ∨ n = 0 ∨ per = 0 ∨ g < v.base then []
    else (List.range ((g + n - 1 - v.base) / per - (g - v.base) / per + 1)).map (fun i => (t * 256 + index) * 8 + ((g - v.base) / per + i) % 8)

/-- A producer holds the turnout credit of each ring buffer, or its free token has come (R109, R165). -/
def ringCredit (k : Core) (keys : List Nat) : Bool := keys.all (fun x => k.owned.contains x || (tget k.ftok x).isSome)

/-- Take the free tokens of ring buffers not yet held. -/
def takeRing (k : Core) (keys : List Nat) : Core :=
  (keys.filter (fun x => !k.owned.contains x)).eraseDups.foldl (fun k x =>
    let n := tgetD k.ftok x 0
    { k with owned := k.owned ++ [x], ftok := if n ≤ 1 then tdel k.ftok x else tput k.ftok x (n - 1) }) k

/-- Units n … n+m-1 of a turnout-credit range are granted, or not for want of a grant alone refused (R107, R162). -/
def unitsCredit (s : State) (t index n m : Nat) : Bool :=
  match tget (getCore s t).rngs index with
  | none => true
  | some v =>
    let j := (n + min m v.units + 65536 - 1 - v.granted % 65536) % 65536
    !(v.isOpen && decide (j < v.units))

/-- Who writes into a window. -/
inductive WSrc where
  | core (c : Nat) | conn (n : Nat) | comp | other
deriving DecidableEq, Repr

/-- Source of a canal write: a pool port writes on behalf of the core in aux bits 8:0 (Table CAN-3). -/
def srcOf (p : Packet) : WSrc :=
  if p.src < 240 then .core p.src
  else if p.src < 300 then .core (p.aux.toNat % 512)
  else if p.src = 392 then .comp
  else .other

/-- R159: the window's source field admits a writer. -/
def srcAdmits (s : State) (target kind id : Nat) (w : WSrc) : Bool :=
  match kind, w with
  | 0, .core c => c == id
  | 1, .core c => (corePart s c).isSome && corePart s c == corePart s target
  | 2, .conn n => n == id
  | 3, .comp => true
  | _, _ => false

/-- Admission of a remote write of n granules into a core's window or range: the scratchpad granule at
which it lands and the core's tables after it, or the refusal (R159-R163). -/
def admitWrite (s : State) (c : Nat) (w : WSrc) (wkind index gen unit gran n : Nat) (isAdd : Bool) :
    Except St (Nat × Core) :=
  let k := getCore s c
  match wkind with
  | 1 =>
    match tget k.wins index with
    | none => .error .windowViolation
    | some v =>
      if v.isOpen && v.gen == gen && (if isAdd then v.add else v.wr) && srcAdmits s c v.kind v.srcId w
          && decide (v.base ≤ gran) && decide (gran + n ≤ v.base + v.size) then
        .ok (gran, k)
      else .error .windowViolation
  | 2 =>
    match tget k.rngs index with
    | none => .error .windowViolation
    | some v =>
      if !v.isOpen || v.gen ≠ gen || isAdd || !v.wr || !srcAdmits s c v.kind v.srcId w then .error .windowViolation
      else
        let d := (v.granted + 65536 - unit % 65536) % 65536
        if d < 1 ∨ d > v.units ∨ gran + n > 2 ^ v.unitLog then .error .creditExhausted
        else
          .ok (v.base + ((v.granted + 65536 * v.units - d) % v.units) * 2 ^ v.unitLog + gran,
            { k with rngs := tput k.rngs index { v with admitted := v.admitted + (if gran = 0 then 1 else 0) } })
  | _ => .error .windowViolation

/-- Ring buffer of a window that a granule lies in (R161). -/
def bufferOf (s : State) (c wkind index gran : Nat) : Option (Nat × Nat) :=
  if wkind = 1 then (tget (getCore s c).wins index).map (fun v =>
    (index, if v.ring = 0 then 0 else (gran - v.base) / (v.size / v.ring)))
  else none

/-- Count a refused remote write at its target (R164). -/
def countRefused (s : State) (c : Nat) (st : St) : State :=
  setEvent (bump s (if st = .creditExhausted then .bsSpCredRefused else .bsSpWinRefused) c 1) .bsSpEvent c 2

/-- Land whole granules of an unscheduled write from a scratchpad offset, for a ring buffer of a window (R142, R161). -/
def landBytes (s : State) (c off : Nat) (bs : List Byte) (buf : Nat → Option (Nat × Nat) := fun _ => none) : State :=
  ((chunks 64 bs).zip (List.range (bs.length / 64 + 1))).foldl (fun s p =>
    let o := off / 64 * 64 + 64 * p.2
    bankWrite (meterCore s c 7 1) ((spadBase c + o) / 64) (if p.1.length = 64 then p.1
      else p.1 ++ mreads s.mem (spadBase c + o + p.1.length) (64 - p.1.length)) (buf (o / 64))) s

/-- Stamps that a core's scratchpad admits: its owner, the companion and the headgate (R458). -/
def stampOk (s : State) (c part : Nat) : Bool := part == 62 || part == 63 || corePart s c == some part

/-- One core receives a plain write (R159, R164). -/
def coreWrite (s : State) (c : Nat) (p : Packet) : State :=
  if sinkActive s c then sinkAbsorb s c .write p
  else
    let off := p.addr.toNat * 64 - spadBase c
    let gran := if p.wkind = 2#2 then p.addr.toNat % 2 ^ ((tget (getCore s c).rngs p.index).map (·.unitLog)).getD 0
      else if p.mcast = 0#2 then off / 64 else p.addr.toNat
    let n := (p.data.length + 63) / 64
    match (if stampOk s c p.part && decide (gran + n ≤ spadBytes / 64) then
        admitWrite s c (srcOf p) p.wkind.toNat p.index p.gen.toNat p.aux.toNat gran n false
      else .error .windowViolation) with
    | .error st => sendError (countRefused s c st) c p st
    | .ok (at_, k) => sendAck (landBytes (setCore s c k) c (at_ * 64) p.data (bufferOf s c p.wkind.toNat p.index)) c p.src p.part p.addr.toNat n

/-- Deliver a refusal or a loss to the core whose task sent the write (R164, R260). -/
def taskRefused (s : State) (c : Nat) (st : St) (granule : Nat) : State := endTaskSeq s c st granule

def padTo (n : Nat) (bs : List Byte) : List Byte := (bs ++ List.replicate (n - bs.length) 0).take n

/-- The 2,048 bytes of a pattern-log entry, Table CHK-5. -/
def plogBytes (e : PEntry) : List Byte :=
  leBytes 2 e.seq ++ leBytes 2 e.unit ++ [BitVec.ofNat 8 (e.cls + 4 * e.twin + 8 * e.half + 32 * e.mode + 128 * b2n e.located),
    BitVec.ofNat 8 (e.wfmt + 16 * e.xfmt), BitVec.ofNat 8 e.cube] ++ leBytes 2 (e.row + 512 * e.col) ++ leBytes 2 e.pass ++
  leBytes 2 e.region ++ leBytes 6 e.count ++ leBytes 4 e.entering.toNat ++ leBytes 4 e.observed.toNat ++ leBytes 4 e.expected.toNat ++
  padTo 33 [] ++ padTo 256 e.acts ++ padTo 512 e.weights ++ padTo 64 e.blocks ++ padTo 1152 []

/-- Entry that a new pattern-log entry replaces when all 64 stand: the oldest that names a fallow core, else the oldest (R237). -/
def plogPut (s : State) (e : PEntry) : State :=
  let h := s.head
  let keep := if h.plog.length < 64 then h.plog
    else match h.plog.find? (fun x => x.cls ≠ 2 && coreFallow s x.unit) with
      | some x => eraseFirst x h.plog
      | none => h.plog.tail
  let e := { e with seq := h.plogNext % 65536 }
  telemeter { s with head := { h with plog := keep ++ [e], plogNext := h.plogNext + 1 } } 2 e.region none (plogBytes e)

/-- A header-only entry (R238). -/
def plogHeader (unit cls region count wfmt xfmt : Nat) : PEntry :=
  { seq := 0, unit := unit, cls := cls, twin := 0, half := 0, mode := 0, located := false, wfmt := wfmt, xfmt := xfmt,
    cube := 0xFF, row := 0, col := 0, pass := 0, region := region, count := count, entering := 0, observed := 0,
    expected := 0, acts := [], weights := [], blocks := [] }

/-- A transient of a core, or of block 256 + field × 32 + block (R184, R240): the sixteenth within 24 h of headgate time is a suspect
event and consumes the sixteen. -/
def noteTransient (s : State) (unit : Nat) : State :=
  let now := hgNow s
  let l := (tgetD s.head.transients unit []).filter (fun t => now < t + hourCycles 24) ++ [now]
  if l.length ≥ 16 then addSuspect { s with head := { s.head with transients := tput s.head.transients unit [] } } unit
  else { s with head := { s.head with transients := tput s.head.transients unit l } }

/-- A failed engine repeat: a suspect event of the block and its pattern-log entry (R184, R191, R238, R240). -/
def engineSuspect (s : State) (b wfmt xfmt : Nat) : State :=
  let r := if b % 32 < 20 then coreRegion (coreOfSpad (b / 32) (b % 32)) else 60 + b / 32
  addSuspect (plogPut s (plogHeader b 2 r (getRegion s r).count wfmt xfmt)) (256 + b)

end Sys2Proof.Machine
end

