-- ==== Sys2Proof/Machine/Func.lean ====
section
/-!
DEFINITION. The functions of Tables VEC-2, ARR-4 and BWD-3.  The manual gives each one fixed procedure by its accuracy and its
special values, not by its bits: the special values are written out, square root is computed, and every other result is one of
the FP32 words within the stated number of units in the last place of the exact result, chosen by the open constant
`Config.func` or `Config.deriv`, the same for every unit that uses the function (log entry 7).
-/
namespace Sys2Proof.Machine

def tfnCode : TFn → Nat
  | .exp2 => 0 | .log2 => 1 | .exp => 2 | .log => 3 | .recip => 4 | .rsqrt => 5 | .sqrt => 6
  | .tanh => 7 | .sigmoid => 8 | .gelu => 9 | .silu => 10

/-- Special values of Table VEC-2; `none` where the procedure decides. -/
def tfnSpecial (f : TFn) (v : FV) : Option FV :=
  match v with
  | .nan => some .nan
  | .inf n =>
    match f with
    | .exp2 | .exp => some (if n then .num false 0 0 else .inf false)
    | .log2 | .log => if n then some .nan else none
    | .recip => some (.num n 0 0)
    | .rsqrt => some (if n then .nan else .num false 0 0)
    | .sqrt => some (if n then .nan else .inf false)
    | .tanh => some (.num n 1 0)
    | .sigmoid => some (if n then .num false 0 0 else .num false 1 0)
    | .gelu | .silu => some (if n then .num true 0 0 else .inf false)
  | .num n m _ =>
    match f with
    | .log2 | .log => if m = 0 then some (.inf true) else if n then some .nan else none
    | .recip => if m = 0 then some (.inf n) else none
    | .rsqrt => if m = 0 then some (.inf n) else if n then some .nan else none
    | .sqrt => some (fp32Sqrt v)
    | _ => none

/-! ### The exact results, in fixed point of 320 fractional bits -/

def fxOne : Nat := 2 ^ 320
/-- ln 2 and √(2/π), to 320 fractional bits. -/
def fxLn2 : Nat := 1480553391661173448385607439722553250922680800745876974795605978609098082859138712941075737848984
def fxRoot : Nat := 1704271078036369527640793026491347494927463643304879350637741155034799905963359738391626168040302

/-- A finite value in fixed point. -/
def FV.fx : FV → Int
  | .num n m e => let v : Int := if 0 ≤ e + 320 then ((m <<< (e + 320).toNat : Nat) : Int) else ((m >>> (-(e + 320)).toNat : Nat) : Int)
                  if n then -v else v
  | _ => 0

def ofFx (i : Int) : FV := FV.ofInt i (-320)

/-- Sum of the terms t, t·x/1, t·x²/2 … of the exponential series, from term i on. -/
def fxExpSum (x : Nat) : Nat → Nat → Nat → Nat
  | 0, _, _ => 0
  | fuel + 1, i, t => t + fxExpSum x fuel (i + 1) (t * x / 2 ^ 320 / (i + 1))

/-- e^x for a fixed-point x, as a mantissa of 320 fractional bits and a power of two. -/
def fxExp (x : Int) : FV :=
  let k := x / (fxLn2 : Int)
  .num false (fxExpSum (x - k * fxLn2).toNat 90 0 fxOne) (k - 320)

/-- Sum of w^(2i+1) / (2i+1). -/
def fxAtanhSum (w2 : Nat) : Nat → Nat → Nat → Nat
  | 0, _, _ => 0
  | fuel + 1, i, t => t / (2 * i + 1) + fxAtanhSum w2 fuel (i + 1) (t * w2 / 2 ^ 320)

/-- ln of a positive value m · 2^e. -/
def fxLn (m : Nat) (e : Int) : Int :=
  let l := Nat.log2 m
  let z := if l ≤ 320 then m <<< (320 - l) else m >>> (l - 320)
  let w := (z - fxOne) * 2 ^ 320 / (z + fxOne)
  (e + l) * fxLn2 + 2 * (fxAtanhSum (w * w / 2 ^ 320) 110 0 w : Nat)

/-- A value too small for any FP32 word but zero and its neighbours. -/
def tinyFV (n : Bool) : FV := .num n 1 (-400)

/-- e^x over every finite x. -/
def expFV (x : FV) : FV :=
  if (FV.num false 300 0).lt x then .num false 1 400
  else if x.lt (FV.num true 300 0) then tinyFV false
  else fxExp x.fx

/-- The quotient a/b in fixed point, of values in fixed point. -/
def fxDiv (a b : Int) : Int := if b = 0 then 0 else a * (fxOne : Int) / b
def fxMul (a b : Int) : Int := a * b / (fxOne : Int)

/-- 1/(1 + e^(-x)) in fixed point, for |x| below 300. -/
def fxSigmoid (x : Int) : Int := let t := (fxExp (if x < 0 then x else -x)).fx
                                 if x < 0 then fxDiv t (fxOne + t) else fxDiv fxOne (fxOne + t)

/-- √(2/π)·(x + 0.044715·x³), the argument of the tanh form of GELU, and its slope. -/
def fxGeluArg (x : Int) : Int := fxMul fxRoot (x + fxMul (fxMul x x) x * 44715 / 1000000)
def fxGeluSlope (x : Int) : Int := fxMul fxRoot (fxOne + fxMul x x * 134145 / 1000000)

/-- The exact result of a function of Table VEC-2 on a finite operand without a special value, to far more than its accuracy. -/
def tfnExact (f : TFn) (v : FV) : FV :=
  let n := v.isNeg
  let big := (FV.num false 150 0).lt v.abs
  match f with
  | .exp2 => if (FV.num false 300 0).lt v.abs then (if n then tinyFV false else .num false 1 400) else fxExp (fxMul v.fx fxLn2)
  | .exp => expFV v
  | .log => match v with
    | .num _ m e => ofFx (fxLn m e)
    | _ => .nan
  | .log2 => match v with
    | .num _ m e => ofFx (fxDiv (fxLn m e) fxLn2)
    | _ => .nan
  | .recip => match v with
    | .num _ m e => .num n (2 ^ (200 + Nat.log2 m) / m) (-e - (200 + Nat.log2 m : Nat))
    | _ => .nan
  | .rsqrt => match v with
    | .num _ m e => let o : Nat := if e % 2 = 0 then 0 else 1
                    .num false (isqrt (2 ^ 400 / (m * 2 ^ o))) (-200 - (e - o) / 2)
    | _ => .nan
  | .sqrt => fp32Sqrt v
  | .tanh =>
    if big then .num n 1 0
    else let t := (fxExp (2 * v.abs.fx)).fx
         let r := fxDiv (t - fxOne) (t + fxOne)
         ofFx (if n then -r else r)
  | .sigmoid => if big then (if n then tinyFV false else .num false 1 0) else ofFx (fxSigmoid v.fx)
  | .silu => if big then (if n then tinyFV true else v) else v.mul (ofFx (fxSigmoid v.fx))
  | .gelu => if (FV.num false 32 0).lt v.abs then (if n then tinyFV true else v) else v.mul (ofFx (fxSigmoid (2 * fxGeluArg v.fx)))

/-- FP32 words in the order of their values: k-th from zero, both zeros at 0. -/
def wordsAt (k : Int) : List W32 :=
  if k = 0 then [0, 0x80000000#32]
  else if 0x7F800000 < k.natAbs then []
  else [BitVec.ofNat 32 (k.natAbs + if k < 0 then 2 ^ 31 else 0)]

/-- The FP32 words within `u` units in the last place of y; an overflowing y has its infinity. -/
def nearWords (u : Nat) (y : FV) : List W32 :=
  let w := fp32Of y
  let k : Int := if w.getLsbD 31 then -((w.toNat % 2 ^ 31 : Nat) : Int) else (w.toNat : Int)
  let ulp : FV := .num false u (max y.log2 (-126) - 23)
  let near := fun (x : W32) => match fp32Val x with
    | .num a m e => !(ulp.lt ((FV.num a m e).add y.neg).abs)
    | _ => x == w
  ((List.range (2 * u + 1)).flatMap (fun (i : Nat) => wordsAt (k - (u : Int) + (i : Int)))).filter near

/-- One of the words that an accuracy admits, as an open constant picks. -/
def pickNear (u : Nat) (y : FV) (pick : W32) : FV :=
  let ws := nearWords u y
  fp32Val (ws.getD (pick.toNat % ws.length) (fp32Of y))

/-- Error bound of Table VEC-2, units in the last place. -/
def tfnBound : TFn → Nat
  | .exp2 | .log2 | .recip | .rsqrt => 1
  | .sqrt => 0
  | .exp | .log | .tanh | .sigmoid | .gelu | .silu => 2

/-- A function of Table VEC-2 on an FP32 value. The table states no result for a logarithm of +∞. -/
def tfn (f : TFn) (v : FV) : FV :=
  let pick := Config.func (tfnCode f) (fp32Of v)
  match tfnSpecial f v with
  | some r => r
  | none => if v.isFinite then pickNear (tfnBound f) (tfnExact f v) pick else fp32Val pick

/-- Division as R193 has it: the reciprocal times the numerator. -/
def recipMul (num den : FV) : FV := (num.mul (tfn .recip den)).toF32

def fadd (a b : FV) : FV := (a.add b).toF32
def fmul (a b : FV) : FV := (a.mul b).toF32
def fsub (a b : FV) : FV := (a.add b.neg).toF32

/-- min and max of R121: NaN if either is, +0 above −0. -/
def fmax2 (a b : FV) : FV :=
  if a.isNaN || b.isNaN then .nan
  else if a.lt b then b else if b.lt a then a else if a.isNeg then b else a

def fmin2 (a b : FV) : FV :=
  if a.isNaN || b.isNaN then .nan
  else if a.lt b then a else if b.lt a then b else if a.isNeg then a else b

/-- Functions of step 5 of the drain (Table ARR-4). -/
def drainFunc (f : Func) (slope lo hi : W32) (v : FV) : FV :=
  match f with
  | .identity => v
  | .relu => if v.isNaN then .nan else fmax2 v (.num false 0 0)
  | .leaky => if v.isNeg then fmul v (fp32Val slope) else v
  | .clamp => fmin2 (fmax2 v (fp32Val lo)) (fp32Val hi)
  | .gelu => tfn .gelu v
  | .silu => tfn .silu v
  | .sigmoid => tfn .sigmoid v
  | .tanh => tfn .tanh v

/-- The exact derivative of SiLU and of GELU at a finite z; the tails beyond the fixed point are 0 and 1. -/
def derivExact (f : Func) (z : FV) : FV :=
  let far := (FV.num false (if f = .gelu then 32 else 150) 0).lt z.abs
  if far then (if z.isNeg then tinyFV true else .num false 1 0)
  else
    let x := z.fx
    if f = .gelu then
      let p := fxSigmoid (2 * fxGeluArg x)
      ofFx (p + 2 * fxMul (fxMul x (fxMul p (fxOne - p))) (fxGeluSlope x))
    else
      let p := fxSigmoid x
      ofFx (fxMul p (fxOne + fxMul x (fxOne - p)))

/-- Derivative from an element side stream (Table BWD-3), within 2 units in the last place of the exact one. The table states
none of GELU and SiLU at an infinity or a NaN. -/
def derivElem (f : Func) (lo hi : W32) (y : FV) : FV :=
  let one : FV := .num false 1 0
  let near := fun (c : Nat) (x : FV) => if x.isFinite then pickNear 2 x (Config.deriv c (fp32Of y)) else x
  let curve := fun (c : Nat) => if y.isFinite then near c (derivExact f y) else fp32Val (Config.deriv c (fp32Of y))
  match f with
  | .clamp => if (fp32Val lo).lt y && y.lt (fp32Val hi) then one else .num false 0 0
  | .sigmoid => near 8 (y.mul (one.add y.neg))
  | .tanh => near 7 (one.add (y.mul y).neg)
  | .gelu => curve 9
  | .silu => curve 10
  | _ => one

/-- Tolerance of R231: form fast or bound, padded reduction length, terms, magnitude. -/
def tolerance (fast int : Bool) (k l : Nat) (a : FV) : FV :=
  if int then .num false 0 0
  else
    let g := (k + 31) / 32 + 2
    let tail : FV := .num false (k + l) (-149)
    if fast then ((FV.num false (8 * (g + l)) (-24)).mul a.abs).add tail
    else ((FV.num false (2 * g + l + 3) (-24)).mul a.abs).add tail

/-- One comparison of Table CHK-3 (R230): |c − r| ≤ τ, both non-finite passes, one fails. -/
def checkCompare (c r tau : FV) : Bool :=
  if !c.isFinite && !r.isFinite then true
  else if !c.isFinite || !r.isFinite then false
  else !(tau.lt (c.add r.neg).abs)

/-- FP32 sum in list order, nearest even at each addition. -/
def fsumSeq (l : List FV) : FV := l.foldl fadd (.num false 0 0)

/-- Quotient of R232 formed in FP32; the located index, unless it lies halfway between integers. -/
def locate (d dw : FV) (n : Nat) : Option Nat :=
  match fp32Div dw d with
  | .num neg m e =>
    -- twice the quotient, to see an exact half
    let two : Int := if 0 ≤ e + 1 then ((m <<< (e + 1).toNat : Nat) : Int) else ((m >>> (-(e + 1)).toNat : Nat) : Int)
    let exact := decide (0 ≤ e + 1) || decide (m % 2 ^ (-(e + 1)).toNat = 0)
    if neg then none
    else if exact && two % 2 = 1 then none
    else
      let q := ((two + 1) / 2 - 1).toNat
      if two < 1 then none else if q < n then some q else none
  | _ => none

end Sys2Proof.Machine
end

