-- ==== Sys2Proof/Machine/Furrow.lean ====
section
/-!
DEFINITION. Furrow (07_flume_furrow): ACC, AXPBY, SCATTER_ADD, MOMENTUM and ADAM, the rows they write,
their verdicts (R191) and their completion (R483).  An accepted request puts its parts behind those that wait at
their engines; a block reads and computes its next part when the rows before it have landed, each from the pending
value of its row (R189); FURROW_ROW_WRITE lands a row (log entry 78).
-/
namespace Sys2Proof.Machine

/-- Engine block of a basin granule: field × 32 + block (R133, R169). -/
def blockOf (g : Nat) : Option Nat :=
  match placeOf (g * 64) with
  | .spad c _ => some (coreField c * 32 + spadIndex c)
  | .pool f o => some (f * 32 + 20 + (o / 64 % 3072) / 256)
  | _ => none

/-- Register and copy of an engine counter: a scratchpad block's core, or a pool block's field (R198). -/
def engReg (b : Nat) (core field : Reg) : Reg × Nat :=
  if b % 32 < 20 then (core, coreOfSpad (b / 32) (b % 32)) else (field, b / 32)

def engBump (s : State) (b : Nat) (core field : Reg) (n : Nat) : State :=
  let r := engReg b core field
  bump s r.1 r.2 n

def engEvent (s : State) (b bit : Nat) : State :=
  let r := engReg b .bsEngEvent .fdEngEvent
  setEvent s r.1 r.2 bit

/-- A flume pass runs on a block (R196). -/
def flumeOn (s : State) (b : Nat) : Bool :=
  s.passes.any (fun e => e.2.st == .running &&
    match e.2.field with
    | some f => f == b / 32 && decide (20 ≤ b % 32)
    | none => b == coreField e.2.core * 32 + spadIndex e.2.core)

/-- Bytes of a granule as an engine sees them: the pending value of the row if there is one (R189). -/
def engineGranule (s : State) (g : Nat) : Fetched :=
  match blockOf g with
  | none => fetchGranule s g
  | some b =>
    match ((getBlock s b).rows.filter (fun r => r.granule == g)).getLast? with
    | some r => ⟨if r.silt then siltBytes else r.new, false, s⟩
    | none => fetchGranule s g

/-- Bytes a … a+n-1 as engines see them, whether any granule is silt, whether a correction ran. -/
def engineBytes (s : State) (a n : Nat) : List Byte × Bool × State :=
  if n = 0 then ([], false, s)
  else
    let cnt := (a + n - 1) / 64 - a / 64 + 1
    let r := (List.range cnt).foldl (fun (r : List Byte × Bool × State) i =>
      let x := engineGranule r.2.2 (a / 64 + i)
      (r.1 ++ x.bytes, r.2.1 || isSilt x.bytes, x.st)) (([] : List Byte), false, s)
    ((r.1.drop (a % 64)).take n, r.2.1, r.2.2)

/-- Change the record of a request. -/
def modReq (s : State) (id : Nat) (f : FuReq → FuReq) : State :=
  match tget s.furrow id with
  | none => s
  | some q => { s with furrow := tput s.furrow id (f q) }

/-- Append a pending row to its block and to its request. -/
def pushRow (s : State) (r : FuRow) : State :=
  match blockOf r.granule with
  | none => s
  | some b =>
    let bl := getBlock s b
    modReq (setBlock s b { bl with rows := bl.rows ++ [r] }) r.req (fun q => { q with left := q.left + 1 })

/-- First 64-byte-aligned address after an element area (R41). -/
def sfAfter (a : Nat) (f : Fmt) (n : Nat) : Nat := (a + elemBytes f n + 63) / 64 * 64

/-- Elements a … of a tensor as engines see them. -/
def engineElems (s : State) (f : Fmt) (total first n a : Nat) : List FV × Bool × State :=
  let w := fmtWidth f
  let lo := a + first * w / 8
  let r := engineBytes s lo ((n * w + 7) / 8)
  let es := unpackElems f n r.1
  if fmtBlock f = 0 then (decodeElems f es [], r.2.1, r.2.2)
  else
    let q := engineBytes r.2.2 (sfAfter a f total + first / fmtBlock f) ((n + fmtBlock f - 1) / fmtBlock f)
    (decodeElems f es (q.1.map (·.toNat)), r.2.1 || q.2.1, q.2.2)

/-- Draws of R188 for elements from an index. -/
def furrowDraws (seed : W64) (tag first n : Nat) : List Nat :=
  (List.range n).map (fun i => drawBits (seedLane seed ((first + i) / 64 % 2 ^ 24) tag ((first + i) % 64)))

/-- INT32 value of a decoded integer, modulo 2^32. -/
def intOf : FV → Int
  | .num n m e => alignTo n m e 0
  | _ => 0

def wrap32 (i : Int) : W32 := BitVec.ofInt 32 i

/-- First element of granule i of a run of elements of w bits: the element belongs to the granule in which its first bit lies (log entry 72). -/
def granFirst (w i : Nat) : Nat := (512 * i + w - 1) / w

/-- Write new values of elements first … into a target: one pending row per granule, with its verdict terms (R188, R191): α Σ s + β Σ t_old
in FP32.  `news` pairs each element's new value with the source and the old value that it comes from. -/
def furrowStore (s : State) (req : Nat) (f : Fmt) (c : Ctl) (seed : W64) (tag total first a : Nat)
    (al be : FV) (checked silt : Bool) (news : List (FV × FV × FV)) : State :=
  let int := f == .int32
  let cc := { c with fmt := f }
  let o := if f == .fp32 then ⟨[], news.map (fun x => (fp32Of x.1).toNat), .zero⟩
    else if int then ⟨[], news.map (fun x => (wrap32 (intOf x.1)).toNat), .zero⟩
    else convertRow cc ((news.map Prod.fst).zip (furrowDraws seed tag first news.length))
  let w := fmtWidth f
  let lo := a + first * w / 8
  let bytes := packElems f o.bits
  let mk := fun (s : State) (g : Nat) (new : List Byte) (xs : List (FV × FV × FV)) (chk : Bool) =>
    let old := engineGranule s g
    pushRow old.st ⟨req, g, new, silt || isSilt old.bytes, chk, int, xs.map (fun x => fp32Of x.1),
      if int then .num false 0 0 else fadd (fmul al (fsumSeq (xs.map (·.2.1)))) (fmul be (fsumSeq (xs.map (·.2.2))))⟩
  let s := (List.range ((bytes.length + 63) / 64)).foldl (fun s i =>
    let part := (bytes.drop (64 * i)).take 64
    let cur := (engineGranule s (lo / 64 + i)).bytes
    let new := part ++ cur.drop part.length
    mk s (lo / 64 + i) new ((news.drop (granFirst w i)).take (granFirst w (i + 1) - granFirst w i)) checked) s
  if o.fields.isEmpty then s
  else
    let sa := sfAfter a f total + first / fmtBlock f
    let fb := o.fields.map (BitVec.ofNat 8)
    let cur := (engineGranule s (sa / 64)).bytes
    let new := cur.take (sa % 64) ++ fb ++ cur.drop (sa % 64 + fb.length)
    mk s (sa / 64) (new.take 64) [] false

/-- A furrow request, decoded (Table FLU-4). -/
structure FuDesc where
  op : Nat
  tf : Option Fmt
  sf : Option Fmt
  af : Option Fmt
  auxCode : Nat
  ctl : Option Ctl
  count : Nat
  target : Nat
  operand : Nat
  rowLen : Nat
  nesterov : Bool
  tag : Nat
  alpha : W32
  beta : W32
  rows : Nat
  rsvd : Bool

def fuDesc (r : BitVec 256) : FuDesc :=
  { op := fld r 0 4, tf := fmtOfCode (fld r 4 4), sf := fmtOfCode (fld r 8 4), af := fmtOfCode (fld r 12 4),
    auxCode := fld r 12 4, ctl := ctlOf (BitVec.ofNat 8 (fld r 16 8)), count := fld r 24 20,
    target := 2 ^ 44 + fld r 44 38 * 64, operand := 2 ^ 44 + fld r 82 38 * 64, rowLen := fld r 120 4,
    nesterov := (fld r 124 1 == 1), tag := fld r 128 24, alpha := BitVec.ofNat 32 (fld r 160 32),
    beta := BitVec.ofNat 32 (fld r 192 32), rows := fld r 224 32,
    rsvd := fld r 125 3 != 0 || fld r 152 8 != 0 || (fld r 0 4 != 3 && fld r 224 32 != 0) }

/-- Formats that Table FLU-3 lists for an operation. -/
def fuFormats (d : FuDesc) : Bool :=
  match d.op, d.tf, d.sf with
  | 1, some .int32, some .int32 => d.auxCode == 0
  | 1, some t, some s => (t == .fp32 || t == .bf16 || t == .g12) && (s == .fp32 || s == t) && d.auxCode == 0
  | 2, some t, some s => (t == .fp32 || t == .bf16 || t == .g12) && (s == .fp32 || s == t) && d.auxCode == 0
  | 3, some .int32, some .int32 => d.auxCode == 0
  | 3, some t, some s => (t == .fp32 || t == .bf16) && (s == .fp32 || s == t) && d.auxCode == 0
  | 4, some t, some s => (t == .fp32 || t == .bf16) && (s == .fp32 || s == .bf16 || s == .g12) &&
      (d.auxCode == 1 || d.auxCode == 2)
  | 5, some t, some s => (t == .fp32 || t == .bf16) && (s == .fp32 || s == .bf16 || s == .g12) &&
      (d.auxCode == 1 || d.auxCode == 2)
  | _, _, _ => false

/-- Bytes of a request's target extent. -/
def fuExtent (d : FuDesc) : Nat :=
  match d.op with
  | 3 => d.rows * 2 ^ d.rowLen * 64
  | 4 | 5 => d.count * 64 * (d.tf.map fmtWidth).getD 8 / 8
  | _ => if d.tf = some .g12 then sfAfter d.target .g12 (d.count / 3 * 128) + d.count / 3 - d.target else d.count * 64

/-- Place of a target (R186, R306): refused in a 2-D range or a cache range, and outside the add rights of the partition. -/
def fuPlace (s : State) (c : Nat) (a n : Nat) : Except St Unit :=
  match placeOf a, placeOf (a + (n - 1)) with
  | .spad x o, .spad y o' =>
    if x ≠ c ∨ y ≠ c then .error .windowViolation
    else if (twoDOf s c).any (fun r => decide (r.off ≤ o') && decide (o < r.off + r.len)) then .error .configConflict
    else .ok ()
  | .pool f o, .pool f' o' =>
    match rangeOf s f o, rangeOf s f' o' with
    | some r, some r' =>
      if r.mode = 2 ∨ r'.mode = 2 then .error .configConflict
      else if f = f' ∧ r.first = r'.first ∧ some r.part = corePart s c then .ok () else .error .windowViolation
    | _, _ => .error .windowViolation
  | _, _ => .error .windowViolation

/-- Elements of the target of ACC and AXPBY, of one row of SCATTER_ADD, and of an optimizer's tensors. -/
def fuElems (d : FuDesc) : Nat :=
  match d.op with
  | 3 => 2 ^ d.rowLen * 512 / (d.tf.map fmtWidth).getD 8
  | 4 | 5 => 64 * d.count
  | _ => if d.tf = some .g12 then d.count / 3 * 128 else d.count * 512 / (d.tf.map fmtWidth).getD 8

/-- First source row of SCATTER_ADD: the granule boundary after the index list (R192). -/
def fuSrcBase (d : FuDesc) : Nat := (d.operand + 4 * d.count + 63) / 64 * 64

/-- Bytes of a request's operand: the source, the index list with the source rows, or the gradient. -/
def fuOperandBytes (d : FuDesc) : Nat :=
  let n := (d.sf.map (fun f => elemBytes f (fuElems d))).getD 0
  if d.op = 3 then fuSrcBase d - d.operand + (d.count - 1) * (2 ^ d.rowLen * 64) + n else n

/-- Bytes that a request writes: its target, or a moment of an optimizer. A refusal names them; SCATTER_ADD has its own (R192). -/
def fuTarget (s : State) (c op a n : Nat) : Except (St × Nat) Unit :=
  if securedWrite s c a n then .error (.windowViolation, a)
  else match fuPlace s c a n with
    | .ok () => .ok ()
    | .error st => .error (if op = 3 ∧ !(fuPlace s c a 1 matches .error .configConflict) then .badCommand else st, a)

/-- Checks before a request is accepted (R186, R192, R306, R308); a refusal names the address at fault. -/
def fuCheck (s : State) (c : Nat) (d : FuDesc) : Except (St × Nat) Unit :=
  if d.rsvd || !fuFormats d || d.ctl.isNone || d.count = 0 then .error (.badCommand, d.target)
  else if (d.op = 1 ∨ d.op = 2) ∧ d.tf = some .g12 ∧ d.count % 3 ≠ 0 then .error (.badCommand, d.target)
  else if d.op = 3 ∧ d.rows = 0 then .error (.badCommand, d.target)
  else match fuTarget s c d.op d.target (fuExtent d) with
    | .error e => .error e
    | .ok () => if taskAllows s c .rd d.operand (fuOperandBytes d) then .ok () else .error (.windowViolation, d.operand)

/-- Region of a block: its core's cluster, or its field. -/
def blockRegion (b : Nat) : Nat := if b % 32 < 20 then coreRegion (coreOfSpad (b / 32) (b % 32)) else 60 + b / 32

/-- A request of a core reaches its engines: the record that stood for it since its issue, or a new one. -/
def fuOpen (s : State) (q : FuReq) (granule : Nat) : Nat × State :=
  let on := (blockOf granule).any (flumeOn s)
  let wait := if on then (blockOf granule).map (fun b => (getRegion s (blockRegion b)).count) else none
  match s.furrow.find? (fun e => e.2.core == q.core && e.2.req == q.req && !e.2.arrived && !q.remote) with
  | some e => (e.1, modReq s e.1 (fun x => { x with arrived := true, data := q.data, waiting := wait, behind := on }))
  | none => (s.fresh, { s with fresh := s.fresh + 1, furrow := tput s.furrow s.fresh { q with arrived := true, waiting := wait, behind := on } })

/-- A request as its core issues it. -/
def FuReq.issued (s : State) (c : Nat) (req : BitVec 256) : FuReq :=
  { core := c, remote := false, req := req, seed := taskSeed s c, data := [], arrived := false, waiting := none, behind := false,
    left := 0, oob := false, siltIdx := none }

/-- The request is a remote one at a block: of a core that is not the block's own (R196). -/
def fuForeign (s : State) (b id : Nat) : Bool := decide (20 ≤ b % 32) || ((tget s.furrow id).map (·.remote)).getD false

/-- Put a part of a request behind those that wait at its block: parts of the block's own core go before remote ones (R196). -/
def pushOp (s : State) (o : FuOp) : State :=
  match blockOf (o.target / 64) with
  | none => s
  | some b =>
    let bl := getBlock s b
    let mine := bl.ops.takeWhile (fun x => !fuForeign s b x.req)
    let ops := if fuForeign s b o.req then bl.ops ++ [o] else mine ++ o :: bl.ops.drop mine.length
    modReq (setBlock s b { bl with ops := ops }) o.req (fun q => { q with left := q.left + 1 })

/-- New value of one element of ACC, AXPBY and SCATTER_ADD (R188): source x, old value t. -/
def axpbyElem (int : Bool) (al be : FV) (plain : Bool) (x t : FV) : FV :=
  if int then FV.ofInt (wrap32 (intOf x + intOf t)).toInt 0
  else if plain then fadd t x
  else fadd (fmul al x) (fmul be t)

/-- Element operations, for the owner of the target, and the rows read for them (Table PWR-3), on behalf of a core's task or of none. -/
def fuMeter (s : State) (c : Option Nat) (a n : Nat) (reads : List (Nat × Nat)) : State :=
  let s := meter s (match placeOf a with
    | .spad x _ => corePart s x
    | .pool f o => (rangeOf s f o).map (·.part)
    | _ => none) 4 n
  let s := match c with
    | some c => chargeTask s c 4 n
    | none => s
  reads.foldl (fun s r => meterRows s c (c.bind (corePart s)) false r.1 r.2) s

/-- Pool port through which a core reaches a pool: its own column's port in its own field, else the port
of the line (R153). -/
def poolPort (c f a : Nat) : Nat :=
  if f = coreField c then 240 + coreCluster c else 240 + f * 5 + a / 256 % 5

/-- Forget a request that has left its core and been refused. -/
def dropRequest (s : State) (c : Nat) (req : BitVec 256) : State :=
  match s.furrow.find? (fun e => e.2.core == c && e.2.req == req && !e.2.arrived) with
  | none => s
  | some e => { s with furrow := tdel s.furrow e.1 }

/-- A request's refusal ends the task's sequence: at once, or by the ERROR of the pool that received it (R164). -/
def fuRefuse (s : State) (q : FuReq) (st : St) (a : Nat) : State :=
  match placeOf (fuDesc q.req).target with
  | .pool f _ => sendPkt (dropRequest s q.core q.req) .error
      (mkPkt .standard (poolPort q.core f (fuDesc q.req).target) q.core (coreStamp s q.core) (a / 64) st.code)
  | _ => endTaskSeq s q.core st (a / 64)

/-- One element of MOMENTUM (R193): parameter, gradient, moment; scalars lr, mu, damp, wd, gscale. -/
def momentumElem (sc : List FV) (nest : Bool) (p g m : FV) : FV × FV :=
  let z : FV := .num false 0 0
  let lr := sc.getD 0 z
  let mu := sc.getD 1 z
  let damp := sc.getD 2 z
  let wd := sc.getD 3 z
  let gs := sc.getD 4 z
  let g1 := fmul g gs
  let g1 := fadd g1 (fmul wd p)
  let m := fadd (fmul mu m) (fmul (fsub (.num false 1 0) damp) g1)
  let d := if nest then fadd g1 (fmul mu m) else m
  (fsub p (fmul lr d), m)

/-- One element of ADAM (R193): scalars lr, b1, b2, eps, wd, gscale, c1, c2. -/
def adamElem (sc : List FV) (p g m v : FV) : FV × FV × FV :=
  let z : FV := .num false 0 0
  let one : FV := .num false 1 0
  let lr := sc.getD 0 z
  let b1 := sc.getD 1 z
  let b2 := sc.getD 2 z
  let eps := sc.getD 3 z
  let wd := sc.getD 4 z
  let g1 := fmul g (sc.getD 5 z)
  let m := fadd (fmul b1 m) (fmul (fsub one b1) g1)
  let v := fadd (fmul b2 v) (fmul (fsub one b2) (fmul g1 g1))
  let q := fmul (fmul m (sc.getD 6 z)) (tfn .recip (fadd (fp32Sqrt (fmul v (sc.getD 7 z))) eps))
  (fsub p (fmul lr (fadd q (fmul wd p))), m, v)

/-- R194: all tensors aligned to 256 bytes, bases equal modulo the bank period. -/
def fuAligned (as : List Nat) : Bool :=
  as.all (fun a => a % 256 == 0) &&
  match as with
  | [] => true
  | a :: _ => match placeOf a with
    | .spad _ o => as.all (fun b => match placeOf b with
      | .spad _ o' => o % 16384 == o' % 16384
      | _ => false)
    | .pool _ o => as.all (fun b => match placeOf b with
      | .pool _ o' => o % stripeBytes == o' % stripeBytes
      | _ => false)
    | _ => false

/-! ### A part is read and computed -/

/-- Elements of one group: a granule of the target, or a whole block of a G12 target (R188). -/
def fuPer (tf : Fmt) : Nat := if tf = .g12 then 128 else 512 / fmtWidth tf

/-- A request's parameter block: addresses of the moments and the scalars (Table FLU-4). -/
def fuParams (q : FuReq) (ns : Nat) : Nat × Nat × List FV :=
  (leNat (q.data.take 8), leNat ((q.data.drop 8).take 8),
   (chunks 4 ((q.data.drop 16).take (4 * ns))).map (fun b => fp32Val (w32 (leNat b))))

/-- A group of ACC or AXPBY: the source is in memory, or came with a remote add. -/
def fuLinear (s : State) (o : FuOp) (q : FuReq) (d : FuDesc) (tf sf : Fmt) (ctl : Ctl) (checked : Bool) : State :=
  let plain := d.op == 1
  let per := fuPer tf
  let total := fuElems d
  let first := per * o.group
  let one : FV := .num false 1 0
  let al := if plain then one else fp32Val d.alpha
  let be := if plain then one else fp32Val d.beta
  let t := engineElems s tf total first per d.target
  let x : List FV × Bool × State := if q.remote then
      ((((decodeElems sf (unpackElems sf total q.data) ((q.data.drop (sfAfter 0 sf total)).map (·.toNat))).drop first).take per),
        (chunks 64 q.data).any isSilt, t.2.2)
    else engineElems t.2.2 sf total first per d.operand
  let news := (x.1.zip t.1).map (fun p => (axpbyElem (tf == .int32) al be plain p.1 p.2, p.1, p.2))
  furrowStore x.2.2 o.req tf ctl q.seed d.tag total first d.target al be checked (t.2.1 || x.2.1) news

/-- A granule of a row that an entry of SCATTER_ADD updates (R192). -/
def fuScatterPart (s : State) (o : FuOp) (q : FuReq) (d : FuDesc) (tf sf : Fmt) (ctl : Ctl) (checked : Bool) : State :=
  let per := 512 / fmtWidth tf
  let perRow := 2 ^ d.rowLen * per
  let one : FV := .num false 1 0
  let al := fp32Val d.alpha
  let t := engineElems s tf per 0 per o.target
  let x := engineElems t.2.2 sf perRow (per * o.group) per o.source
  let news := (x.1.zip t.1).map (fun p => (axpbyElem (tf == .int32) al one false p.1 p.2, p.1, p.2))
  let e := (o.target - d.target) * 8 / fmtWidth tf
  furrowStore x.2.2 o.req tf ctl q.seed d.tag (e + per) e d.target al one checked (t.2.1 || x.2.1) news

/-- A chunk of 64 elements of MOMENTUM or ADAM (R193, R194). -/
def fuOptimPart (s : State) (o : FuOp) (q : FuReq) (d : FuDesc) (tf sf af : Fmt) (ctl : Ctl) : State :=
  let pr := fuParams q (if d.op = 4 then 5 else 8)
  let ma := pr.1
  let va := pr.2.1
  let sc := pr.2.2
  let n := 64 * d.count
  let i := 64 * o.group
  let psilt := isSilt q.data
  let one : FV := .num false 1 0
  let put := fun (s : State) (f : Fmt) (a : Nat) (silt : Bool) (vs : List FV) =>
    furrowStore s o.req f ctl q.seed d.tag n i a one one false silt (vs.map (fun x => (x, x, x)))
  let p := engineElems s tf n i 64 d.target
  let g := engineElems p.2.2 sf n i 64 d.operand
  let m := engineElems g.2.2 af n i 64 ma
  if d.op = 4 then
    let silt := psilt || p.2.1 || g.2.1 || m.2.1
    let r := (p.1.zip (g.1.zip m.1)).map (fun x => momentumElem sc d.nesterov x.1 x.2.1 x.2.2)
    put (put m.2.2 tf d.target silt (r.map Prod.fst)) af ma silt (r.map Prod.snd)
  else
    let v := engineElems m.2.2 af n i 64 va
    let silt := psilt || p.2.1 || g.2.1 || m.2.1 || v.2.1
    let r := (p.1.zip (g.1.zip (m.1.zip v.1))).map (fun x => adamElem sc x.1 x.2.1 x.2.2.1 x.2.2.2)
    put (put (put v.2.2 tf d.target silt (r.map Prod.fst)) af ma silt (r.map (·.2.1))) af va silt (r.map (·.2.2))

/-- Rows of a part and what they become. -/
def fuPart (s : State) (o : FuOp) (q : FuReq) : State :=
  let d := fuDesc q.req
  let checked := coreChecks s q.core
  match d.op, d.tf, d.sf, d.ctl with
  | 1, some tf, some sf, some ctl | 2, some tf, some sf, some ctl => fuLinear s o q d tf sf ctl checked
  | 3, some tf, some sf, some ctl => fuScatterPart s o q d tf sf ctl checked
  | _, some tf, some sf, some ctl => match d.af with
    | some af => fuOptimPart s o q d tf sf af ctl
    | none => s
  | _, _, _, _ => s

/-- The first granule of a part's row is accessed: rank 1 for the engine's own core and in a pool, where a SCATTER_ADD of the schedule
that meets another scheduled access is BANK_CONFLICT (R141, R192); a request of another core waits while its bank has a scheduled
access (Table BASIN-2). `none` where the part waits. -/
def fuTouch (s : State) (o : FuOp) (q : FuReq) : Option (State × Bool) :=
  let g := o.target / 64
  match unitOf g with
  | none => some (s, true)
  | some u =>
    let busy := (getBanks s u).touched.any (fun t => bankOf s t.granule == bankOf s g)
    match u with
    | .pool _ => some (touchBanks s u [(g, true)])
    | .spad _ =>
      if !busy then some (touchBanks s u [(g, true)])
      else if q.remote then none
      else if fld q.req 0 4 = 3 then some (bankConflict (touchBanks s u [(g, true)]).1 q.core, false)
      else some (s, true)

/-- A block whose rows have all landed reads its next part and computes it, unless flume has its engines (R170, R189, R196). The wait
behind flume ends with a request's first read. -/
def engineRead (s : State) (b : Nat) : State :=
  let bl := getBlock s b
  if !bl.rows.isEmpty || flumeOn s b then s
  else match bl.ops with
    | [] => s
    | o :: rest =>
      match tget s.furrow o.req with
      | none => setBlock s b { bl with ops := rest }
      | some q =>
        match fuTouch s o q with
        | none => s
        | some (s, ok) =>
          let s := modReq (setBlock s b { getBlock s b with ops := rest }) o.req (fun q => { q with left := q.left - 1, waiting := none })
          let s := match q.waiting with
            | none => s
            | some t =>
              let e := engReg b .bsFuWaitMax .fdFuWaitMax
              raiseReg s e.1 e.2 (min 8191 ((getRegion s (blockRegion b)).count - t))
          if ok then fuPart s o q else s

/-- Parts of a request go to their engines, in order. -/
def fuQueue (s : State) (os : List FuOp) : State :=
  let s := os.foldl pushOp s
  (os.filterMap (fun o => blockOf (o.target / 64))).eraseDups.foldl engineRead s

/-! ### Requests -/

/-- Groups of ACC and AXPBY. -/
def linearOps (id : Nat) (d : FuDesc) (tf : Fmt) : List FuOp :=
  (List.range (if tf = .g12 then d.count / 3 else d.count)).map (fun i => ⟨id, i, d.target + i * (if tf = .g12 then 192 else 64), 0⟩)

/-- ACC and AXPBY. -/
def fuAccAxpby (s : State) (q : FuReq) (d : FuDesc) (tf sf : Fmt) : State :=
  let o := fuOpen s q (d.target / 64)
  let total := fuElems d
  let s := fuMeter o.2 (some q.core) d.target total [(d.target, elemBytes tf total), (d.operand, elemBytes sf total)]
  fuQueue s (linearOps o.1 d tf)

/-- The request that a remote add stands for: its source travels in the packet, and it carries neither a tag nor a seed (R187, R188). -/
def addReq (owner target count : Nat) (tf sf : Fmt) (ctl : Byte) (data : List Byte) : FuReq :=
  { core := owner, remote := true, seed := 0, data := data, arrived := true, waiting := none, behind := false, left := 0, oob := false,
    siltIdx := none,
    req := BitVec.ofNat 256 (1 + 2 ^ 4 * fmtCode tf + 2 ^ 8 * fmtCode sf + 2 ^ 16 * ctl.toNat + 2 ^ 24 * count + 2 ^ 44 * (target / 64 % 2 ^ 38)) }

/-- A remote add. -/
def fuRemoteAdd (s : State) (owner target count : Nat) (tf sf : Fmt) (ctl : Byte) (data : List Byte) : State :=
  let q := addReq owner target count tf sf ctl data
  let d := fuDesc q.req
  let o := fuOpen s q (target / 64)
  fuQueue (fuMeter o.2 none target (fuElems d) [(target, elemBytes tf (fuElems d))]) (linearOps o.1 d tf)

/-- SCATTER_ADD reads its index list a row of 16 entries at a time before it applies them (R483); entries of a silted row are not applied,
and entries outside the target are skipped and counted (R192). -/
def fuScatter (s : State) (q : FuReq) (d : FuDesc) (sf : Fmt) : State :=
  let o := fuOpen s q (d.target / 64)
  let rowBytes := 2 ^ d.rowLen * 64
  let s := meterUse o.2 q.core false d.operand (4 * d.count)
  let x := ((granOffs d.operand (4 * d.count)).foldl (fun (acc : List (Nat × Int) × State) ga =>
    let ig := engineGranule acc.2 (ga / 64)
    if isSilt ig.bytes then (acc.1, modReq ig.st o.1 (fun q => { q with siltIdx := some (q.siltIdx.getD (ga / 64)) }))
    else
      let es := (List.range 16).filterMap (fun i =>
        let a := ga + 4 * i
        if d.operand ≤ a ∧ a < d.operand + 4 * d.count then
          some ((a - d.operand) / 4, signedOf 32 (leNat ((ig.bytes.drop (4 * i)).take 4))) else none)
      (acc.1 ++ es, ig.st)) (([] : List (Nat × Int)), s))
  let good : List (Nat × Int) := x.1.filter (fun e => decide (0 ≤ e.2) && decide (e.2 < d.rows))
  let skipped := x.1.length - good.length
  let s := if skipped = 0 then x.2
    else modReq (match blockOf (d.target / 64) with
      | none => x.2
      | some b => engBump x.2 b .bsFuIdxOob .fdFuIdxOob skipped) o.1 (fun q => { q with oob := true })
  let n := 2 ^ d.rowLen * (512 / (d.tf.map fmtWidth).getD 8)
  let s := good.foldl (fun (s : State) (e : Nat × Int) => fuMeter s (some q.core) d.target n
    [(d.target + e.2.toNat * rowBytes, rowBytes), (fuSrcBase d + e.1 * rowBytes, elemBytes sf n)]) s
  fuQueue s (good.flatMap (fun (e : Nat × Int) => (List.range (2 ^ d.rowLen)).map (fun (i : Nat) =>
    FuOp.mk o.1 i (d.target + e.2.toNat * rowBytes + 64 * i) (fuSrcBase d + e.1 * rowBytes))))

/-- Address of an optimiser's parameter block. -/
def fuBlockAddr (d : FuDesc) : Nat := d.alpha.toNat + 2 ^ 32 * (d.beta.toNat % 65536)

/-- MOMENTUM (op 4) and ADAM (op 5). Furrow addresses nothing outside the basin (R186). -/
def fuOptim (s : State) (q : FuReq) (d : FuDesc) (tf sf af : Fmt) : State :=
  let c := q.core
  let pa := fuBlockAddr d
  let pb := fetchBytes s pa 64
  let q := { q with data := pb.bytes }
  let pr := fuParams q (if d.op = 4 then 5 else 8)
  let ns := if d.op = 4 then 5 else 8
  let tensors := if d.op = 4 then [d.target, d.operand, pr.1] else [d.target, d.operand, pr.1, pr.2.1]
  let rsv := leNat (pb.bytes.drop (16 + 4 * ns)) != 0 || (d.op == 4 && pr.2.1 != 0)
  let moments := elemBytes af (64 * d.count)
  if pa / 2 ^ 44 ≠ 1 then fuRefuse s q .badCommand pa
  else if !taskAllows s c .rd pa 64 then fuRefuse s q .windowViolation pa
  else if rsv || !fuAligned tensors then fuRefuse s q .badCommand d.target
  else match (do fuTarget s c d.op pr.1 moments; if d.op = 4 then .ok () else fuTarget s c d.op pr.2.1 moments) with
    | .error e => fuRefuse s q e.1 e.2
    | .ok () =>
      let o := fuOpen pb.st q (d.target / 64)
      let n := 64 * d.count
      let s := fuMeter o.2 (some c) d.target n ((pa, 64) :: (d.target, elemBytes tf n) :: (d.operand, elemBytes sf n) ::
        (tensors.drop 2).map (fun a => (a, moments)))
      fuQueue s ((List.range d.count).map (fun i => ⟨o.1, i, d.target + i * (8 * fmtWidth tf), 0⟩))

/-- A request reaches its engines, as the operation that its command names. -/
def fuIssue (s : State) (q : FuReq) (op : Nat) : State :=
  let d := fuDesc q.req
  if d.op ≠ op then fuRefuse s q .badCommand d.target
  else match fuCheck s q.core d, d.tf, d.sf with
    | .ok (), some tf, some sf =>
      match op with
      | 1 | 2 => fuAccAxpby s q d tf sf
      | 3 => fuScatter s q d sf
      | _ => match d.af with
        | some af => fuOptim s q d tf sf af
        | none => fuRefuse s q .badCommand d.target
    | .error e, _, _ => fuRefuse s q e.1 e.2
    | _, _, _ => fuRefuse s q .badCommand d.target

/-- A core's schedule issues a request: to its own engines, or as ENGINE_REQ to the pool that holds the target; the core is held while its
injection port has no room (R257). -/
def fuStart (s : State) (c : Nat) (req : BitVec 256) (op : Nat) : State :=
  let a := (fuDesc req).target
  let q := FuReq.issued s c req
  match placeOf a with
  | .pool f _ =>
    let p := { mkPkt (taskCls s c) c (poolPort c f a) (coreStamp s c) 0 1 with len := 1, data := leBytes 32 req.toNat }
    if injectionFull s c (vcOf .engineReq p) then creditHold s c .injection
    else
      let s := releaseHold s c .injection
      sendPkt { s with fresh := s.fresh + 1, furrow := tput s.furrow s.fresh q } .engineReq p
  | _ => fuIssue s q op

/-- Engine that serves a granule: its block × 32 + engine (R133). -/
def engineOf (g : Nat) : Option Nat :=
  match placeOf (g * 64) with
  | .spad c o => some ((coreField c * 32 + spadIndex c) * 32 + o / 64 % 256 / 8)
  | .pool f o => some ((f * 32 + 20) * 32 + o / 64 % 3072 / 8)
  | _ => none

/-- The engine of a granule holds 16 remote requests (R196). -/
def engineFull (s : State) (g : Nat) : Bool :=
  match blockOf g, engineOf g with
  | some b, some e =>
    let bl := getBlock s b
    let rs := (bl.rows.filter (fun r => engineOf r.granule == some e)).map (·.req) ++
      (bl.ops.filter (fun o => engineOf (o.target / 64) == some e)).map (·.req)
    decide (16 ≤ ((rs.filter (fuForeign s b)).eraseDups).length)
  | _, _ => false

def execAcc (core : CoreId) (req : BitVec 256) (s : State) : Host.Outcome State Fault Refusal :=
  .next (if retryRuns s core [.injection] then fuStart s core req 1 else s)

def execAxpby (core : CoreId) (req : BitVec 256) (s : State) : Host.Outcome State Fault Refusal :=
  .next (if retryRuns s core [.injection] then fuStart s core req 2 else s)

def execScatterAdd (core : CoreId) (req : BitVec 256) (s : State) : Host.Outcome State Fault Refusal :=
  .next (if retryRuns s core [.injection] then fuStart s core req 3 else s)

def execMomentum (core : CoreId) (req : BitVec 256) (s : State) : Host.Outcome State Fault Refusal :=
  .next (if retryRuns s core [.injection] then fuStart s core req 4 else s)

def execAdam (core : CoreId) (req : BitVec 256) (s : State) : Host.Outcome State Fault Refusal :=
  .next (if retryRuns s core [.injection] then fuStart s core req 5 else s)

/-- Verdict of one row on its unrounded results, the first of them disturbed by `up` (R191, R231): K = 2, A the magnitudes of the results plus |r|. -/
def fuVerdict (r : FuRow) (up : W32) : Bool :=
  let vals := match r.newVals with
    | [] => []
    | v :: t => (v ^^^ up) :: t
  if r.integer then up == 0#32 || r.newVals.isEmpty
  else
    let ts := vals.map fp32Val
    checkCompare (fsumSeq ts) r.ref (tolerance true false 2 ts.length ((fsumSeq (ts.map FV.abs)).add r.ref.abs))

/-- The bytes that a row writes: in a 32-bit format a passing disturbance lands with the first element (log entry 14). -/
def fuBytes (r : FuRow) (up : W32) : List Byte :=
  if r.silt then siltBytes
  else if r.newVals.length = 16 then leBytes 4 (leNat (r.new.take 4) ^^^ up.toNat) ++ r.new.drop 4
  else r.new

/-- Write the first pending row of a block (R189, R191, R197). -/
def furrowWrite (s : State) (b : Nat) (up1 up2 : W32) : State :=
  let bl := getBlock s b
  match bl.rows with
  | [] => s
  | r :: rest =>
    let s := setBlock s b { bl with rows := rest }
    let s := engBump s b .bsFuRows .fdFuRows 1
    let ok1 := !r.checked || r.silt || fuVerdict r up1
    let ok2 := fuVerdict r up2
    let s := if ok1 then s else engEvent (engBump s b .bsFuChkFail .fdFuChkFail (if ok2 then 1 else 2)) b 1
    let silt := r.silt || (!ok1 && !ok2)
    let s := if silt then engEvent s b 2 else s
    let s := if !ok1 && !ok2 then engineSuspect s b 0 0 else s
    let s := meterRows s ((tget s.furrow r.req).bind (fun q => if q.remote then none else some q.core)) none true (r.granule * 64) 64
    let s := putGranule s r.granule (if silt then siltBytes else fuBytes r (if ok1 then up1 else up2))
    modReq s r.req (fun q => { q with left := q.left - 1 })

/-- A row of a block lands, and the block reads its next part; nothing moves while flume has the engines (R189, R196). -/
def furrowLand (s : State) (b : Nat) (up1 up2 : W32) : State :=
  if flumeOn s b then s else engineRead (furrowWrite (engineRead s b) b up1 up2) b

def execFurrowRowWrite (field : FieldId) (block : Fin 32) (firstUpset secondUpset : W32) (s : State) :
    Host.Outcome State Fault Refusal :=
  .next (furrowLand s (field * 32 + block) firstUpset secondUpset)

/-- A request whose last write has landed completes (R483): the wait of its core ends; skipped entries
complete the task with BAD_COMMAND, a consumed index with POISON_CONSUMED (R192). -/
def furrowDone (s : State) (r : Nat) : State :=
  match tget s.furrow r with
  | none => s
  | some q =>
    if q.left ≠ 0 then s
    else
      let s := { s with furrow := tdel s.furrow r }
      let s := if q.remote then s else releaseHold s q.core .token
      match q.siltIdx with
      | some g => endTaskSeq s q.core .poisonConsumed g
      | none => if q.oob then endTaskSeq s q.core .badCommand 0 else s

def execFurrowRequestComplete (request : Nat) (s : State) : Host.Outcome State Fault Refusal :=
  .next (furrowDone s request)

end Sys2Proof.Machine
end

