-- ==== Sys2Proof/Machine/Macs.lean ====
section
/-!
DEFINITION. Multiply-accumulate of the arrays and of flume (R44, R61, R181), the checksum sums of Table
CHK-2.
-/
namespace Sys2Proof.Machine

/-- Exact sum of products, nothing rounded. -/
def dotExact (ps : List (FV × FV)) : FV := ps.foldl (fun t p => t.add (p.1.mul p.2)) (.num false 0 0)

/-- Accumulate products onto `acc`: groups of 32 reduction indices, each summed exactly and rounded once to
FP32, then added in order (R61); INT32 modulo 2^32 for integers (R44). -/
def dotAcc (int : Bool) (acc : FV) (ps : List (FV × FV)) : FV :=
  if int then FV.ofInt (wrap32 (intOf acc + ps.foldl (fun t p => t + intOf p.1 * intOf p.2) 0)).toInt 0
  else (chunks 32 ps).foldl (fun a g => fadd a (dotExact g).toF32) acc

def isInf : FV → Bool
  | .inf _ => true
  | _ => false

/-- The same, and whether an addition of the accumulator gave an infinity (Table ARR-5). -/
def dotAccEv (int : Bool) (acc : FV) (ps : List (FV × FV)) : FV × Bool :=
  if int then (dotAcc true acc ps, false)
  else (chunks 32 ps).foldl (fun a g => let v := fadd a.1 (dotExact g).toF32; (v, a.2 || isInf v)) (acc, false)

/-- Products of checksum rows are rounded to FP32 before they are summed (R72, R231). -/
def roundProducts (int : Bool) (ps : List (FV × FV)) : List (FV × FV) :=
  if int then ps else ps.map (fun p => (fmul p.1 p.2, .num false 1 0))

/-- Accumulator word of a value, and back. -/
def accWord (int : Bool) (v : FV) : W32 := if int then wrap32 (intOf v) else fp32Of v
def accVal (int : Bool) (w : W32) : FV := if int then FV.ofInt w.toInt 0 else fp32Val w

/-- A checksum value: an exact sum rounded once (R226). -/
def chkWord (int : Bool) (vs : List FV) : W32 := accWord int (vs.foldl FV.add (.num false 0 0))

/-- Weights 1, 2, 3 … of the weighted sums. -/
def weighted (vs : List FV) : List FV :=
  (vs.zip (List.range vs.length)).map (fun p => p.1.mul (.num false (p.2 + 1) 0))

/-- Sum in list order in FP32, or INT32 modulo 2^32 (R230). -/
def sumSeq (int : Bool) (vs : List FV) : FV :=
  if int then FV.ofInt (wrap32 (vs.foldl (fun t v => t + intOf v) 0)).toInt 0 else fsumSeq vs

/-- Weighted terms as a summing unit forms them: each product rounded. -/
def weightedF (int : Bool) (vs : List FV) : List FV :=
  (vs.zip (List.range vs.length)).map (fun p =>
    if int then FV.ofInt (intOf p.1 * (p.2 + 1)) 0 else fmul p.1 (.num false (p.2 + 1) 0))

end Sys2Proof.Machine
end

