-- ==== Sys2Proof/Machine/Flume.lean ====
section
/-!
DEFINITION. Flume (07_flume_furrow): where a pinned matrix lies in its banks (R172, R173), and the passes that read it, from their issue
to their verdict, their repeat (R184) and their completion.  How outputs are shared out among engines is log entry 10.
-/
namespace Sys2Proof.Machine

/-! ### The layout of a pinned matrix -/

/-- Weight rows that one block-field row serves (Table FLU-2). -/
def fieldEvery (f : Fmt) : Nat := if f = .mxfp4 then 16 else 32

/-- Rows of one output in its engine's stream, block-field rows included (Table FLU-2). -/
def pinRows (f : Fmt) (k : Nat) : Nat :=
  let w := k * fmtWidth f / 512
  if fmtBlock f = 0 then w else w + (w + fieldEvery f - 1) / fieldEvery f

/-- Rows of a checksum row. -/
def chkRows (k : Nat) : Nat := k / 16

/-- Outputs that a block's 32 engines hold in streams of l rows, two of them carrying a checksum row too (R173). -/
def blockHolds (r c l : Nat) : Nat := 30 * (l / r) + 2 * ((l - c) / r)

/-- Shortest longest stream of a block with a share of outputs (log entry 10). -/
def streamLen (r c share : Nat) : Nat := ((List.range 4097).find? (fun l => decide (c ≤ l) && decide (share ≤ blockHolds r c l))).getD 4096

/-- Longest stream of a segment of `cnt` outputs over nb blocks. -/
def segStream (f : Fmt) (k cnt nb : Nat) : Nat := streamLen (max 1 (pinRows f k)) (chkRows k) ((cnt + nb - 1) / nb)

/-- Stripes or slabs of a segment: eight rows of a stream in each. -/
def segUnits (f : Fmt) (k cnt nb : Nat) : Nat := (segStream f k cnt nb + 7) / 8

/-- Segments of a pinned matrix over nb blocks: outputs in each but the last, and stripes or slabs used (R172). -/
def pinShape (f : Fmt) (n k nb : Nat) : Nat × Nat :=
  let segOut := min n (nb * blockHolds (max 1 (pinRows f k)) (chkRows k) 4096)
  let segs := if segOut = 0 then 0 else (n + segOut - 1) / segOut
  (segOut, ((List.range segs).map (fun g => segUnits f k (min segOut (n - g * segOut)) nb)).sum)

/-- Formats that can be pinned (R171). -/
def pinFmt (code : Nat) : Option Fmt :=
  match fmtOfCode code with
  | some .e4m3 => some .e4m3 | some .e5m2 => some .e5m2 | some .int8 => some .int8 | some .mxint8 => some .mxint8
  | some .mxfp4 => some .mxfp4 | some .bf16 => some .bf16
  | _ => none

/-- Outputs of segment `g`: first and count. -/
def pinSegment (p : Pin) (g : Nat) : Nat × Nat := (g * p.segOut, min p.segOut (p.n - g * p.segOut))

/-- Outputs of a segment that block number `i` of its `n` blocks holds: contiguous runs, the longer first (log entry 10). -/
def pinShare (first count n i : Nat) : List Nat :=
  let q := count / n
  let r := count % n
  (List.range (q + b2n (i < r))).map (fun j => first + i * q + min i r + j)

/-- Bytes of one row of every bank that a destination covers: a stripe of a pool, a slab of a scratchpad. -/
def pinUnit (p : Pin) : Nat := if p.field.isSome then stripeBytes else 0x4000

/-- Address of an engine's j-th row of a segment: bank 8e + (j mod 8) of its block (R172). -/
def rowAddr (p : Pin) (f : Fmt) (g blk e j : Nat) : Nat :=
  let before := ((List.range g).map (fun i => segUnits f p.k (pinSegment p i).2 p.blocks.length)).sum
  let bank := (if p.field.isSome then 256 * (blk % 32 - 20) else 0) + 8 * e + j % 8
  p.base + (before + j / 8) * pinUnit p + 64 * bank

/-- Engine and first row of output n′ of a block in a segment: engines 0 and 1 hold the checksum rows after their outputs. -/
def outPlace (f : Fmt) (k l n : Nat) : Nat × Nat :=
  let r := max 1 (pinRows f k)
  let a := (l - chkRows k) / r
  let b := max 1 (l / r)
  if n < 2 * a then (n / max 1 a, n % max 1 a * r) else (2 + (n - 2 * a) / b, (n - 2 * a) % b * r)

/-- First row of the checksum row of engine 0 or 1. -/
def chkPlace (f : Fmt) (k l : Nat) : Nat := (l - chkRows k) / max 1 (pinRows f k) * max 1 (pinRows f k)

/-- The rows of an output: its weights in increasing K, each run of them followed by its block-field row (Table FLU-2). -/
def outputRows (f : Fmt) (data fields : List Byte) : List (List Byte) :=
  if fmtBlock f = 0 then chunks 64 data
  else ((chunks (64 * fieldEvery f) data).zip (chunks 64 fields)).flatMap (fun p => chunks 64 p.1 ++ [padTo 64 p.2])

/-- The weights that rows hold, and whether any row is silt (R197). -/
def rowsWeights (f : Fmt) (k : Nat) (rows : List (List Byte)) : List FV × Bool :=
  let runs := if fmtBlock f = 0 then [rows ++ [[]]] else chunks (fieldEvery f + 1) rows
  let data := (runs.map List.dropLast).flatten.flatten
  let fields := (runs.map (fun r => r.getLastD [])).flatten
  (decodeElems f (unpackElems f k data) (fields.map (·.toNat)), rows.any isSilt)

/-! ### Issue and queue -/

/-- Granules of an input vector, and of a vector's results (R177). -/
def vecGrans (k : Nat) (xf : Fmt) : Nat := (k * (fmtWidth xf / 8) + 63) / 64
def resGrans (outs : Nat) : Nat := (4 * outs + 63) / 64

def passVecs (d : BitVec 128) : Nat := fld d 24 2 + 1

/-- A flume pass descriptor (Table FLU-1) is well formed for an issuing core (R43, R171, R176); its inputs, and a scratchpad pass's
results, lie in the core's scratchpad (log entry 10). -/
def flumeOk (s : State) (c : Nat) (d : BitVec 128) : Bool :=
  match tget s.head.pins (fld d 0 16), fmtOfCode (fld d 26 4) with
  | some p, some xf =>
    let int := p.fmt == 0x9
    decide (fld d 16 8 < p.segs) && !p.lost && some p.part == corePart s c &&
    (match p.core, p.field with
      | some x, _ => x == c
      | none, some f => f == coreField c
      | none, none => false) &&
    (if int then xf == .int8 else xf == .e4m3 || xf == .e5m2 || xf == .bf16) &&
    fld d 30 2 == 0 && fld d 60 4 == 0 && fld d 83 1 == 0 && fld d 104 24 == 0 &&
    decide ((fld d 32 20 + passVecs d * vecGrans p.k xf) * 64 ≤ spadBytes) &&
    (p.field.isSome || decide ((fld d 84 20 + passVecs d * resGrans (pinSegment p (fld d 16 8)).2) * 64 ≤ spadBytes))
  | _, _ => false

/-- Region of a pass: the core's cluster, or the field. -/
def passRegion (p : Pass) : Nat := match p.field with
  | some f => 60 + f
  | none => coreRegion p.core

def isSenior (s : State) (i : Nat) : Bool := ((tget s.passes i).map (·.senior)).getD false

/-- Senior passes stand before others, each kind in order of arrival (R320). -/
def putSenior (s : State) (l : List Nat) (id : Nat) : List Nat :=
  if isSenior s id then l.takeWhile (isSenior s) ++ id :: l.dropWhile (isSenior s) else l ++ [id]

/-- A pass reaches pool control: it joins the queue of 8, or its core is credit-held at the full queue (R178). -/
def queuePass (s : State) (f : Nat) (p : Pass) : State :=
  let id := s.fresh
  let s := { s with fresh := id + 1, passes := tput s.passes id p }
  let fl := getField s f
  if fl.queue.length < 8 then setField s f { fl with queue := putSenior s fl.queue id }
  else creditHold (setField s f { fl with outside := putSenior s fl.outside id }) p.core .passQueue

/-- Bytes of a pass's input vectors. -/
def passInput (d : BitVec 128) (k : Nat) (xf : Fmt) : Nat × Nat := (fld d 32 20 * 64, passVecs d * vecGrans k xf * 64)

/-- A scratchpad pass begins: its buffer fills at 512 B a cycle by scheduled reads (R178, R179). -/
def issueSpad (s : State) (c : Nat) (d : BitVec 128) (sen : Bool) (m : Pin) (xf : Fmt) : State :=
  let i := passInput d m.k xf
  let r := schedCycles s c (chunks 8 ((granOffs i.1 i.2).map (fun o => ((spadBase c + o) / 64, false))))
  if r.2 then
    { r.1 with fresh := r.1.fresh + 1,
               passes := tput r.1.passes r.1.fresh ⟨c, none, d, sen, .filling, [], [], 0, [], 0, 0, 0⟩ }
  else r.1

/-- A pool pass leaves its core: the descriptor as ENGINE_REQ, and behind it the input vectors by the core's DMA engine (R178). -/
def issuePool (s : State) (c : Nat) (d : BitVec 128) (m : Pin) (xf : Fmt) : State :=
  let p := { mkPkt (taskCls s c) c (240 + coreCluster c) (coreStamp s c) 0 0 with len := 1, data := leBytes 16 d.toNat }
  if injectionFull s c (vcOf .engineReq p) then creditHold s c .injection
  else
    let s := releaseHold s c .injection
    let i := passInput d m.k xf
    let s := (granOffs i.1 i.2).foldl (fun s o => noteRead s ((spadBase c + o) / 64)) s
    let r := fetchBytes (meterCore s c 6 ((i.2 + 63) / 64)) (spadBase c + i.1) i.2
    let s := modCore r.st c (fun k => { k with vectors := k.vectors ++ [(d, r.bytes)] })
    sendPkt (setEventIf ((chunks 64 r.bytes).any isSilt) s .bsSpEvent c 3) .engineReq p

/-- A core issues a pass (R178): to its own engines, or to its field's pool. -/
def flumeIssue (s : State) (c : Nat) (d : BitVec 128) : State :=
  if (tget s.head.pins (fld d 0 16)).any (fun p => p.lost && some p.part == corePart s c && p.field.any (poolGone s)) then endTaskSeq s c .regionShed 0
  else if !flumeOk s c d then endTaskSeq s c .badCommand 0
  else match tget s.head.pins (fld d 0 16), fmtOfCode (fld d 26 4) with
    | some m, some xf =>
      if m.field.isSome then issuePool s c d m xf else issueSpad s c d (taskCls s c == .senior) m xf
    | _, _ => s

def execFlumePassIssue (core : CoreId) (desc : BitVec 128) (s : State) : Host.Outcome State Fault Refusal :=
  .next (if retryRuns s core [.injection] then flumeIssue s core desc else s)

/-- A field's pool serves: its domain is powered, its region runs and it is not dark (R134). -/
def poolLive (s : State) (f : Nat) : Bool :=
  let r := getRegion s (60 + f)
  r.powered && r.out && !fieldDark s f && !poolWithheld s f && !(getField s f).withheld

/-- The first pass outside the full queue enters it, and its core runs on (R178). -/
def enterQueue (s : State) (f : Nat) : State :=
  let fl := getField s f
  match fl.outside with
  | [] => s
  | id :: rest =>
    if 8 ≤ fl.queue.length then s
    else
      let s := setField s f { fl with queue := putSenior s fl.queue id, outside := rest }
      match tget s.passes id with
      | none => s
      | some p => if rest.any (fun i => ((tget s.passes i).map (·.core)) == some p.core) then s else releaseHold s p.core .passQueue

/-- Start the first queued pass: its buffers fill once those of the pass before are idle, after that pass's last row read (R178, R179). -/
def flumeStart (s : State) (f : Nat) : State :=
  let fl := getField s f
  let busy := (fl.running.bind (fun i => tget s.passes i)).any (fun p => decide ((getRegion s (60 + f)).count < p.until_))
  match fl.queue, fl.filling with
  | id :: rest, none =>
    if busy then s
    else
      let s := setField s f { fl with queue := rest, filling := some id }
      let s : State := match tget s.passes id with
        | none => s
        | some p => { s with passes := tput s.passes id { p with st := .filling } }
      enterQueue s f
  | _, _ => s

def execFlumePassStart (field : FieldId) (s : State) : Host.Outcome State Fault Refusal :=
  .next (if poolLive s field then flumeStart s field else s)

/-! ### Rows and results -/

/-- Input vectors in a block's buffer, with the silt mark of each (R177, R197). -/
def bufferVecs (xf : Fmt) (k vecs : Nat) (buf : List Byte) : List (List FV × Bool) :=
  let st := vecGrans k xf * 64
  (List.range vecs).map (fun v =>
    let b := (buf.drop (v * st)).take st
    (decodeElems xf (unpackElems xf k b) [], (chunks 64 b).any isSilt))

/-- Rows read from their banks: the rows, the stream cycles in which the slow path ran (R180), the state. -/
structure RowRead where
  rows : List (List Byte)
  late : List Nat
  st : State

def readRows (s : State) (addr : Nat → Nat) (first n : Nat) : RowRead :=
  (List.range n).foldl (fun (r : RowRead) i =>
    let x := fetchGranule r.st (addr (first + i) / 64)
    ⟨r.rows ++ [x.bytes], if x.corrected then (first + i) :: r.late else r.late, x.st⟩) ⟨[], [], s⟩

/-- What a pass computes: results by vector × outputs + output, then the two checksum results of each block of each vector; the keys that
are silt; the cycles with a correction. -/
structure PassRun where
  res : Tab W32
  silt : List Nat
  late : List Nat
  st : State

/-- Key of checksum result q (0 or 1) of block number i, in a pass of `vecs` vectors over nb blocks. -/
def chkKey (vecs outs nb v i q : Nat) : Nat := vecs * outs + (v * nb + i) * 2 + q

/-- One output, or one checksum row, over every vector. -/
def runOutput (r : PassRun) (int : Bool) (w : List FV × Bool) (xs : List (List FV × Bool)) (key : Nat → Nat) : PassRun :=
  (xs.zip (List.range xs.length)).foldl (fun (r : PassRun) x =>
    { r with res := tput r.res (key x.2) (accWord int (dotAcc int (.num false 0 0) (x.1.1.zip w.1))),
             silt := if w.2 || x.1.2 then key x.2 :: r.silt else r.silt }) r

/-- The engines of a pass read their rows and accumulate (R172, R181, R197). -/
def flumeCompute (s : State) (m : Pin) (wf : Fmt) (g : Nat) (xs : List (List FV × Bool)) : PassRun :=
  let sg := pinSegment m g
  let nb := m.blocks.length
  let int := fmtIsInt wf
  let l := segStream wf m.k sg.2 nb
  (m.blocks.zip (List.range nb)).foldl (fun (r : PassRun) b =>
    let share := pinShare sg.1 sg.2 nb b.2
    let r := (share.zip (List.range share.length)).foldl (fun (r : PassRun) o =>
      let pl := outPlace wf m.k l o.2
      let x := readRows r.st (rowAddr m wf g b.1 pl.1) pl.2 (pinRows wf m.k)
      runOutput { r with st := x.st, late := x.late ++ r.late } int (rowsWeights wf m.k x.rows) xs (fun v => v * sg.2 + (o.1 - sg.1))) r
    if share.isEmpty then r
    else (List.range 2).foldl (fun (r : PassRun) q =>
      let x := readRows r.st (rowAddr m wf g b.1 q) (chkPlace wf m.k l) (chkRows m.k)
      let w := (chunks 4 x.rows.flatten).map (fun e => accVal int (w32 (leNat e)))
      runOutput { r with st := x.st, late := x.late ++ r.late } int (w, x.rows.any isSilt) xs (chkKey xs.length sg.2 nb · b.2 q)) r)
    ⟨[], [], [], s⟩

/-- Silt of a run: a block whose checksum row is silt has every result silt (R197). -/
def runSilt (m : Pin) (g : Nat) (vecs : Nat) (silt : List Nat) : List Nat :=
  let sg := pinSegment m g
  let nb := m.blocks.length
  (List.range (vecs * sg.2)).filter (fun key => silt.contains key ||
    (List.range nb).any (fun i => (pinShare sg.1 sg.2 nb i).contains (sg.1 + key % sg.2) &&
      (silt.contains (chkKey vecs sg.2 nb (key / sg.2) i 0) || silt.contains (chkKey vecs sg.2 nb (key / sg.2) i 1))))

/-- Rows and MACs of a run are counted (R179, R198, Tables FLU-2 and PWR-3). -/
def flumeMeter (s : State) (c : Nat) (m : Pin) (wf : Fmt) (g vecs : Nat) : State :=
  let sg := pinSegment m g
  let nb := m.blocks.length
  let held := ((List.range nb).filter (fun i => !(pinShare sg.1 sg.2 nb i).isEmpty)).length
  let rows := sg.2 * pinRows wf m.k + held * 2 * chkRows m.k
  let macs := (sg.2 + 2 * held) * m.k * vecs
  let s := match m.blocks with
    | [] => s
    | b :: _ => engBump s b .bsFlRows .fdFlRows rows
  let s := chargeTask (meter s (some m.part) 3 macs) c 3 macs
  chargeTask (meter s (some m.part) 6 rows) c 6 rows

/-- Rows of each engine of a block's stream, cycle by cycle: the scheduled reads of a scratchpad pass (R185). -/
def passCycles (m : Pin) (wf : Fmt) (g : Nat) : List (List (Nat × Bool)) :=
  let sg := pinSegment m g
  let nb := m.blocks.length
  let l := segStream wf m.k sg.2 nb
  let n := sg.2
  let r := pinRows wf m.k
  let used := fun (e j : Nat) =>
    (e < 2 && decide (chkPlace wf m.k l ≤ j) && decide (j < chkPlace wf m.k l + chkRows m.k)) ||
    (List.range n).any (fun o => let p := outPlace wf m.k l o; p.1 == e && decide (p.2 ≤ j) && decide (j < p.2 + r))
  match m.blocks with
  | [] => []
  | b :: _ => (List.range l).map (fun j => ((List.range 32).filter (used · j)).map (fun e => (rowAddr m wf g b e j / 64, false)))

/-- One run of a pass from its first row: the results stand, and a correction stops its engines for 6 cycles (R180). -/
def flumeRun (s : State) (id : Nat) (p : Pass) (m : Pin) (wf xf : Fmt) : State :=
  let g := fld p.desc 16 8
  let vecs := passVecs p.desc
  let buf := (m.blocks.head?.map (fun b => (getBlock s b).input)).getD []
  let r := flumeCompute s m wf g (bufferVecs xf m.k vecs buf)
  let late := r.late.eraseDups.length
  let s := flumeMeter r.st p.core m wf g vecs
  let s := if p.field.isNone ∧ late ≠ 0 then eccHold s p.core else s
  let stop := (getRegion s (passRegion p)).count + segStream wf m.k (pinSegment m g).2 m.blocks.length + (if p.field.isSome then 6 * late else 0)
  { s with passes := tput s.passes id { p with st := .running, res := r.res, siltOut := runSilt m g vecs r.silt, until_ := stop } }

/-- Furrow requests that waited behind a pass on these blocks are not all served (R196). -/
def behindOn (s : State) (bl : List Nat) : Bool :=
  s.furrow.any (fun e => e.2.behind && e.2.left ≠ 0 && (blockOf ((fuDesc e.2.req).target / 64)).any bl.contains)

/-- The bytes of a pass's input vectors: in its core's scratchpad, or those that its core's DMA engine has sent behind the descriptor. -/
def takeInput (s : State) (p : Pass) (m : Pin) (xf : Fmt) : Option (List Byte × State) :=
  match p.field with
  | none =>
    let i := passInput p.desc m.k xf
    let r := spadFetch s p.core i.1 i.2
    some (r.bytes, r.st)
  | some _ => match (getCore s p.core).vectors.find? (fun v => v.1 == p.desc) with
    | none => none
    | some v => some (v.2, modCore s p.core (fun k => { k with vectors := eraseFirst v k.vectors }))

/-- No pass has the engines of a pass's blocks, and the furrow requests that waited behind the one before are served (R178, R196). -/
def blocksIdle (s : State) (id : Nat) (p : Pass) (m : Pin) : Bool :=
  !behindOn s m.blocks &&
  (match p.field with
    | some f => (getField s f).running.isNone && (getField s f).filling == some id
    | none => !s.passes.any (fun e => e.1 ≠ id && e.2.core == p.core && e.2.field.isNone && e.2.st == .running))

/-- The buffers are filled, and the engines read their rows (R177-R181). -/
def flumeFill (s : State) (id : Nat) : State :=
  match tget s.passes id with
  | none => s
  | some p =>
    match tget s.head.pins (fld p.desc 0 16), fmtOfCode (fld p.desc 26 4) with
    | some m, some xf =>
      match fmtOfCode m.fmt with
      | none => s
      | some wf =>
        if p.st ≠ .filling ∨ !blocksIdle s id p m then s
        else match takeInput s p m xf with
          | none => s
          | some (buf, s) =>
            let s := m.blocks.foldl (fun s b => setBlock s b { getBlock s b with input := buf }) s
            match p.field with
            | some f => flumeRun (setField s f { getField s f with filling := none, running := some id }) id p m wf xf
            | none =>
              let r := schedCycles s p.core (passCycles m wf (fld p.desc 16 8))
              if r.2 then flumeRun r.1 id p m wf xf else r.1
    | _, _ => s

/-- Queued and filling passes of a scratchpad run while their core does; of a pool, while its region does. -/
def passRuns (s : State) (id : Nat) : Bool :=
  match tget s.passes id with
  | none => false
  | some p => match p.field with
    | none => coreLive s p.core && ((getCore s p.core).ecc == 0)
    | some f => poolLive s f

def execFlumeInputFilled (pass : Nat) (s : State) : Host.Outcome State Fault Refusal :=
  .next (if passRuns s pass then flumeFill s pass else s)

/-! ### Verdict and completion -/

/-- Verdict of one block over one vector (R183): Σ y and Σ (n′+1) y, accumulated in increasing n′, against the block's checksum outputs. -/
def flumeBlockOk (int : Bool) (k : Nat) (y : List FV) (rc rd : FV) : Bool :=
  let wt := weightedF int y
  checkCompare (sumSeq int y) rc (tolerance true int k y.length ((fsumSeq (y.map FV.abs)).add rc.abs)) &&
  checkCompare (sumSeq int wt) rd (tolerance true int k y.length ((fsumSeq (wt.map FV.abs)).add rd.abs))

/-- Granules of a vector's results: bytes with silted granules replaced (R177, R197). -/
def flumeBytes (res : Tab W32) (silt : List Nat) (v n : Nat) : List Byte :=
  (chunks 16 ((List.range n).map (fun o => v * n + o))).flatMap (fun g =>
    if g.any silt.contains then siltBytes else padTo 64 (g.flatMap (fun i => leBytes 4 (tgetD res i 0).toNat)))

/-- Write a pass's results: into its own scratchpad as scheduled writes, or as remote writes through the issuing core's port (R182). -/
def flumeWrite (s : State) (id : Nat) (p : Pass) (m : Pin) : State :=
  let n := (pinSegment m (fld p.desc 16 8)).2
  (List.range (passVecs p.desc)).foldl (fun s v =>
    let gr := fld p.desc 84 20 + v * resGrans n
    let bs := flumeBytes p.res p.siltOut v n
    match p.field with
    | none =>
      let a := spadBase p.core + gr * 64
      let r := schedTouch s p.core true (granOffs (gr * 64) bs.length)
      if r.2 then putBytes (meterUse r.1 p.core true a bs.length) a bs else r.1
    | some _ =>
      let t := fld p.desc 52 8
      let s : State := { s with passes := tmod s.passes id p (fun q => { q with sent := q.sent + bs.length }) }
      sendAll s .write (dataPackets { mkPkt (if p.senior then .senior else taskCls s p.core) (240 + coreCluster p.core) t m.part 0 p.core with
        index := fld p.desc 64 8, gen := BitVec.ofNat 8 (fld p.desc 72 8), wkind := 1#2 } (spadBase t / 64 + gr) bs)) s

/-- Blocks of a pass whose verdict fails over its results, with their shares; a vector with a silted word among a block's outputs forms no
verdict there (R183, R197, log entry 10). -/
def failedBlocks (m : Pin) (wf : Fmt) (g vecs : Nat) (res : Tab W32) (silt : List Nat) : List (Nat × List Nat) :=
  let sg := pinSegment m g
  let nb := m.blocks.length
  let int := fmtIsInt wf
  let val := fun (k : Nat) => accVal int (tgetD res k 0)
  ((m.blocks.zip (List.range nb)).filter (fun b =>
    let share := pinShare sg.1 sg.2 nb b.2
    !share.isEmpty && (List.range vecs).any (fun v =>
      let keys := share.map (fun o => v * sg.2 + (o - sg.1))
      !keys.any silt.contains &&
        !flumeBlockOk int m.k (keys.map val) (val (chkKey vecs sg.2 nb v b.2 0)) (val (chkKey vecs sg.2 nb v b.2 1))))).map
    (fun b => (b.1, pinShare sg.1 sg.2 nb b.2))

/-- A pass leaves its engines. -/
def freeEngines (s : State) (p : Pass) : State :=
  match p.field with
  | none => s
  | some f => setField s f { getField s f with running := none }

/-- Verdict of a pass's blocks over its results, disturbed by the physical faults `upset` (vector, output, pattern), with the repeat and
the silt of R184. -/
def flumeJudge (s : State) (id : Nat) (upset : List (Nat × Nat × W32)) : State :=
  match tget s.passes id with
  | none => s
  | some p =>
    match tget s.head.pins (fld p.desc 0 16), fmtOfCode (fld p.desc 26 4) with
    | some m, some xf =>
      match fmtOfCode m.fmt with
      | none => s
      | some wf =>
        if p.st ≠ .running then s
        else
          let g := fld p.desc 16 8
          let vecs := passVecs p.desc
          let sg := pinSegment m g
          let res := upset.foldl (fun t u => if u.2.1 < sg.2 ∧ u.1 < vecs then
              tput t (u.1 * sg.2 + u.2.1) (tgetD t (u.1 * sg.2 + u.2.1) 0 ^^^ u.2.2) else t) p.res
          let bad := if coreChecks s p.core then failedBlocks m wf g vecs res p.siltOut else []
          let s := bad.foldl (fun s b => engEvent (engBump s b.1 .bsFlChkFail .fdFlChkFail 1) b.1 0) s
          if bad.isEmpty then
            let s := if p.attempt = 0 then s else p.failed.foldl (fun s b => noteTransient s (256 + b)) s
            let q := { p with res := res, st := .verdictDue }
            freeEngines (flumeWrite { s with passes := tput s.passes id q } id q m) q
          else if p.attempt = 0 then
            let q := { p with res := res, attempt := 1, failed := bad.map Prod.fst }
            let s := flumeWrite { s with passes := tput s.passes id q } id q m
            let q := (tget s.passes id).getD q
            flumeRun s id q m wf xf
          else
            let silt := p.siltOut ++ (List.range vecs).flatMap (fun v => bad.flatMap (fun b => b.2.map (fun o => v * sg.2 + (o - sg.1))))
            let q := { p with res := res, siltOut := silt, st := .verdictDue, failed := bad.map Prod.fst }
            let s := bad.foldl (fun s b => engineSuspect s b.1 m.fmt (fmtCode xf)) s
            let s := (p.failed.filter (fun b => !bad.any (·.1 == b))).foldl (fun s b => noteTransient s (256 + b)) s
            freeEngines (flumeWrite { s with passes := tput s.passes id q } id q m) q
    | _, _ => s

def execFlumeVerdict (pass : Nat) (upset : List (Nat × Nat × W32)) (s : State) : Host.Outcome State Fault Refusal :=
  .next (if passRuns s pass then flumeJudge s pass upset else s)

/-- Forget a pinned matrix: an unpin waits for every pass that names the handle (R174). -/
def finishUnpin (s : State) (h : Nat) : State :=
  match tget s.head.pins h with
  | none => s
  | some m =>
    if m.unpin && !(s.passes.any (fun e => e.2.st ≠ .done && fld e.2.desc 0 16 == h)) then
      undefine { s with head := { s.head with pins := tdel s.head.pins h } } m.base (m.base + m.bytes)
    else s

/-- Passes that no longer run leave the queues and the engines; an unpin that waited for the last of them takes effect (R174). -/
def dropPasses (s : State) (gone : Nat → Pass → Bool) : State :=
  let out := s.passes.filter (fun e => gone e.1 e.2)
  let ids := out.map Prod.fst
  let keep := fun (o : Option Nat) => o.filter (fun i => !ids.contains i)
  let drop := fun (f : Field) =>
    { f with queue := f.queue.filter (fun i => !ids.contains i), outside := f.outside.filter (fun i => !ids.contains i),
             filling := keep f.filling, running := keep f.running }
  let s : State := { s with passes := s.passes.filter (fun e => !gone e.1 e.2), fields := s.fields.map (fun e => (e.1, drop e.2)) }
  (out.map (fun e => fld e.2.desc 0 16)).eraseDups.foldl finishUnpin s

/-- A pool pass that has completed is remembered until every result that it sent is acknowledged or refused (R182). -/
def forgetPass (s : State) (id : Nat) : State :=
  match tget s.passes id with
  | none => s
  | some p => if p.st = .done ∧ p.sent ≤ p.acked then { s with passes := tdel s.passes id } else s

/-- The pool pass of a field that wrote a result granule into a core's scratchpad. -/
def passOfResult (s : State) (f target granule : Nat) : Option (Nat × Pass) :=
  s.passes.find? (fun e => e.2.field == some f && fld e.2.desc 52 8 == target && decide (e.2.acked < e.2.sent) &&
    decide (spadBase target / 64 + fld e.2.desc 84 20 ≤ granule) && decide (granule < spadBase target / 64 + fld e.2.desc 84 20 + e.2.sent / 64))

/-- Results of a pool pass are acknowledged by their target. -/
def passAck (s : State) (f target granule n : Nat) : State :=
  match passOfResult s f target granule with
  | none => s
  | some (id, p) => forgetPass { s with passes := tput s.passes id { p with acked := p.acked + 64 * n } } id

/-- A refusal of a result completes the task of the core that issued the pass (R182). -/
def passRefused (s : State) (f target granule : Nat) (st : St) : State :=
  match passOfResult s f target granule with
  | none => s
  | some (id, p) => taskRefused (forgetPass { s with passes := tput s.passes id { p with acked := p.sent } } id) p.core st granule

/-- Completion of a pass after its verdict (R183): a pool pass sends the write token of its whole result
area; a scratchpad pass ends the wait of its core. -/
def flumeDone (s : State) (id : Nat) : State :=
  match tget s.passes id with
  | none => s
  | some p =>
    if p.st ≠ .verdictDue then s
    else
      let part := ((tget s.head.pins (fld p.desc 0 16)).map (·.part)).getD 63
      let b := match p.field with
        | some f => f * 32 + 20
        | none => coreField p.core * 32 + spadIndex p.core
      let s := engBump s b .bsFlPasses .fdFlPasses 1
      let s := if p.siltOut.isEmpty then s else engEvent s b 2
      let s := match p.field with
        | none => releaseHold { s with passes := tdel s.passes id } p.core .token
        | some _ => forgetPass (sendPkt { s with passes := tput s.passes id { p with st := .done } } .writeToken
            { mkPkt .standard (240 + coreCluster p.core) (fld p.desc 52 8) part p.sent
              (fld p.desc 80 3) with index := fld p.desc 64 8, gen := BitVec.ofNat 8 (fld p.desc 72 8) }) id
      finishUnpin s (fld p.desc 0 16)

def execFlumePassComplete (pass : Nat) (s : State) : Host.Outcome State Fault Refusal := .next (flumeDone s pass)

end Sys2Proof.Machine
end

