-- ==== Sys2Proof/Machine/Hbm.lean ====
section
/-!
DEFINITION. The HBM controllers (11_hbm_ecc_poison): reads, writes, refresh, the patrol scrubber and
correction write-backs, with the directory's snoops of the shared window (R337, Table HGM-3).
-/
namespace Sys2Proof.Machine

/-- The side's controllers run. -/
def sideLive (s : State) (side : Nat) : Bool := let r := getRegion s (72 + side); r.powered && r.out

def addrSide (s : State) (a : Nat) : Nat := (hbmDecode (mode1 s) a).1 / 6

/-- R458: an HBM port admits a stamp for a right over a range. -/
def portAdmits (s : State) (part : Nat) (r : Right) (a n : Nat) : Bool :=
  part == 63 || (part == 62 && inShared s a && inShared s (a + (n - 1))) || partAllows s part r a n

/-- Granules of a range are all served by a port (R278). -/
def portServes (s : State) (port a n : Nat) : Bool :=
  (List.range n).all (fun i => a + 64 * i < hbmTop && hbmPort (mode1 s) (a + 64 * i) == port)

/-- Directory state of a shared line: `none` is I. -/
def dirOfLine (s : State) (g : Nat) : Option DirSt := tget s.bv.dir g

/-- First granule of a range whose line the companion owns. -/
def firstOwned (s : State) (g n : Nat) : Option Nat :=
  (List.range n).map (g + ·) |>.find? (fun x => inShared s (x * 64) && dirOfLine s x == some .modified)

/-- Snoop a line (R337): the message sent and what waits on its answer. -/
def sendSnoop (s : State) (g : Nat) (inv : Bool) (what : SnoopFor) (core : Option Nat) : State :=
  let t := s.bv.nextTag
  let s := setBv s { s.bv with nextTag := (t + 1) % 2048, snoops := s.bv.snoops ++ [⟨g, t, what, core, hgNow s⟩] }
  let s := bvSend s (if inv then .snpInv t g else .snpData t g)
  match core with
  | some c => creditHold s c .snoop
  | none => s

/-- Lines of the window that a device write covers lose the companion's clean copies (Table HGM-3, "From S"). -/
def dropShared (s : State) (g n : Nat) : State :=
  (List.range n).foldl (fun s i =>
    if inShared s ((g + i) * 64) && dirOfLine s (g + i) == some .shared then
      sendSnoop (setBv s { s.bv with dir := tdel s.bv.dir (g + i) }) (g + i) true .probe none
    else s) s

/-- Data of n granules through the code. -/
def readGranules (s : State) (g n : Nat) : List Byte × State :=
  let r := fetchBytes s (g * 64) (64 * n)
  (r.bytes, r.st)

/-- READ_REPLY packets with data of consecutive granules. -/
def replyPackets (fromE toE part tag granule : Nat) (cls : Cls) (data : List Byte) : List Packet :=
  dataPackets (mkPkt cls fromE toE part 0 (tag * 64)) granule data

/-- A controller port serves a READ_REQ (R278, R279, R458). -/
def hbmServeRead (s : State) (p : Packet) : State :=
  let g := p.addr.toNat
  let n := p.aux.toNat % 64 + 1
  if !portServes s p.dst (g * 64) n then sendError s p.dst p .badCommand
  else if !portAdmits s p.part .rd (g * 64) (64 * n) then
    sendError { s with hbm := { s.hbm with refused := s.hbm.refused + 1 } } p.dst p .windowViolation
  else match firstOwned s g n with
    | some x => sendSnoop s x false (.read p) none
    | none =>
      let r := readGranules s g n
      sendAll (meter r.2 (if p.part < 60 then some p.part else none) 10 n) .readReply (replyPackets p.dst p.src p.part (p.aux.toNat / 64) g p.cls r.1)

/-- (line, field) pairs of cached copies, and of fills under way, that a write of n granules invalidates (R150). -/
def cachedPairs (s : State) (a n : Nat) : List (Nat × Nat) :=
  (List.range ((a + 64 * n - 1) / 256 - a / 256 + 1)).flatMap (fun i =>
    (List.range 12).filterMap (fun f =>
      if (getField s f).lines.any (fun l => l.line == a / 256 + i) || (getField s f).merges.any (fun m => m.line == a / 256 + i && m.fill) then some (a / 256 + i, f) else none))

/-- The pool port of a field through which requests of other units enter (R153). -/
def fieldPort (f line : Nat) : Nat := 240 + f * 5 + line % 5

/-- A controller port lands a WRITE and acknowledges it when every cached copy is invalidated (R150, R280). -/
def hbmLand (s : State) (p : Packet) : State :=
  let g := p.addr.toNat
  let n := p.data.length / 64
  let ps := cachedPairs s (g * 64) n
  let s := meter (putBytes (dropShared s g n) (g * 64) p.data) (if p.part < 60 then some p.part else none) 11 n
  if ps.isEmpty then sendAck s p.dst p.src p.part g n
  else
    let s := ps.foldl (fun s x => sendPkt s .inval (mkPkt .standard p.dst (fieldPort x.2 x.1) p.part (x.1 * 4) 0)) s
    { s with hbm := { s.hbm with invals := s.hbm.invals ++ [⟨p.dst, p.src, p.part, g, n, ps⟩] } }

/-- A controller port serves a WRITE (R278, R280, R337, R458). -/
def hbmServeWrite (s : State) (p : Packet) : State :=
  let g := p.addr.toNat
  let n := p.data.length / 64
  if n = 0 ∨ p.data.length % 64 ≠ 0 ∨ !portServes s p.dst (g * 64) n then sendError s p.dst p .badCommand
  else if !portAdmits s p.part .wr (g * 64) (64 * n) then
    sendError { s with hbm := { s.hbm with refused := s.hbm.refused + 1 } } p.dst p .windowViolation
  else match firstOwned s g n with
    | some x => sendSnoop s x true (.write p.data (some p)) none
    | none => hbmLand s p

/-- HBM_READ: a controller reads one word for a request; `upset` is the disturbance its stored bits have suffered. -/
def hbmReadOp (s : State) (a port part : Nat) (upset : List (Nat × Nat)) : State :=
  if !sideLive s (addrSide s a) ∨ a ≥ hbmTop then s
  else
    let s := disturb s (a / 64) upset
    if !portServes s port (a / 64 * 64) 1 then s
    else if !portAdmits s part .rd (a / 64 * 64) 64 then { s with hbm := { s.hbm with refused := s.hbm.refused + 1 } }
    else match firstOwned s (a / 64) 1 with
      | some x => sendSnoop s x false .probe none
      | none => meter (fetchGranule s (a / 64)).st (if part < 60 then some part else none) 10 1

def execHbmRead (addr : Addr) (port part : Nat) (upset : List (Nat × Nat)) (s : State) :
    Host.Outcome State Fault Refusal :=
  .next (hbmReadOp s addr.toNat port part upset)

/-- HBM_WRITE: whole aligned granules reach a controller's write queue (R280). -/
def hbmWriteOp (s : State) (a port part : Nat) (data : List Byte) : State :=
  let n := data.length / 64
  if a ≥ hbmTop ∨ !sideLive s (addrSide s a) ∨ a % 64 ≠ 0 ∨ data.length % 64 ≠ 0 ∨ n = 0 then s
  else if !portServes s port a n then s
  else if !portAdmits s part .wr a (64 * n) then { s with hbm := { s.hbm with refused := s.hbm.refused + 1 } }
  else match firstOwned s (a / 64) n with
    | some x => sendSnoop s x true (.write data (some { mkPkt .standard 393 port part (a / 64) 0 with data := data })) none
    | none => meter (hbmPut (dropShared s (a / 64) n) a data) (if part < 60 then some part else none) 11 n

def execHbmWrite (addr : Addr) (port part : Nat) (data : List Byte) (s : State) : Host.Outcome State Fault Refusal :=
  .next (hbmWriteOp s addr.toNat port part data)

/-- HBM_REFRESH: where refreshes fall is internal to the controller (R279); they are counted. -/
def execHbmRefresh (stack : StackId) (s : State) : Host.Outcome State Fault Refusal :=
  .next (if sideLive s (stack / 6) then
    { s with hbm := { s.hbm with refreshes := tmod s.hbm.refreshes stack 0 (· + 1) } } else s)

/-- A correction is written back, or dropped and counted when the word has been written since (R285). -/
def writeBack (s : State) (g : Nat) : State :=
  match tget s.backs g with
  | none => s
  | some b =>
    let s := { s with backs := tdel s.backs g }
    if b.stale then
      match placeOf (g * 64) with
      | .hbm a => setEvent (bump s .hbWbDrop (addrSide s a) 1) .hbEvent (addrSide s a) 1
      | _ => s
    else disturb s g b.pat

def execCorrectionWriteBack (granule : Nat) (s : State) : Host.Outcome State Fault Refusal := .next (writeBack s granule)

/-- Last granule of a side under the interleave in force: its patrol pass ends there (log entry 15). -/
def sideLast (m1 : Bool) (side : Nat) : Nat :=
  if m1 then (side + 1) * 0x3600000000 - 64 else (hbmTop / 4096 - 24 + 6 * side + 5) * 4096 + 4032

/-- A line's data through the code of its bank rows: `none` when some row is uncorrectable (R287). -/
def lineData (l : Line) : Option (List Byte × Bool) :=
  (List.range 4).foldl (fun r i =>
    match r with
    | none => none
    | some (bs, fixed) =>
      let pat := (l.upset.filter (fun e => e.1 / 36 == i)).map (fun e => (e.1 % 36, e.2))
      let g := (l.data.drop (64 * i)).take 64
      match eccDecode pat with
      | .fast => some (bs ++ patApply pat g, fixed)
      | .slow e => some (bs ++ patApply (patXor pat e) g, true)
      | .uncorrectable => none) (some ([], false))

/-- Disturb the stored rows of a cached line. -/
def upsetLine (l : Line) (g : Nat) (upset : List (Nat × Nat)) : Line :=
  { l with upset := l.upset ++ upset.map (fun e => (g % 4 * 36 + e.1, e.2)) }

/-- A patrol read of a row of a cache range: row `i` of the range is taken as row i mod 4 of its line number i div 4, latest first (the spec
places no line: DESIGN CHOICE, log entry 76). A line found uncorrectable is dropped (R287, R288). -/
def patrolLine (s : State) (f idx i : Nat) (upset : List (Nat × Nat)) : State :=
  let fl := getField s f
  match (fl.lines.filter (fun l => l.range = idx))[i / 4]? with
  | none => s
  | some l =>
    let l' := upsetLine l i upset
    let put := fun (s : State) (x : List Line) => setField s f { fl with lines := fl.lines.flatMap (fun y => if y = l then x else [y]) }
    let s := meter s none 6 1
    match lineData l' with
    | none => setEvent (bump (put s []) .bsEccCacheDrop f 1) .bsEccEvent f 1
    | some (bs, fixed) => if fixed then bump (put s [{ l' with data := bs, upset := [] }]) .bsEccCorr f 1 else put s [l']

/-- A patrol read (R288, R420): like any other read, unowned; the last word of a side or field ends its pass. -/
def patrol (s : State) (a : Nat) (upset : List (Nat × Nat)) : State :=
  let g := a / 64
  match placeOf a with
  | .hbm _ =>
    let side := addrSide s a
    if !sideLive s side then s
    else
      let s := meter (fetchGranule (disturb s g upset) g).st none 10 1
      if g * 64 = sideLast (mode1 s) side then setEvent (bump s .hbPatrol side 1) .hbEvent side 3 else s
  | .spad c _ =>
    if !(getRegion s (coreRegion c)).powered then s else meter (fetchGranule (disturb s g upset) g).st none 6 1
  | .pool f o =>
    let r := getRegion s (60 + f)
    if !r.powered || !r.out then s
    else
      let s := match (getField s f).ranges.find? (fun e => e.2.mode == 2 && decide (e.2.first * stripeBytes ≤ o) &&
          decide (o < (e.2.first + e.2.stripes) * stripeBytes)) with
        | some (i, v) => patrolLine s f i ((o - v.first * stripeBytes) / 64) upset
        | none => meter (fetchGranule (disturb s g upset) g).st none 6 1
      if o / 64 = poolBytes / 64 - 1 then setEvent s .bsEccEvent f 2 else s
  | _ => s

def execPatrolScrub (addr : Addr) (upset : List (Nat × Nat)) (s : State) : Host.Outcome State Fault Refusal :=
  .next (patrol s addr.toNat upset)

end Sys2Proof.Machine
end

