-- ==== Sys2Proof/Machine/Pool.lean ====
section
/-!
DEFINITION. The field pool as cache and as pinned store, with the confluence merge (R146-R157).
-/
namespace Sys2Proof.Machine

/-- The cache range of a field that serves an HBM address for a partition (R148). -/
def cacheRange (s : State) (f part a : Nat) : Option (Nat × PoolRange) :=
  (getField s f).ranges.find? (fun e => e.2.mode == 2 && e.2.part == part &&
    decide (e.2.hbmFirst ≤ a / 4096) && decide (a / 4096 ≤ e.2.hbmLast))

/-- Routers and links of a field are all live (R270). -/
def fieldWhole (s : State) (f : Nat) : Bool :=
  (fieldCores f).all (fun c => !routerWithdrawn s c && (List.range 4).all (fun d => !(getLink s c d).down))

/-- A target holds a receive credit: the crossing from its router has room for the reply (R156, R386; log entry 69). -/
def receiveCredit (s : State) (c : Nat) : Bool := !fifoFull s ((endCrossings c).map Prod.snd)

/-- A reply for a target may leave: no earlier read of the target waits, and it holds a credit (R156, R157). -/
def mayReply (s : State) (f c line : Nat) : Bool :=
  receiveCredit s c && (((getField s f).asked.find? (fun x => x.1 == c)).map Prod.snd).all (· == line)

def forgetRead (s : State) (f c line : Nat) : State :=
  let fl := getField s f
  setField s f { fl with asked := eraseFirst (c, line) fl.asked }

/-- Send a reply to targets that can take it: one field-mask multicast, or unicasts where a router or link is withdrawn (R155, R270, R271);
the others are held (R156, R157). -/
def mergeReply (s : State) (f line range part : Nat) (targets : List Nat) (data : List Byte) : State :=
  let port := fieldPort f line
  let p := { mkPkt .standard port f part (line * 4) 0 with len := 1, data := data }
  let now := (getRegion s (60 + f)).count
  let go := targets.filter (fun c => mayReply s f c line)
  let stay := targets.filter (fun c => !mayReply s f c line)
  let s := go.foldl (fun s c => forgetRead s f c line) s
  let fl := getField s f
  let s := setField s f { fl with held := fl.held ++ stay.map (fun c => ⟨c, line, part, range, data, now⟩) }
  if go.isEmpty then s
  else if fieldWhole s f then
    sendPkt s .readReply { p with mcast := 1#2, fmask := BitVec.ofNat 20 ((go.map (fun c => 2 ^ spadIndex c)).sum) }
  else sendAll s .readReply (go.map (fun c => { p with dst := c }))

/-- Replies that were held leave, in order, to the targets that can take them (R156). -/
def serveHeld (s : State) (f : Nat) : State :=
  (getField s f).held.foldl (fun s h =>
    if mayReply s f h.core h.line then
      let s := forgetRead s f h.core h.line
      let fl := getField s f
      let s := setField s f { fl with held := eraseFirst h fl.held }
      sendPkt s .readReply { mkPkt .standard (fieldPort f h.line) h.core h.part (h.line * 4) 0 with len := 1, data := h.data }
    else s) s

/-- Way replacement: the new line goes first; a 17th line of the set drops the least recently used (R149). -/
def putLine (r : PoolRange) (idx : Nat) (ls : List Line) (l : Line) : List Line :=
  let sets := 48 * r.stripes
  let rest := ls.filter (fun x => !(x.line == l.line && x.range == idx))
  let same := rest.filter (fun x => x.range == idx && x.line % sets == l.line % sets)
  match same[15]? with
  | some old => l :: eraseFirst old rest
  | none => l :: rest

/-- A merge that a core's read of a line can join (R155). -/
def openMerge (s : State) (f c line : Nat) : Option Merge :=
  (getField s f).merges.find? (fun m => m.line == line && !m.closed && decide (m.targets.length < 20) && !m.targets.contains c)

def joinMerge (s : State) (f c : Nat) (m : Merge) : State :=
  let fl := getField s f
  setField (bump s .bsPoolMerged f 1) f { fl with merges := fl.merges.map (fun x => if x = m then { x with targets := x.targets ++ [c] } else x) }

/-- A hit opens a merge, whose reply leaves 24 cycles later, or 30 with a correction (R154). -/
def hitMerge (s : State) (f c line idx : Nat) (slow : Bool) : State :=
  let fl := getField s f
  setField s f { fl with merges := fl.merges ++ [⟨line, [c], false, (getRegion s (60 + f)).count + (if slow then 30 else 24), idx, 0, [], false⟩] }

/-- A miss opens a merge and asks the HBM for the line, 128 bytes from each of two channels (R153, R277, R278). Where the core is already
a target of an open fill of the line, its second read shares that fill. -/
def missMerge (s : State) (f c part line idx : Nat) : State :=
  let fl := getField s f
  match fl.merges.find? (fun m => m.line == line && m.fill && !m.closed) with
  | some m => setField (bump s .bsPoolMerged f 1) f { fl with merges := fl.merges ++ [{ m with targets := [c] }] }
  | none =>
    let tag := s.fresh % 1024
    let s := setField { bump s .bsPoolMiss f 1 with fresh := s.fresh + 1 } f { fl with merges := fl.merges ++ [⟨line, [c], true, 0, idx, tag, [], false⟩] }
    sendAll s .readReq ((List.range 2).map (fun i =>
      { mkPkt .standard (fieldPort f line) (hbmPort (mode1 s) (line * 256 + 128 * i)) part (line * 4 + 2 * i) (1 + 64 * tag) with len := 0 }))

/-- Look a line up in a cache range: on a hit its data, whether a correction ran, and the line most recently used; a line that is
uncorrectable is dropped and counts as a miss (R149, R287). -/
def cacheLook (s : State) (f part idx line : Nat) : Option (List Byte × Bool) × State :=
  let fl := getField s f
  match fl.lines.find? (fun l => l.line = line ∧ l.range = idx) with
  | none => (none, s)
  | some l =>
    let rest := fl.lines.filter (fun x => x ≠ l)
    let s := meter s (some part) 6 4
    match lineData l with
    | none => (none, setEvent (bump (setField s f { fl with lines := rest }) .bsEccCacheDrop f 1) .bsEccEvent f 1)
    | some (bs, fixed) =>
      let s := if fixed then bump s .bsEccCorr f 1 else s
      (some (bs, fixed), bump (setField s f { fl with lines := (if fixed then { l with data := bs, upset := [] } else l) :: rest }) .bsPoolHit f 1)

/-- The slow path will run on a row (R283). -/
def slowRow (s : State) (g : Nat) : Bool :=
  match tget s.upset g with
  | none => false
  | some pat => match eccDecode pat with
    | .slow _ => true
    | _ => false

/-- A core's read of a pool line reaches pool control: a cached HBM line, or a line of a pinned range (R148-R155). -/
def poolReadOp (s : State) (c a : Nat) (upset : List (Nat × Nat)) : State :=
  let f := coreField c
  let line := a / 256
  match corePart s c with
  | none => s
  | some part =>
    match placeOf a with
    | .hbm _ =>
      match cacheRange s f part a with
      | none => s
      | some (idx, _) =>
        let fl := getField s f
        let s := setField s f { fl with lines := fl.lines.map (fun l => if l.line = line ∧ l.range = idx then upsetLine l (a / 64) upset else l) }
        match openMerge s f c line with
        | some m => joinMerge s f c m
        | none => match cacheLook s f part idx line with
          | (some (_, fixed), s) => hitMerge s f c line idx fixed
          | (none, s) => missMerge s f c part line idx
    | .pool pf o =>
      match rangeOf s pf o with
      | none => s
      | some r =>
        if pf ≠ f ∨ r.mode ≠ 1 ∨ r.part ≠ part then s
        else
          let s := disturb s (a / 64) upset
          match openMerge s f c line with
          | some m => joinMerge s f c m
          | none =>
            let s := (List.range 4).foldl (fun s i => noteRead s (line * 4 + i)) (meter s (some part) 6 4)
            hitMerge s f c line 16 ((List.range 4).any (fun i => slowRow s (line * 4 + i)))
    | _ => s

/-- A read of a core reaches pool control, in its order among that core's reads (R157). -/
def poolRead (s : State) (c a : Nat) (upset : List (Nat × Nat)) : State :=
  let f := coreField c
  let serves : Bool := match placeOf a with
    | .hbm _ => (corePart s c).any (fun p => (cacheRange s f p a).isSome)
    | .pool pf o => pf == f && (rangeOf s pf o).any (fun r => r.mode == 1 && corePart s c == some r.part)
    | _ => false
  if serves then
    let fl := getField s f
    poolReadOp (setField s f { fl with asked := fl.asked ++ [(c, a / 256)] }) c a upset
  else s

/-- A core's read reaches its pool port: one that its partition may not read ends the sequence (R308). -/
def poolReadStart (s : State) (c a : Nat) (upset : List (Nat × Nat)) : State :=
  if taskAllows s c .rd (a / 256 * 256) 256 then poolRead s c a upset else endTaskSeq s c .windowViolation (a / 64)

def execPoolRead (core : CoreId) (addr : Addr) (upset : List (Nat × Nat)) (s : State) :
    Host.Outcome State Fault Refusal :=
  .next (if poolLive s (coreField core) then poolReadStart s core addr.toNat upset
         else match placeOf addr.toNat with
           | .pool f _ => if poolGone s f && coreRuns s core then endTaskSeq s core .regionShed 0 else s
           | _ => s)

/-- Data of a merge's reply: a cached line, or a pinned line read from its bank. -/
def mergeData (s : State) (f : Nat) (m : Merge) : List Byte × State :=
  if m.range < 16 then
    match (getField s f).lines.find? (fun l => l.line = m.line ∧ l.range = m.range) with
    | some l => (((lineData l).map Prod.fst).getD l.data, s)
    | none => readGranules s (m.line * 4) 4
  else readGranules s (m.line * 4) 4

def mergePart (s : State) (f : Nat) (m : Merge) : Nat :=
  if m.range < 16 then ((tget (getField s f).ranges m.range).map (·.part)).getD 60
  else match placeOf (m.line * 256) with
    | .pool _ o => ((rangeOf s f o).map (·.part)).getD 60
    | _ => 60

/-- The reply of a merge leaves: the merge closes (R155, R156). -/
def mergeClose (s : State) (f : Nat) (m : Merge) : State :=
  let d := mergeData s f m
  let fl := getField d.2 f
  let s := setField d.2 f { fl with merges := eraseFirst m fl.merges }
  mergeReply s f m.line m.range (mergePart s f m) m.targets d.1

/-- A read of a fill's own: its request, or its reply. -/
def fillPacket (f line tag : Nat) (t : PType) (p : Packet) : Bool :=
  p.aux.toNat / 64 == tag && p.addr.toNat / 4 == line &&
  ((t = .readReq && p.src == fieldPort f line) || (t = .readReply && p.dst == fieldPort f line && p.mcast == 0#2))

/-- An HBM fill is whole (R149, R154, R155): the line is allocated, unless it has been invalidated, and the fill's merges are answered. -/
def fillDone (s : State) (f : Nat) (m : Merge) (data : List Byte) : State :=
  let part := mergePart s f m
  let fl := getField s f
  let ms := fl.merges.filter (fun x => x.fill && x.tag == m.tag && x.line == m.line)
  let s := setField s f { fl with merges := fl.merges.filter (fun x => !(x.fill && x.tag == m.tag && x.line == m.line)) }
  let s := match tget fl.ranges m.range with
    | some r =>
      if r.mode = 2 && !m.closed then
        let fl := getField s f
        setField (meter s (some r.part) 7 4) f { fl with lines := putLine r m.range fl.lines ⟨m.line, m.range, data, []⟩ }
      else s
    | none => s
  ms.foldl (fun s x => mergeReply s f m.line m.range part x.targets data) s

/-- CACHE_FILL_RETURN: what the HBM has still to send of the oldest fill of a line has come; its packets are no longer on the canal. -/
def fillReturn (s : State) (f line : Nat) : State :=
  match (getField s f).merges.find? (fun m => m.line == line && m.fill) with
  | none => s
  | some m =>
    let s := dropPackets s (fun t p => !fillPacket f line m.tag t p)
    let d := (List.range 4).foldl (fun (acc : List Byte × State) i =>
      match tget m.got (line * 4 + i) with
      | some bs => (acc.1 ++ bs, acc.2)
      | none => let x := readGranules acc.2 (line * 4 + i) 1; (acc.1 ++ x.1, meter x.2 (some (mergePart s f m)) 10 1)) ([], s)
    fillDone d.2 f m d.1

/-- Data of a fill reach the field's pool port as READ_REPLY. -/
def fillData (s : State) (f granule tag : Nat) (data : List Byte) : State :=
  let line := granule / 4
  let add := fun (m : Merge) =>
    if m.fill && m.line == line && m.tag == tag then
      { m with got := ((chunks 64 data).zip (List.range (data.length / 64 + 1))).foldl (fun t x => tput t (granule + x.2) x.1) m.got }
    else m
  let fl := getField s f
  let s := setField s f { fl with merges := fl.merges.map add }
  match (getField s f).merges.find? (fun m => m.line == line && m.fill && m.tag == tag) with
  | none => s
  | some m => if m.got.length = 4 then fillDone s f m (m.got.flatMap Prod.snd) else s

/-- The HBM refuses a fill: the targets' tasks end with its status. -/
def fillRefused (s : State) (f granule : Nat) (st : St) : State :=
  let fl := getField s f
  let ms := fl.merges.filter (fun m => m.fill && m.line == granule / 4)
  let s := setField s f { fl with merges := fl.merges.filter (fun m => !(m.fill && m.line == granule / 4)) }
  (ms.flatMap (·.targets)).foldl (fun s c => taskRefused (forgetRead s f c (granule / 4)) c st granule) s

def execCacheFillReturn (field : FieldId) (line : Nat) (s : State) : Host.Outcome State Fault Refusal :=
  .next (if poolLive s field then fillReturn s field line else s)

/-- A target that has been held without a receive credit for 256 cycles is split off: its read enters pool control anew (R156). -/
def splitTarget (s : State) (f line c : Nat) : State :=
  let fl := getField s f
  match fl.held.find? (fun h => h.core == c && h.line == line) with
  | none => s
  | some h =>
    if receiveCredit s c || decide ((getRegion s (60 + f)).count < h.since + 256) then s
    else poolReadOp (bump (setField s f { fl with held := eraseFirst h fl.held }) .bsPoolSplit f 1) c (line * 256) []

def execMergeTargetSplit (field : FieldId) (line : Nat) (target : CoreId) (s : State) : Host.Outcome State Fault Refusal :=
  .next (if poolLive s field && coreField target == field then splitTarget s field line target else s)

/-- A line that a core's DMA engine reads through its field's cache range (R148): from the cache, from an open fill that it joins, or from
the HBM, allocating it (R149). `none` where no range of the field serves it. -/
def cachedLine (s : State) (c line : Nat) : Option (List Byte × State) :=
  let f := coreField c
  match (corePart s c).bind (fun p => (cacheRange s f p (line * 256)).map (fun x => (p, x))) with
  | none => none
  | some (part, idx, r) =>
    if !poolLive s f then none
    else if (openMerge s f c line).isSome then
      let d := readGranules (bump s .bsPoolMerged f 1) (line * 4) 4
      some d
    else match cacheLook s f part idx line with
      | (some (bs, _), s) => some (bs, s)
      | (none, s) =>
        let d := readGranules (bump s .bsPoolMiss f 1) (line * 4) 4
        let fl := getField d.2 f
        some (d.1, setField (meter (meter d.2 (some part) 10 4) (some part) 7 4) f { fl with lines := putLine r idx fl.lines ⟨line, idx, d.1, []⟩ })

/-- A task of a partition runs in a field. -/
def partRunsIn (s : State) (part f : Nat) : Bool :=
  s.cores.any (fun e => coreField e.1 == f && e.2.task.isSome && corePart s e.1 == some part)

/-- Matrices pinned in a span of the basin lose their rows. -/
def losePins (s : State) (a n : Nat) : State :=
  { s with head := { s.head with pins := s.head.pins.map (fun e =>
    if decide (e.2.base < a + n) && decide (a < e.2.base + e.2.bytes) then (e.1, { e.2 with lost := true }) else e) } }

/-- A deferred change of a pool range takes effect once no task of its partition runs in the field (R152): cached lines are discarded, and a
pinned range's contents, matrices among them, become undefined. -/
def rangeChange (s : State) (f i : Nat) : State :=
  match tget (getField s f).ranges i with
  | none => s
  | some r =>
    match r.change with
    | none => s
    | some (mode, lo, hi) =>
      if partRunsIn s r.part f then s
      else
        let a := poolBase f + r.first * stripeBytes
        let n := r.stripes * stripeBytes
        let s := if r.mode = 1 then losePins (undefine s a (a + n)) a n else s
        let fl := getField s f
        let rs := if mode = 0 then tdel fl.ranges i
          else tput fl.ranges i { r with mode := mode, hbmFirst := lo, hbmLast := hi, change := none }
        setField s f { fl with ranges := rs, lines := fl.lines.filter (fun l => l.range ≠ i),
                               merges := fl.merges.map (fun m => if m.range = i then { m with closed := true } else m) }

def execPoolRangeChange (field : FieldId) (index : Nat) (s : State) : Host.Outcome State Fault Refusal :=
  .next (rangeChange s field index)

end Sys2Proof.Machine
end

