-- ==== Sys2Proof/Machine/Packets.lean ====
section
/-!
DEFINITION. Canal packets at their targets (10_canal, Table CAN-3): what each endpoint does with a packet
that reaches it, after the discard of R251 and the sink of R272.
-/
namespace Sys2Proof.Machine

def isPoolPort (e : Nat) : Bool := decide (240 ≤ e) && decide (e < 300)
def isHbmPort (e : Nat) : Bool := decide (300 ≤ e) && decide (e < 388)
def portField (e : Nat) : Nat := (e - 240) / 5

/-- The endpoint's unit runs: a pool's field or an HBM side. -/
def portLive (s : State) (e : Nat) : Bool :=
  if isPoolPort e then poolLive s (portField e)
  else if isHbmPort e then sideLive s (if e < 320 then 0 else if e < 344 then 1 else if e < 364 then 2 else 3)
  else true

/-- A copy of a multicast passes the crossing from its target's router (R386). -/
def copyCrosses (s : State) (c : Nat) (p : Packet) : State := fifoPut s ((endCrossings c).map Prod.snd) (max 1 p.len)

/-! ### Writes -/

/-- A pool port receives a WRITE: segment rights only, into a pinned range of the stamped partition (R159, R458). -/
def poolWrite (s : State) (p : Packet) : State :=
  let a := p.addr.toNat * 64
  let n := (p.data.length + 63) / 64
  match placeOf a, placeOf (a + 64 * n - 1) with
  | .pool f o, .pool f' o' =>
    match rangeOf s f o, rangeOf s f o' with
    | some r, some r' =>
      if f ≠ f' ∨ f ≠ portField p.dst ∨ r.first ≠ r'.first ∨ r.mode ≠ 1 ∨ !(p.part == r.part || p.part == 62 || p.part == 63) then
        sendError s p.dst p .windowViolation
      else
        let s := ((chunks 64 p.data).zip (List.range n)).foldl (fun s x => bankWrite s (a / 64 + x.2) (padTo 64 x.1) none) (meter s (some r.part) 7 n)
        sendAck s p.dst p.src p.part p.addr.toNat n
    | _, _ => sendError s p.dst p .windowViolation
  | _, _ => sendError s p.dst p .windowViolation

def writeArrives (s : State) (p : Packet) : State :=
  if badPacket .write p then discardPkt s .write p
  else if !mayArrive s .write p then s
  else if p.mcast = 2#2 then
    match tget s.head.groups p.dst with
    | none => discardPkt s .write p
    | some g =>
      if g.src ≠ p.src then discardPkt s .write p
      else g.targets.foldl (fun s c => coreWrite (copyCrosses s c p) c p) (arrive s .write p)
  else if !portLive s p.dst then s
  else
    let s := arrive s .write p
    if p.dst < 240 then coreWrite s p.dst p
    else if isPoolPort p.dst then poolWrite s p
    else if isHbmPort p.dst then hbmServeWrite s p
    else sendError s p.dst p .badCommand

def execWrite (p : Packet) (s : State) : Host.Outcome State Fault Refusal := .next (writeArrives s p)

/-- Elements and target granules of a WRITE_ADD's payload; `none` where they are not whole (R188). -/
def addShape (tf sf : Fmt) (bytes : Nat) : Option (Nat × Nat) :=
  let n := if sf = .g12 then bytes / 194 * 128 else bytes * 8 / fmtWidth sf
  let g := if tf = .g12 then n / 128 * 3 else n * fmtWidth tf / 512
  if n = 0 ∨ g = 0 ∨ g * 512 ≠ n * fmtWidth tf then none else some (n, g)

/-- The add of a WRITE_ADD whose window or segment admits it: furrow ACC at the target (R186-R188). -/
def addPerform (s : State) (p : Packet) (owner a fromE : Nat) : State :=
  let v := p.aux.toNat
  let d := { fuDesc 0#256 with op := 1, tf := fmtOfCode (v / 16 % 16), sf := fmtOfCode (v % 16), auxCode := 0 }
  match d.tf, d.sf, ctlOf (BitVec.ofNat 8 (v / 256)) with
  | some tf, some sf, some _ =>
    match addShape tf sf p.data.length with
    | none => sendError s fromE p .badCommand
    | some (_, g) =>
      if !fuFormats d then sendError s fromE p .badCommand
      else match fuPlace s owner a (64 * g) with
        | .error st => sendError s fromE p st
        | .ok () => sendAck (fuRemoteAdd s owner a g tf sf (BitVec.ofNat 8 (v / 256)) p.data) fromE p.src p.part p.addr.toNat ((p.data.length + 63) / 64)
  | _, _, _ => sendError s fromE p .badCommand

/-- One core receives a WRITE_ADD (R159, R187). -/
def coreAdd (s : State) (c : Nat) (p : Packet) : State :=
  if sinkActive s c then sinkAbsorb s c .writeAdd p
  else
    let gran := if p.mcast = 0#2 then (p.addr.toNat * 64 - spadBase c) / 64 else p.addr.toNat
    let v := p.aux.toNat
    let n := match fmtOfCode (v / 16 % 16), fmtOfCode (v % 16) with
      | some tf, some sf => ((addShape tf sf p.data.length).map Prod.snd).getD 0
      | _, _ => 0
    match (if stampOk s c p.part && decide (gran + n ≤ spadBytes / 64) then
        admitWrite s c (srcOf p) p.wkind.toNat p.index p.gen.toNat 0 gran n true
      else .error .windowViolation) with
    | .error st => sendError (countRefused s c st) c p st
    | .ok (g, k) => addPerform (setCore s c k) p c (spadBase c + g * 64) c

/-- A pool port receives a WRITE_ADD: segment rights only (R187). -/
def poolAdd (s : State) (p : Packet) : State :=
  let a := p.addr.toNat * 64
  match placeOf a with
  | .pool f o =>
    match rangeOf s f o with
    | some r =>
      if f ≠ portField p.dst ∨ !(p.part == r.part || p.part == 62 || p.part == 63) ∨ securedWrite s p.src a p.data.length then
        sendError s p.dst p .windowViolation
      else
        -- rights and metering follow the partition, seen from any of its cores
        match partCores s r.part with
        | c :: _ => addPerform s p c a p.dst
        | [] => sendError s p.dst p .windowViolation
    | none => sendError s p.dst p .windowViolation
  | _ => sendError s p.dst p .windowViolation

/-- The engine of the first target granule cannot take another remote request (R196): its queue-full event,
and the sender credit-held. -/
def engineHeld (s : State) (p : Packet) : State :=
  let s := match blockOf p.addr.toNat with
    | some b => engEvent s b 3
    | none => s
  if p.src < 240 then creditHold s p.src .engine else s

def writeAddArrives (s : State) (p : Packet) : State :=
  if badPacket .writeAdd p then discardPkt s .writeAdd p
  else if !mayArrive s .writeAdd p then s
  else if p.mcast = 2#2 then
    match tget s.head.groups p.dst with
    | none => discardPkt s .writeAdd p
    | some g =>
      if g.src ≠ p.src then discardPkt s .writeAdd p
      else g.targets.foldl (fun s c => coreAdd (copyCrosses s c p) c p) (arrive s .writeAdd p)
  else if engineFull s p.addr.toNat then engineHeld s p
  else if !portLive s p.dst then s
  else
    let s := arrive s .writeAdd p
    let s := if p.src < 240 then releaseHold s p.src .engine else s
    if p.dst < 240 then coreAdd s p.dst p
    else if isPoolPort p.dst then poolAdd s p
    else sendError s p.dst p .badCommand

def execWriteAdd (p : Packet) (s : State) : Host.Outcome State Fault Refusal := .next (writeAddArrives s p)

/-! ### Reads -/

/-- A remote read of a core's scratchpad (R158, R458): no window; a correction holds no core (Table HBM-3). -/
def coreServeRead (s : State) (c : Nat) (p : Packet) : State :=
  let a := p.addr.toNat * 64
  let n := p.aux.toNat % 64 + 1
  match placeOf a, placeOf (a + 64 * n - 1) with
  | .spad x _, .spad y _ =>
    if x ≠ c ∨ y ≠ c ∨ !stampOk s c p.part then sendError s c p .windowViolation
    else
      let r := readGranules ((List.range n).foldl (fun s i => noteRead s (p.addr.toNat + i)) s) p.addr.toNat n
      let s := setEventIf (siltIn r.2 a (64 * n)) r.2 .bsSpEvent c 3
      sendAll (meterCore s c 6 n) .readReply (replyPackets c p.src p.part (p.aux.toNat / 64) p.addr.toNat p.cls r.1)
  | _, _ => sendError s c p .windowViolation

/-- A pool port receives a READ_REQ: merged reads of its own field's cores (R155), else a pinned range's granules. -/
def poolServeRead (s : State) (p : Packet) : State :=
  let f := portField p.dst
  let g := p.addr.toNat
  let n := p.aux.toNat % 64 + 1
  let lines := (List.range ((g + n - 1) / 4 - g / 4 + 1)).map (g / 4 + ·)
  let own := p.src < 240 && coreField p.src == f
  match placeOf (g * 64), placeOf ((g + n) * 64 - 1) with
  | .hbm _, .hbm _ =>
    if own && p.part < 60 && lines.all (fun l => (cacheRange s f p.part (l * 256)).isSome) &&
        portAdmits s p.part .rd (g * 64) (64 * n) then
      lines.foldl (fun s l => poolRead s p.src (l * 256) []) s
    else sendError s p.dst p .badCommand
  | .pool x o, .pool y o' =>
    match rangeOf s x o, rangeOf s y o' with
    | some r, some r' =>
      if x ≠ f ∨ y ≠ f ∨ r.mode ≠ 1 ∨ r.first ≠ r'.first ∨ !(p.part == r.part || p.part == 62 || p.part == 63) then
        sendError s p.dst p .windowViolation
      else if own then lines.foldl (fun s l => poolRead s p.src (l * 256) []) s
      else
        let d := readGranules ((List.range n).foldl (fun s i => noteRead s (g + i)) s) g n
        sendAll (meter d.2 (some r.part) 6 n) .readReply (replyPackets p.dst p.src r.part (p.aux.toNat / 64) g p.cls d.1)
    | _, _ => sendError s p.dst p .windowViolation
  | _, _ => sendError s p.dst p .windowViolation

def readReqArrives (s : State) (p : Packet) : State :=
  if badPacket .readReq p then discardPkt s .readReq p
  else if !mayArrive s .readReq p then s
  else if !portLive s p.dst then s
  else
    let s := arrive s .readReq p
    if p.dst < 240 then
      (if sinkActive s p.dst then sinkAbsorb s p.dst .readReq p else coreServeRead s p.dst p)
    else if isPoolPort p.dst then poolServeRead s p
    else if isHbmPort p.dst then hbmServeRead s p
    else sendError s p.dst p .badCommand

def execReadReq (p : Packet) (s : State) : Host.Outcome State Fault Refusal := .next (readReqArrives s p)

/-- A core takes one granule of read data: its oldest weight load that still awaits it (R65, R157). -/
def loadGranule (g : Nat) (bs : List Byte) : List LoadPend → List LoadPend
  | [] => []
  | l :: ls => if l.need.contains g then { l with need := l.need.filter (· ≠ g), got := tput l.got g bs } :: ls else l :: loadGranule g bs ls

def loadData (k : Core) (g : Nat) (data : List Byte) : Core :=
  { k with loads := ((chunks 64 data).zip (List.range (data.length / 64 + 1))).foldl (fun ls x => loadGranule (g + x.2) x.1 ls) k.loads }

def readReplyArrives (s : State) (p : Packet) : State :=
  if badPacket .readReply p then discardPkt s .readReply p
  else if !mayArrive s .readReply p then s
  else
    let s := arrive s .readReply p
    let give := fun (s : State) (c : Nat) =>
      if sinkActive s c then sinkAbsorb s c .readReply p else modCore s c (fun k => loadData k p.addr.toNat p.data)
    if p.mcast = 1#2 then
      ((List.range 20).filter (fun i => p.fmask.getLsbD i)).foldl (fun s i => give (copyCrosses s (coreOfSpad p.dst i) p) (coreOfSpad p.dst i)) s
    else if p.dst < 240 then give s p.dst
    else if isPoolPort p.dst then fillData s (portField p.dst) p.addr.toNat (p.aux.toNat / 64) p.data
    else s

def execReadReply (p : Packet) (s : State) : Host.Outcome State Fault Refusal := .next (readReplyArrives s p)

/-! ### Tokens, checks, acknowledgements -/

/-- Entries in use in a core's token store (R260). -/
def tokenEntries (k : Core) : Nat := k.wtok.length + k.ftok.length

/-- WRITE_TOKEN at a core: its byte count accumulates in the entry of its ring buffer (R161, R260). -/
def writeTokenArrives (s : State) (p : Packet) : State :=
  if badPacket .writeToken p then discardPkt s .writeToken p
  else if !mayArrive s .writeToken p then s
  else
    let s := arrive s .writeToken p
    if p.dst ≥ 240 then s
    else if sinkActive s p.dst then sinkAbsorb s p.dst .writeToken p
    else modCore s p.dst (fun k =>
      let key := p.index * 8 + p.aux.toNat % 8
      if (tget k.wtok key).isNone && decide (256 ≤ tokenEntries k) then k
      else { k with wtok := tmod k.wtok key 0 (· + p.addr.toNat) })

def execWriteToken (p : Packet) (s : State) : Host.Outcome State Fault Refusal := .next (writeTokenArrives s p)

/-- FREE_TOKEN at a core: a ring buffer freed for this writer, or units granted in a turnout range (R260). -/
def freeTokenArrives (s : State) (p : Packet) : State :=
  if badPacket .freeToken p then discardPkt s .freeToken p
  else if !mayArrive s .freeToken p then s
  else
    let s := arrive s .freeToken p
    if p.dst ≥ 240 then s
    else if sinkActive s p.dst then sinkAbsorb s p.dst .freeToken p
    else if p.wkind = 2#2 then
      modCore s p.dst (fun k => match tget k.rngs p.index with
        | none => k
        | some r => { k with rngs := tput k.rngs p.index { r with granted := r.granted + p.aux.toNat } })
    else modCore s p.dst (fun k =>
      let key := (p.src * 256 + p.index) * 8 + p.aux.toNat % 8
      if (tget k.ftok key).isNone && decide (256 ≤ tokenEntries k) then k
      else { k with ftok := tmod k.ftok key 0 (· + 1) })

def execFreeToken (p : Packet) (s : State) : Host.Outcome State Fault Refusal := .next (freeTokenArrives s p)

/-- The two most recent boundary numbers of a check store, modulo 1,024 (R260). -/
def keepTwo (t : Tab Nat) (n : Nat) : Tab Nat := tfilter (fun b => (n + 1024 - b) % 1024 ≤ 1 || (b + 1024 - n) % 1024 ≤ 1) t

def checkArrives (s : State) (p : Packet) : State :=
  if badPacket .check p then discardPkt s .check p
  else if !mayArrive s .check p then s
  else
    let s := arrive s .check p
    if p.dst ≥ 240 then s
    else if sinkActive s p.dst then sinkAbsorb s p.dst .check p
    else
      let n := p.aux.toNat / 64
      modCore s p.dst (fun k => { k with checks := tmod (keepTwo k.checks n) n 0 (fun x => min 240 (x + 1)) })

def execCheck (p : Packet) (s : State) : Host.Outcome State Fault Refusal := .next (checkArrives s p)

/-- ENGINE_REQ at a pool port: a flume descriptor (aux bit 0 clear) or a furrow request, for the core that sent it (R178, R196). -/
def engineReqArrives (s : State) (p : Packet) : State :=
  if badPacket .engineReq p then discardPkt s .engineReq p
  else if !mayArrive s .engineReq p then s
  else if !portLive s p.dst then s
  else if p.dst < 240 then
    (if sinkActive s p.dst then sinkAbsorb (arrive s .engineReq p) p.dst .engineReq p
     else sendError (arrive s .engineReq p) p.dst p .badCommand)
  else if !isPoolPort p.dst || p.src ≥ 240 then sendError (arrive s .engineReq p) p.dst p .badCommand
  else if p.aux.toNat % 2 = 0 then
    let d := BitVec.ofNat 128 (leNat (p.data.take 16))
    let s := arrive s .engineReq p
    if !flumeOk s p.src d then
      sendError (modCore s p.src (fun k => { k with vectors := k.vectors.filter (fun v => v.1 ≠ d) })) p.dst p .badCommand
    else queuePass s (portField p.dst) ⟨p.src, some (portField p.dst), d, p.cls == .senior, .queued, [], [], 0, [], 0, 0, 0⟩
  else
    let r := BitVec.ofNat 256 (leNat (p.data.take 32))
    if engineFull s ((fuDesc r).target / 64) then engineHeld s { p with addr := BitVec.ofNat 42 ((fuDesc r).target / 64) }
    else
      let s := releaseHold (arrive s .engineReq p) p.src .engine
      let q := ((s.furrow.find? (fun e => e.2.core == p.src && e.2.req == r && !e.2.arrived)).map Prod.snd).getD (FuReq.issued s p.src r)
      fuIssue s q (fld r 0 4)

def execEngineReq (p : Packet) (s : State) : Host.Outcome State Fault Refusal := .next (engineReqArrives s p)

/-- Remove one occurrence of each granule of a run. -/
def dropGranules (l : List Nat) (g n : Nat) : List Nat := (List.range n).foldl (fun l i => eraseFirst (g + i) l) l

/-- Granules acknowledged to a core's DMA engine; a transfer whose last granule this is sends its token (R143, R166). -/
def dmaAck (s : State) (c g n : Nat) : State :=
  let k := getCore s c
  match k.dma.find? (fun d => d.open_.contains g) with
  | none => s
  | some d =>
    let left := dropGranules d.open_ g n
    if left.isEmpty then
      let sent := d.tokens.map (fun q => (q.2.dst * 256 + q.2.index) * 8 + q.2.aux.toNat)
      let s := modCore s c (fun k => { k with dma := eraseFirst d k.dma, owned := k.owned.filter (fun x => !sent.contains x) })
      d.tokens.foldl (fun s q => sendPkt s q.1 q.2) s
    else modCore s c (fun k => { k with dma := k.dma.map (fun x => if x = d then { d with open_ := left } else x) })

/-- An invalidation is acknowledged: the write's own ACK leaves once none is outstanding (R150). -/
def invalAck (s : State) (port line f : Nat) : State :=
  match s.hbm.invals.find? (fun w => w.port == port && w.left.contains (line, f)) with
  | none => s
  | some w =>
    let left := w.left.filter (· ≠ (line, f))
    if left.isEmpty then
      sendAck { s with hbm := { s.hbm with invals := eraseFirst w s.hbm.invals } } port w.toE w.part w.granule w.n
    else { s with hbm := { s.hbm with invals := s.hbm.invals.map (fun x => if x = w then { w with left := left } else x) } }

def ackArrives (s : State) (p : Packet) : State :=
  if badPacket .ack p then discardPkt s .ack p
  else if !mayArrive s .ack p then s
  else
    let s := arrive s .ack p
    if p.dst < 240 then
      (if sinkActive s p.dst then sinkAbsorb s p.dst .ack p else dmaAck s p.dst p.addr.toNat p.aux.toNat)
    else if isHbmPort p.dst && isPoolPort p.src then invalAck s p.dst (p.addr.toNat / 4) (portField p.src)
    else if isPoolPort p.dst then passAck s (portField p.dst) p.src p.addr.toNat p.aux.toNat
    else s

def execAck (p : Packet) (s : State) : Host.Outcome State Fault Refusal := .next (ackArrives s p)

/-- Status of a code that an ERROR carries. -/
def stOfCode (n : Nat) : St :=
  match n with
  | 0x02 => .refusedCapacity | 0x03 => .refusedAllotment | 0x05 => .poisonConsumed | 0x08 => .windowViolation
  | 0x09 => .creditExhausted | 0x0A => .stageLost | 0x0B => .regionShed | 0x0F => .configConflict | _ => .badCommand

/-- ERROR at a core completes the request it answers and the task that sent it (R164, R165, R260). -/
def errorArrives (s : State) (p : Packet) : State :=
  if badPacket .error p then discardPkt s .error p
  else if !mayArrive s .error p then s
  else
    let s := arrive s .error p
    let st := stOfCode (p.aux.toNat % 256)
    if isPoolPort p.dst then
      (if isHbmPort p.src then fillRefused s (portField p.dst) p.addr.toNat st else passRefused s (portField p.dst) p.src p.addr.toNat st)
    else if p.dst ≥ 240 then s
    else if sinkActive s p.dst then sinkAbsorb s p.dst .error p
    else
      let g := p.addr.toNat
      let s := modCore s p.dst (fun k =>
        { k with dma := k.dma.filter (fun d => !d.open_.contains g), loads := k.loads.filter (fun l => !l.need.contains g) })
      taskRefused s p.dst st p.addr.toNat

def execError (p : Packet) (s : State) : Host.Outcome State Fault Refusal := .next (errorArrives s p)

/-- INVAL at a pool port: the field drops the line and acknowledges (R150). -/
def invalArrives (s : State) (p : Packet) : State :=
  if badPacket .inval p then discardPkt s .inval p
  else if !mayArrive s .inval p then s
  else if !isPoolPort p.dst then arrive s .inval p
  else
    let s := arrive s .inval p
    let f := portField p.dst
    let line := p.addr.toNat / 4
    let s := dropLine s f line
    sendAck s p.dst p.src p.part (line * 4) 4

def execInval (p : Packet) (s : State) : Host.Outcome State Fault Refusal := .next (invalArrives s p)

end Sys2Proof.Machine
end

