-- ==== Sys2Proof/Machine/Dma.lean ====
section
/-!
DEFINITION. The DMA engine (06_basin_scratchpads, R166, Table BASIN-9).  A transfer reads its source when it
is issued (log entry 21); it lands in its own scratchpad at once, subject to R142, and elsewhere by packets.
-/
namespace Sys2Proof.Machine

/-- Fields of a DMA descriptor. -/
structure Dma where
  op : Nat
  kind : Nat
  token : Bool
  isAdd : Bool
  sf : Option Fmt
  ctl : Option Ctl

def dmaFields (d : DmaDesc) : Dma :=
  { op := d.op.toNat % 16, kind := d.kind.toNat % 4, token := d.kind.getLsbD 2, isAdd := d.kind.getLsbD 3,
    sf := fmtOfCode (d.srcFmt.toNat % 16), ctl := ctlOf d.ctl }

/-- Bytes of one destination row's elements, and blocks of a row. -/
def dmaRowBytes (d : DmaDesc) : Nat :=
  match dmaFields d with
  | ⟨2, _, _, _, _, some c⟩ => elemBytes c.fmt d.count
  | _ => 64 * d.count

def dmaRowBlocks (d : DmaDesc) : Nat :=
  match dmaFields d with
  | ⟨2, _, _, _, _, some c⟩ => if fmtBlock c.fmt = 0 then 0 else d.count / fmtBlock c.fmt
  | _ => 0

/-- The refusals of R166 that a descriptor alone decides (R52, R135, R280). -/
def dmaOk (d : DmaDesc) : Bool :=
  let f := dmaFields d
  let block := match f.ctl with
    | some c => if f.op = 2 then fmtBlock c.fmt else 0
    | none => 0
  let sblock := match f.sf with
    | some c => if f.op = 2 then fmtBlock c else 0
    | none => 0
  decide (1 ≤ f.op ∧ f.op ≤ 3) && decide (d.op.toNat < 16) && decide (d.kind.toNat < 16) &&
  (!f.token || f.kind == 1 || f.kind == 3) && (!f.isAdd || f.kind == 1) &&
  (if f.op = 2 then f.sf.isSome && f.ctl.isSome && decide (d.srcFmt.toNat < 16) else d.srcFmt == 0 && d.ctl == 0) &&
  decide (1 ≤ d.count) && (f.op == 2 || decide (d.count ≤ 2 ^ 20)) &&
  decide (1 ≤ d.rows ∧ d.rows ≤ 2 ^ 20) && d.srcPitch % 64 == 0 && d.dstPitch % 64 == 0 &&
  decide (d.src.toNat < 2 ^ 48) && decide (d.dst.toNat < 2 ^ 48) && (f.op != 3 || d.src == 0) &&
  (f.kind != 2 || d.dst == 0) && (sblock != 0 || d.srcSf == 0) &&
  (if block = 0 || f.kind = 2 then d.dstSf == 0 else d.dstSf.toNat % 64 == 0) &&
  (block == 0 || (d.count % block == 0 && ((f.kind == 0 && d.dstSf.toNat / 2 ^ 44 == 3) || dmaRowBlocks d * d.rows % 64 == 0))) &&
  ((f.kind == 0 && (d.flags.getLsbD 1 || d.dst.toNat / 2 ^ 44 == 3)) || (d.dst.toNat % 64 == 0 && dmaRowBytes d % 64 == 0)) && decide (d.flags.toNat < 4) && d.rsvd == 0

/-- Source row address, with the input base of the DISPATCH when flag bit 0 asks for it. -/
def dmaBases (s : State) (c : Nat) : Nat × Nat :=
  match (getCore s c).task with
  | some t => (t.input, t.output)
  | none => (0, 0)

def dmaSrc (s : State) (c : Nat) (d : DmaDesc) (r : Nat) : Nat :=
  d.src.toNat + (if d.flags.getLsbD 0 then (dmaBases s c).1 else 0) + r * d.srcPitch

def dmaDst (s : State) (c : Nat) (d : DmaDesc) : Nat :=
  d.dst.toNat + (if d.flags.getLsbD 1 then (dmaBases s c).2 else 0)

/-- Bytes that one source row spans. -/
def dmaSrcBytes (d : DmaDesc) : Nat :=
  match dmaFields d with
  | ⟨2, _, _, _, some f, _⟩ => elemBytes f d.count
  | ⟨3, _, _, _, _, _⟩ => 0
  | _ => 64 * d.count

/-- Block fields of a block-scaled source: their bytes in a row, and where row r has them (R41). -/
def dmaSrcBlocks (d : DmaDesc) : Nat :=
  match dmaFields d with
  | ⟨2, _, _, _, some f, _⟩ => if fmtBlock f = 0 then 0 else (d.count + fmtBlock f - 1) / fmtBlock f
  | _ => 0

/-- Byte runs that a transfer reads: its rows and their block fields. -/
def dmaReads (s : State) (c : Nat) (d : DmaDesc) : List (Nat × Nat) :=
  (List.range d.rows).map (fun r => (dmaSrc s c d r, dmaSrcBytes d)) ++
  (if dmaSrcBlocks d = 0 then [] else [(d.srcSf.toNat, d.rows * dmaSrcBlocks d)])

/-- Byte runs that a transfer writes at device addresses: its rows and their block fields. -/
def dmaWrites (s : State) (c : Nat) (d : DmaDesc) : List (Nat × Nat) :=
  if (dmaFields d).kind ≠ 0 then []
  else (List.range d.rows).map (fun r => (dmaDst s c d + r * d.dstPitch, dmaRowBytes d)) ++
    (if dmaRowBlocks d = 0 then [] else [(d.dstSf.toNat, dmaRowBlocks d * d.rows)])

/-- First address of a transfer that the partition's segments do not admit (R158, R308, R366). -/
def dmaDenied (s : State) (c : Nat) (d : DmaDesc) : Option Nat :=
  ((dmaReads s c d).find? (fun x => !taskAllows s c .rd x.1 x.2)).map Prod.fst |>.or
    (((dmaWrites s c d).find? (fun x => !taskAllows s c .wr x.1 x.2 || securedWrite s c x.1 x.2)).map Prod.fst)

/-- A row of a transfer: destination element bytes, block fields, state after the reads. -/
structure DmaRow where
  bytes : List Byte
  fields : List Nat
  st : State

/-- Bytes of HBM for a core: the lines in its field's cache range through the cache, the others from the controllers (R148). -/
def hbmFetch (s : State) (c a n : Nat) : List Byte × State :=
  if n = 0 then ([], s)
  else
    let r := (List.range ((a + n - 1) / 256 - a / 256 + 1)).foldl (fun (acc : List Byte × State) i =>
      let line := a / 256 + i
      let lo := max a (line * 256)
      let hi := min (a + n) (line * 256 + 256)
      match cachedLine acc.2 c line with
      | some (bs, s) => (acc.1 ++ (bs.drop (lo - line * 256)).take (hi - lo), s)
      | none => let x := fetchBytes acc.2 lo (hi - lo); (acc.1 ++ x.bytes, meterUse x.st c false lo (hi - lo))) ([], s)
    r

/-- Read bytes for the engine: unscheduled in the basin (R140, R158); a correction in the core's own scratchpad holds the core (Table HBM-3),
and silt in a scratchpad is flagged at its core (Table BASIN-7). -/
def dmaFetch (s : State) (c a n : Nat) : List Byte × State :=
  match placeOf a with
  | .hbm _ => hbmFetch s c a n
  | .spad x _ =>
    let s := (granOffs a n).foldl (fun s g => noteRead s (g / 64)) s
    let r := fetchBytes s a n
    let st := setEventIf (siltIn r.st a n) (meterUse r.st c false a n) .bsSpEvent x 3
    (r.bytes, if r.corrected && x == c then eccHold st c else st)
  | _ =>
    let s := (granOffs a n).foldl (fun s g => noteRead s (g / 64)) s
    let r := fetchBytes s a n
    (r.bytes, meterUse r.st c false a n)

/-- Draws of R166 for the elements of a row. -/
def dmaDraws (seed : W64) (r n : Nat) : List Nat :=
  (List.range n).map (fun i => drawBits (seedLane seed (r % 2 ^ 24) (i / 256 % 2 ^ 24) (i % 256)))

/-- Row r of a converting copy: every destination granule that holds an element of a silted source granule is silt (Table HBM-4). -/
def dmaConvertRow (s : State) (c : Nat) (d : DmaDesc) (sf : Fmt) (ctl : Ctl) (seed : W64) (r : Nat) : DmaRow :=
  let a := dmaSrc s c d r
  let x := dmaFetch s c a (elemBytes sf d.count)
  let nb := if fmtBlock sf = 0 then 0 else (d.count + fmtBlock sf - 1) / fmtBlock sf
  let q := dmaFetch x.2 c (d.srcSf.toNat + r * nb) nb
  let es := unpackElems sf d.count x.1
  let vals := decodeElems sf es (q.1.map (·.toNat))
  let silts := (List.range d.count).map (fun i =>
    isSilt (granuleBytes q.2 ((a + i * fmtWidth sf / 8) / 64)) ||
    (nb != 0 && isSilt (granuleBytes q.2 ((d.srcSf.toNat + r * nb + i / fmtBlock sf) / 64))))
  let o := convertRow ctl (vals.zip (dmaDraws seed r d.count))
  let bs := packElems ctl.fmt o.bits
  let per := 512 / fmtWidth ctl.fmt + 2
  let out := ((chunks 64 bs).zip (List.range (bs.length / 64 + 1))).flatMap (fun g =>
    let lo := g.2 * 512 / fmtWidth ctl.fmt
    if ((silts.drop lo).take per).zip (List.range per) |>.any (fun e => e.1 &&
        decide ((lo + e.2) * fmtWidth ctl.fmt / 512 ≤ g.2) && decide (g.2 ≤ ((lo + e.2 + 1) * fmtWidth ctl.fmt - 1) / 512))
    then siltBytes.take g.1.length else g.1)
  ⟨out, o.fields, q.2⟩

def dmaRow (s : State) (c : Nat) (d : DmaDesc) (seed : W64) (r : Nat) : DmaRow :=
  match dmaFields d with
  | ⟨2, _, _, _, some sf, some ctl⟩ => dmaConvertRow s c d sf ctl seed r
  | ⟨3, _, _, _, _, _⟩ => ⟨List.replicate (64 * d.count) 0, [], s⟩
  | _ => let x := dmaFetch s c (dmaSrc s c d r) (64 * d.count); ⟨x.1, [], x.2⟩

/-- What a transfer moves: runs of destination bytes, each at an address or offset. -/
def dmaRuns (s : State) (c : Nat) (d : DmaDesc) : List (Nat × List Byte) × State :=
  let seed := taskSeed s c
  let dst := dmaDst s c d
  let x := (List.range d.rows).foldl (fun (acc : List (Nat × List Byte) × List Nat × State) r =>
    let row := dmaRow acc.2.2 c d seed r
    (acc.1 ++ [(dst + r * d.dstPitch, row.bytes)], acc.2.1 ++ row.fields, row.st)) ([], [], s)
  if x.2.1.isEmpty then (x.1, x.2.2)
  else (x.1 ++ [(d.dstSf.toNat, x.2.1.map (BitVec.ofNat 8))], x.2.2)

/-- WRITE packets for a run at a device address: one per controller port for HBM (R278), and one per line for another field's pool, whose
lines enter by different ports (R153). -/
def runPackets (s : State) (c a : Nat) (bs : List Byte) : List Packet :=
  let p := mkPkt (taskCls s c) c 0 (coreStamp s c) 0 0
  match placeOf a with
  | .hbm _ =>
    ((chunks 64 bs).zip (List.range (bs.length / 64 + 1))).map (fun g =>
      { p with dst := hbmPort (mode1 s) (a + 64 * g.2), len := 1, addr := BitVec.ofNat 42 (a / 64 + g.2), data := g.1 })
  | .pool f _ =>
    if f = coreField c then dataPackets { p with dst := 240 + coreCluster c } (a / 64) bs
    else
      let head := 256 - a % 256
      dataPackets { p with dst := fieldPort f (a / 256) } (a / 64) (bs.take head) ++
      ((chunks 256 (bs.drop head)).zip (List.range (bs.length / 256 + 1))).flatMap (fun g =>
        let x := a + head + 256 * g.2
        dataPackets { p with dst := fieldPort f (x / 256) } (x / 64) g.1)
  | .spad x _ => dataPackets { p with dst := x } (a / 64) bs
  | _ => []

/-- Silted granule at which a transfer to companion memory stops (R293): the granules before it. -/
def beforeSilt (bs : List Byte) : List Byte := ((chunks 64 bs).takeWhile (fun g => !isSilt g)).flatten

/-- Writes of a kind 0 run: own scratchpad at once, companion memory by WR, elsewhere by packets. -/
def dmaPlace (s : State) (c : Nat) (x : Nat × List Byte) : State × List Nat × Option Nat :=
  match placeOf x.1 with
  | .spad y o => if y = c then (landBytes s c o x.2, [], none)
    else (sendAll s .write (runPackets s c x.1 x.2), (List.range (x.2.length / 64)).map (x.1 / 64 + ·), none)
  | .comp a =>
    let bs := beforeSilt x.2
    let own := ((getCore s c).task.map (fun t => (t.ctx, t.tag))).getD (65535, 0)
    (compWrite s a bs own.1 own.2, [], if bs.length < x.2.length then some ((x.1 + bs.length) / 64) else none)
  | .hbm _ | .pool _ _ =>
    (sendAll s .write (runPackets s c x.1 x.2), (List.range (x.2.length / 64)).map (x.1 / 64 + ·), none)
  | _ => (s, [], none)

/-- Targets of a transfer into windows. -/
def dmaTargets (s : State) (d : DmaDesc) : List Nat :=
  if (dmaFields d).kind = 3 then ((tget s.head.groups d.target).map (·.targets)).getD [] else [d.target]

/-- Tokens that a transfer sends at its end: one for each target. -/
def dmaTokens (s : State) (c : Nat) (d : DmaDesc) (bytes : Nat) : List (PType × Packet) :=
  let f := dmaFields d
  if f.token then (dmaTargets s d).map (fun t => (.writeToken, { mkPkt (taskCls s c) c t (coreStamp s c) bytes d.buf with
    index := d.index, gen := d.gen, wkind := 1#2 })) else []

/-- Runs of a transfer of adds: a row of blocks takes its own fields with it, from the next 64-byte boundary (log entry 18). -/
def dmaAddRuns (d : DmaDesc) (runs : List (Nat × List Byte)) : List (Nat × List Byte) :=
  let nb := dmaRowBlocks d
  if nb = 0 then runs
  else
    let fields := (runs.getLast?.map Prod.snd).getD []
    (runs.dropLast.zip (List.range runs.length)).map (fun x =>
      let fs := (fields.drop (x.2 * nb)).take nb
      (x.1.1, x.1.2 ++ padTo ((nb + 63) / 64 * 64) fs))

/-- Packets of a transfer into another core's window, range or group. -/
def dmaRemote (s : State) (c : Nat) (d : DmaDesc) (runs : List (Nat × List Byte)) : List (PType × Packet) :=
  let f := dmaFields d
  let p := { mkPkt (taskCls s c) c d.target (coreStamp s c) 0 0 with index := d.index, gen := d.gen }
  match f.kind with
  | 1 =>
    let code := match f.ctl with
      | some k => if f.op = 2 then fmtCode k.fmt else 0
      | none => 0
    let aux := if f.isAdd then code + 16 * code + 256 * d.ctl.toNat else 0
    (if f.isAdd then dmaAddRuns d runs else runs).flatMap (fun x =>
      (dataPackets { p with wkind := 1#2, aux := BitVec.ofNat 16 aux } ((spadBase d.target + x.1) / 64) x.2).map
        (fun q => (if f.isAdd then PType.writeAdd else PType.write, q)))
  | 2 =>
    let ul := ((tget (getCore s d.target).rngs d.index).map (·.unitLog)).getD 0
    let all := runs.flatMap Prod.snd
    let size := 64 * 2 ^ ul
    ((chunks size all).zip (List.range (all.length / size + 1))).flatMap (fun u =>
      (dataPackets { p with wkind := 2#2, aux := BitVec.ofNat 16 (d.unit + u.2) } 0 u.1).map (fun q => (PType.write, q)))
  | _ => runs.flatMap (fun x => (dataPackets { p with wkind := 1#2, mcast := 2#2 } (x.1 / 64) x.2).map (fun q => (PType.write, q)))

/-- Granules of each row, and of the block fields, of a transfer into windows: first scratchpad granule and count. -/
def dmaSpans (d : DmaDesc) : List (Nat × Nat) :=
  (List.range d.rows).map (fun r => ((d.dst.toNat + r * d.dstPitch) / 64, (dmaRowBytes d + 63) / 64)) ++
  (if dmaRowBlocks d = 0 ∨ (dmaFields d).isAdd then [] else [(d.dstSf.toNat / 64, (dmaRowBlocks d * d.rows + 63) / 64)])

/-- Ring buffers that a transfer writes, in every target. -/
def dmaRings (s : State) (d : DmaDesc) : List Nat :=
  if (dmaFields d).kind = 1 ∨ (dmaFields d).kind = 3 then
    (dmaTargets s d).flatMap (fun t => (dmaSpans d).flatMap (fun x => ringKeys s t d.index x.1 x.2))
  else []

/-- Where the first flit of a transfer goes; `none` for the own scratchpad and companion memory. -/
def dmaFirst (s : State) (c : Nat) (d : DmaDesc) : Option Packet :=
  let p := mkPkt (taskCls s c) c 0 (coreStamp s c) 0 0
  match (dmaFields d).kind with
  | 0 => match placeOf (dmaDst s c d) with
    | .spad x _ => if x = c then none else some { p with dst := x }
    | .hbm a => some { p with dst := hbmPort (mode1 s) a }
    | .pool f _ => some { p with dst := poolPort c f (dmaDst s c d) }
    | _ => none
  | 3 => some { p with mcast := 2#2, dst := d.target }
  | _ => some { p with dst := d.target }

/-- A transfer has its credits: room at the injection port, a canal credit, and the turnout credits of what it writes (R107, R257). -/
def dmaCredit (s : State) (c : Nat) (d : DmaDesc) : Bool :=
  match dmaFirst s c d with
  | none => true
  | some p =>
    !injectionFull s c (vcOf .write p) && canalCredit s .write p && ringCredit (getCore s c) (dmaRings s d) &&
    ((dmaFields d).kind ≠ 2 ||
      (let size := 64 * 2 ^ ((tget (getCore s d.target).rngs d.index).map (·.unitLog)).getD 0
       unitsCredit s d.target d.index d.unit ((d.rows * (dmaRowBytes d + dmaRowBlocks d) + size - 1) / size)))

/-- First silted granule that a transfer reads (R293, R294). -/
def dmaSiltSource (s : State) (c : Nat) (d : DmaDesc) : Option Nat :=
  (dmaReads s c d).findSome? (fun x => ((granOffs x.1 x.2).find? (fun a => isSilt (granuleBytes s (a / 64)))).map (· / 64))

/-- Run a transfer whose source data are at hand. -/
def dmaRun (s : State) (c : Nat) (d : DmaDesc) : State :=
  let f := dmaFields d
  let x := dmaRuns s c d
  let bytes := (x.1.map (fun r => r.2.length)).sum
  let s := x.2
  if f.kind = 0 then
    let r := x.1.foldl (fun (acc : State × List Nat × Option Nat) run =>
      match acc.2.2 with
      | some _ => acc
      | none => let y := dmaPlace acc.1 c run; (y.1, acc.2.1 ++ y.2.1, y.2.2)) (s, [], none)
    let s := if r.2.1.isEmpty then r.1 else modCore r.1 c (fun k => { k with dma := k.dma ++ [⟨r.2.1, []⟩] })
    match r.2.2 with
    | some g => endTaskSeq s c .poisonConsumed ((dmaSiltSource s c d).getD g)
    | none => s
  else
    let ps := dmaRemote s c d x.1
    let m := (dmaTargets s d).length
    let s := modCore s c (fun k => takeRing k (dmaRings s d))
    let open_ := ps.flatMap (fun q => (List.range ((q.2.data.length + 63) / 64)).flatMap (fun i => List.replicate m (q.2.addr.toNat + i)))
    let s := ps.foldl (fun s q => sendPkt s q.1 q.2) s
    modCore s c (fun k => { k with dma := k.dma ++ [⟨open_, dmaTokens s c d bytes⟩] })

/-- Source lines in companion memory, in runs of at most 8 lines; and source lines that the companion owns. -/
def dmaNeeds (s : State) (c : Nat) (d : DmaDesc) : List (Nat × Nat) × List Nat :=
  (dmaReads s c d).foldl (fun acc x =>
    let n := if x.2 = 0 then 0 else (x.1 + x.2 - 1) / 64 - x.1 / 64 + 1
    match placeOf x.1 with
    | .comp b => (acc.1 ++ (List.range ((n + 7) / 8)).map (fun i => (b / 64 + 8 * i, min 8 (n - 8 * i))), acc.2)
    | .hbm _ => (acc.1, acc.2 ++ ((List.range n).map (x.1 / 64 + ·)).filter (fun g => inShared s (g * 64) && dirOfLine s g == some .modified))
    | _ => acc) ([], [])

/-- The transfer addresses a pool range of a field that is off for heat or after a latch (R426). -/
def dmaGone (s : State) (c : Nat) (d : DmaDesc) : Bool :=
  (dmaReads s c d ++ dmaWrites s c d).any (fun x => match placeOf x.1 with
    | .pool f _ => poolGone s f
    | _ => false)

/-- A scratchpad of another core that a transfer reads and whose sink acts: what the sink answers (R31, R134, R272). -/
def dmaSunk (s : State) (c : Nat) (d : DmaDesc) : Option (Nat × St) :=
  (dmaReads s c d).findSome? (fun x => match placeOf x.1 with
    | .spad y _ => if y ≠ c && sinkActive s y then some (y, sinkStatus s y (mkPkt .standard c y 0 0 0)) else none
    | _ => none)

/-- Transfers whose data are at hand run, each once it has its credits; the core is held while one has not (R107). -/
def dmaFlush (s : State) (c : Nat) : State :=
  let s := (getCore s c).dmaWait.foldl (fun s w =>
    if w.2.isEmpty && dmaCredit s c w.1 then dmaRun (modCore s c (fun k => { k with dmaWait := eraseFirst w k.dmaWait })) c w.1 else s) s
  if (getCore s c).dmaWait.any (fun w => w.2.isEmpty) then creditHold s c .dma else releaseHold s c .dma

/-- Issue a transfer (R166): refusals of its descriptor and of R308; then reads of companion memory and
snoops of owned lines before it runs (R334, R337, R338). -/
def dmaIssue (s : State) (c : Nat) (d : DmaDesc) : State :=
  let whole := (dmaFields d).kind ≠ 0 || dmaDst s c d / 2 ^ 44 = 3 || (dmaDst s c d % 64 = 0 && dmaRowBytes d % 64 = 0)
  if !dmaOk d || !whole then endTaskSeq s c .badCommand 0
  else match dmaDenied s c d with
    | some a => endTaskSeq s c .windowViolation (a / 64)
    | none =>
      if dmaGone s c d then endTaskSeq s c .regionShed 0
      else match dmaSunk s c d with
        | some (y, st) => endTaskSeq (setEvent (bump s .cnRtSink y 1) .cnRtEvent y 3) c st 0
        | none =>
          let n := dmaNeeds s c d
          let x := n.1.foldl (fun (acc : State × List Nat) l =>
            let t := acc.1.bv.nextTag
            let s := setBv acc.1 { acc.1.bv with nextTag := (t + 1) % 2048, reads := acc.1.bv.reads ++ [(t, c, l.1)] }
            (bvSendFor s (corePart s c) (.rd t l.1 l.2), acc.2 ++ [t])) (s, [])
          let y := n.2.foldl (fun (acc : State × List Nat) g =>
            let t := acc.1.bv.nextTag
            (sendSnoop acc.1 g false .probe (some c), acc.2 ++ [t])) x
          dmaFlush (modCore y.1 c (fun k => { k with dmaWait := k.dmaWait ++ [(d, y.2)] })) c

/-- A tag that transfers wait on is answered: those with none left run, and a snoop hold ends (R338). -/
def tagAnswered (s : State) (t : Nat) : State :=
  s.cores.foldl (fun s e =>
    let c := e.1
    let k := getCore s c
    if !k.dmaWait.any (fun w => w.2.contains t) then s
    else
      let ws := k.dmaWait.map (fun w => (w.1, w.2.filter (· ≠ t)))
      let s := setCore s c { k with dmaWait := ws }
      dmaFlush (if ws.all (fun w => w.2.isEmpty) then releaseHold s c .snoop else s) c) s

/-- A core issues a transfer of one operation. -/
def dmaStart (s : State) (c op : Nat) (d : DmaDesc) : State :=
  if d.op.toNat % 16 = op then dmaIssue s c d else endTaskSeq s c .badCommand 0

def execDmaCopy (core : CoreId) (d : DmaDesc) (s : State) : Host.Outcome State Fault Refusal :=
  .next (if coreRuns s core then dmaStart s core 1 d else s)

def execDmaConvertingCopy (core : CoreId) (d : DmaDesc) (s : State) : Host.Outcome State Fault Refusal :=
  .next (if coreRuns s core then dmaStart s core 2 d else s)

def execDmaZeroFill (core : CoreId) (d : DmaDesc) (s : State) : Host.Outcome State Fault Refusal :=
  .next (if coreRuns s core then dmaStart s core 3 d else s)

end Sys2Proof.Machine
end

