-- ==== Sys2Proof/Machine/Scratch.lean ====
section
/-!
DEFINITION. The scratchpad's own steps: transposed reads (R138), deferred and partial writes (R135, R142),
spills and fills of the mask-bit store (R208, R210), commit checks (R292-R294), and the intake and refresh
passes of the checksum unit (R227, R229).
-/
namespace Sys2Proof.Machine

/-- A write of the core's own units to a device address: own scratchpad, pool, or HBM. -/
def unitWrite (s : State) (c a : Nat) (bs : List Byte) : State :=
  match placeOf a with
  | .hbm _ => hbmPut (meterUse s c true a bs.length) (a - a % 64) (mreads s.mem (a - a % 64) (a % 64) ++ bs)
  | .spad _ _ | .pool _ _ => putUnaligned s c a bs
  | _ => s

/-- Bytes that a core's own units read: its scratchpad through their scheduled reads, anything else as its DMA engine does. -/
def unitFetch (s : State) (c a n : Nat) : List Byte × State :=
  match placeOf a with
  | .spad x o => if x = c then let r := spadFetch s c o n; (r.bytes, r.st) else dmaFetch s c a n
  | _ => dmaFetch s c a n

/-! ### Transposed read -/

def transposable (f : Fmt) : Bool := f == .e4m3 || f == .e5m2 || f == .int8 || f == .bf16 || f == .fp16

/-- 64 granules at a pitch, returned transposed: output row j holds element j of each granule in order (R138). The rows stand by the read's
offset for the step units that stream them (R199). Every row holds an element of each granule, so one silted granule makes them all silt. -/
def transposedOp (s : State) (c off pitch : Nat) (f : Fmt) : State :=
  let offs := (List.range 64).map (fun i => off + i * pitch)
  if !transposable f ∨ offs.any (fun o => decide (spadBytes ≤ o)) then endTaskSeq s c .badCommand 0
  else
    let t := schedTouch s c false (offs.map (fun o => o / 64 * 64))
    if !t.2 then t.1
    else
      let r := offs.foldl (fun (acc : List (List Byte) × State) o =>
        let x := spadFetch acc.2 c (o / 64 * 64) 64
        (acc.1 ++ [x.bytes], x.st)) (([] : List (List Byte)), t.1)
      let w := fmtWidth f / 8
      let silt := r.1.any isSilt
      let rows := (List.range (64 / w)).map (fun j =>
        if silt then (List.replicate w siltBytes).flatten else r.1.flatMap (fun g => (g.drop (j * w)).take w))
      modCore r.2 c (fun k => { k with tread := tput k.tread off rows })

def execTransposedRead (core : CoreId) (off pitch : Nat) (fmt : Fmt) (s : State) : Host.Outcome State Fault Refusal :=
  .next (if coreRuns s core then transposedOp s core off pitch fmt else s)

/-! ### Deferred and partial writes -/

/-- The oldest write held back at a granule lands, if its bank is free in this cycle (R142, R190). -/
def landDeferred (s : State) (g : Nat) : State :=
  match unitOf g with
  | none => s
  | some u => match (getBanks s u).held.find? (fun d => d.granule == g) with
    | none => s
    | some d => landHeld s u d

def execDeferredWriteLand (granule : Nat) (s : State) : Host.Outcome State Fault Refusal := .next (landDeferred s granule)

/-- A line with the masked bytes replaced. -/
def mergeMask (mask : W64) (old new : List Byte) : List Byte :=
  (List.range 64).map (fun i => if mask.getLsbD i then new.getD i 0 else old.getD i 0)

/-- The bank of a byte-masked write reads the row, in a cycle without a scheduled access, and merges (R135). -/
def readPartial (s : State) (c : Nat) (d : PartialWr) : State :=
  if !bankFree s (.spad c) d.granule then s
  else
    let r := fetchGranule s d.granule
    let s := meterCore r.st c 6 1
    let p := getBanks s (.spad c)
    let s := setBanks s (.spad c) { p with reads := p.reads ++ [d.granule] }
    let d' := { d with data := mergeMask d.mask r.bytes d.bytes, read := true }
    modCore s c (fun k => { k with partials := if isSilt r.bytes then eraseFirst d k.partials else k.partials.map (fun x => if x = d then d' else x) })

/-- The merged row lands whole in a later cycle in which its bank is free, after any furrow write of its row; behind a scheduled access of its
own row it is a same-row event (R135, R142, R190). -/
def writePartial (s : State) (c : Nat) (d : PartialWr) : State :=
  let p := getBanks s (.spad c)
  if bankFree s (.spad c) d.granule && !furrowBusy s d.granule && !p.reads.contains d.granule then
    landRow (modCore (meterCore s c 7 1) c (fun k => { k with partials := eraseFirst d k.partials })) (.spad c) ⟨d.granule, d.data, none, false⟩
  else if p.touched.any (·.granule == d.granule) then sameRow s (.spad c)
  else s

/-- PARTIAL_WRITE_LAND: a byte-masked write under way does its next access (R135). -/
def landPartial (s : State) (g : Nat) : State :=
  match placeOf (g * 64) with
  | .spad c _ =>
    match (getCore s c).partials.find? (fun d => d.granule == g) with
    | none => s
    | some d => if d.read then writePartial s c d else readPartial s c d
  | _ => s

def execPartialWriteLand (granule : Nat) (s : State) : Host.Outcome State Fault Refusal := .next (landPartial s granule)

/-! ### Mask-bit store -/

/-- 64-byte granule i of a slot: the silt codeword where it is flagged (R210). -/
def slotGranule (k : Core) (slot i : Nat) : List Byte :=
  if k.maskSilt.contains (slot * 128 + i) then siltBytes
  else (List.range 64).map (fun b => tgetD k.maskBytes (slot * 8192 + 64 * i + b) 0)

/-- Set 64 bytes of a slot. -/
def putSlot (k : Core) (slot i : Nat) (bs : List Byte) : Core :=
  let key := slot * 128 + i
  let sl := k.maskSilt.filter (· ≠ key)
  if isSilt bs then { k with maskSilt := sl ++ [key] }
  else { k with maskSilt := sl,
                maskBytes := (bs.zip (List.range 64)).foldl (fun t p =>
                  if p.1 = 0 then tdel t (slot * 8192 + 64 * i + p.2) else tput t (slot * 8192 + 64 * i + p.2) p.1) k.maskBytes }

def useSlot (k : Core) (slot : Nat) : Core := if k.maskUsed.contains slot then k else { k with maskUsed := k.maskUsed ++ [slot] }

/-- R208: the offset is 64-byte aligned and the 8 KiB lie in the scratchpad. -/
def slotRange (off : Nat) : Bool := off % 64 == 0 && decide (off + 8192 ≤ spadBytes)

def spillSlot (s : State) (c slot off : Nat) : State :=
  if !slotRange off then endTaskSeq s c .badCommand 0
  else
    let t := schedTouch s c true (granOffs off 8192)
    if !t.2 then t.1
    else
      let k := getCore t.1 c
      bump (putBytes (meterCore t.1 c 7 128) (spadBase c + off) ((List.range 128).flatMap (slotGranule k slot))) .coMskSpill c 1

def execMaskSlotSpill (core : CoreId) (slot : Fin 128) (off : Nat) (s : State) : Host.Outcome State Fault Refusal :=
  .next (if coreRuns s core then spillSlot s core slot off else s)

def fillSlot (s : State) (c slot off : Nat) : State :=
  if !slotRange off then endTaskSeq s c .badCommand 0
  else
    let t := schedTouch s c false (granOffs off 8192)
    if !t.2 then t.1
    else
      let r := spadFetch t.1 c off 8192
      let k := ((chunks 64 r.bytes).zip (List.range 128)).foldl (fun k p => putSlot k slot p.2 p.1) (getCore r.st c)
      bump (setCore r.st c (useSlot k slot)) .coMskSpill c 1

def execMaskSlotFill (core : CoreId) (slot : Fin 128) (off : Nat) (s : State) : Host.Outcome State Fault Refusal :=
  .next (if coreRuns s core then fillSlot s core slot off else s)

/-! ### Checksum unit passes -/

/-- Scratchpad offsets of a core's own granules in device ranges. -/
def ownOffs (c : Nat) (ranges : List Range) : List Nat :=
  ranges.flatMap (fun x => match placeOf x.off with
    | .spad y o => if y = c then granOffs o x.len else []
    | _ => [])

/-- The commit ranges of the stage that a core runs (R292): those in the scratchpad of the stage's core follow the stage to where it runs. -/
def commitRanges (s : State) (c : Nat) : List Range :=
  ((taskStage s c).map (·.commit)).getD [] |>.map (fun r => match placeOf r.off with
    | .spad _ o => { r with off := spadBase c + o }
    | _ => r)

/-- A commit check reads every granule of the declared ranges, by scheduled reads; a range that the task may not read ends the sequence
(R308), and so does the first silted granule (R292-R294). -/
def commitCheckOp (s : State) (c : Nat) : State :=
  let ranges := commitRanges s c
  match ranges.find? (fun x => !taskAllows s c .rd x.off x.len) with
  | some x => endTaskSeq s c .windowViolation (x.off / 64)
  | none =>
    let t := schedPass s c (ownOffs c ranges) []
    if !t.2 then t.1
    else
      let r := ranges.foldl (fun (acc : State × Option Nat) x =>
        let f := unitFetch acc.1 c x.off x.len
        let hit := if x.len = 0 then none
          else ((List.range ((x.off + x.len - 1) / 64 - x.off / 64 + 1)).map (x.off / 64 + ·)).find? (fun g => isSilt (granuleBytes f.2 g))
        (f.2, acc.2.or hit)) (t.1, none)
      match r.2 with
      | some g => endTaskSeq r.1 c .poisonConsumed g
      | none => r.1

/-- `upset`, by granule, is the disturbance that the check's reads meet (R281, log entry 2). -/
def execCommitCheck (core : CoreId) (upset : List (Nat × List (Nat × Nat))) (s : State) : Host.Outcome State Fault Refusal :=
  .next (if coreRuns s core then commitCheckOp (upset.foldl (fun s u => disturb s u.1 u.2) s) core else s)

/-- Rows of a tile in the core's scratchpad, block fields after the last row (log entry 22). -/
def tileRows (s : State) (c : Nat) (f : Fmt) (rows k off pitch : Nat) : List (List FV) × Bool × State :=
  let nb := if fmtBlock f = 0 then 0 else (k + fmtBlock f - 1) / fmtBlock f
  let sf := (off + rows * pitch + 63) / 64 * 64
  (List.range rows).foldl (fun acc m =>
    let e := readElems acc.2.2 c f k (off + m * pitch) (sf + m * nb)
    (acc.1 ++ [e.vals], acc.2.1 || e.silt, e.st)) (([] : List (List FV)), false, s)

/-- The activation checksum pair of a tile: 1ᵀX then vᵀX, one value per reduction index (R228, R229). -/
def pairOf (int : Bool) (rows : List (List FV)) (k : Nat) : List W32 × List W32 :=
  let col := fun j => rows.map (fun r => r.getD j (.num false 0 0))
  ((List.range k).map (fun j => accWord int (sumSeq int (col j))),
   (List.range k).map (fun j => accWord int (sumSeq int (weightedF int (col j)))))

def wordsBytes (ws : List W32) : List Byte := ws.flatMap (fun w => leBytes 4 w.toNat)

/-- Offsets of a tile's granules: its rows, and the block fields after the last (log entry 22). -/
def tileOffs (f : Fmt) (rows k off pitch : Nat) : List Nat :=
  let nb := if fmtBlock f = 0 then 0 else (k + fmtBlock f - 1) / fmtBlock f
  ((List.range rows).flatMap (fun m => granOffs (off + m * pitch) (elemBytes f k)) ++
    granOffs ((off + rows * pitch + 63) / 64 * 64) (rows * nb)).eraseDups

/-- An intake pass reads a tile at 4 KiB a cycle and writes its pair (R228, R229); a silted granule of the tile makes the pair the silt
pattern (Table HBM-4). -/
def intakeOp (s : State) (c : Nat) (f : Fmt) (rows k off pitch pairOff : Nat) : State :=
  let offs := tileOffs f rows k off pitch
  if !spadSpan pairOff (8 * k) ∨ offs.any (fun o => decide (spadBytes ≤ o)) then endTaskSeq s c .badCommand 0
  else
    let t := schedPass s c offs (granOffs pairOff (8 * k))
    if !t.2 then t.1
    else
      let x := tileRows t.1 c f rows k off pitch
      let p := pairOf (fmtIsInt f) x.1 k
      let bs := wordsBytes (p.1 ++ p.2)
      let out := if x.2.1 then (List.replicate ((bs.length + 63) / 64) siltBytes).flatten else bs
      putUnaligned x.2.2 c (spadBase c + pairOff) out

def execIntakePass (core : CoreId) (fmt : Fmt) (rows k off pitch pairOff : Nat) (s : State) :
    Host.Outcome State Fault Refusal :=
  .next (if coreRuns s core then intakeOp s core fmt rows k off pitch pairOff else s)

/-- One reduction row's checksum values: both halves, or the one half of a split-half tensor (Table CHK-2, R225). -/
def chkRow (int : Bool) (left : Nat) (row : List FV) : List W32 :=
  let half := fun (vs : List FV) => [chkWord int vs, chkWord int (weighted vs)]
  if left = row.length then half row else half (row.take left) ++ half (row.drop left)

/-- A tile of weights at device addresses: values by reduction row, element bits, block fields (R225, R298). -/
def weightTile (s : State) (c : Nat) (f : Fmt) (k w a sfA : Nat) : List (List Nat) × List Nat × Bool × State :=
  let x := unitFetch s c a (elemBytes f (k * w))
  let nb := if fmtBlock f = 0 then 0 else (k + fmtBlock f - 1) / fmtBlock f * w
  let q := unitFetch x.2 c sfA nb
  let es := unpackElems f (k * w) x.1
  (chunks w es, q.1.map (·.toNat), siltIn q.2 a (elemBytes f (k * w)) || siltIn q.2 sfA nb, q.2)

/-- Value of element (k, n) of a weight tile: block k / block length of column n (R225). -/
def tileVal (f : Fmt) (w : Nat) (els : List (List Nat)) (sf : List Nat) (k n : Nat) : FV :=
  decodeElem f ((els.getD k []).getD n 0) (if fmtBlock f = 0 then 0 else sf.getD (k / fmtBlock f * w + n) 0)

/-- A side-table refresh reads a tile and writes its new entry (R225-R227): in the core's own scratchpad by scheduled accesses; silt makes
the entry the silt pattern (Table HBM-4). -/
def refreshOp (s : State) (c : Nat) (f : Fmt) (k w left tile sf side : Nat) : State :=
  let ok := taskAllows s c
  let nb := if fmtBlock f = 0 then 0 else (k + fmtBlock f - 1) / fmtBlock f * w
  let n := if left = w then 8 * k + nb else 16 * k + nb
  if !ok .rd tile (elemBytes f (k * w)) || !ok .rd sf nb || !ok .wr side n then
    endTaskSeq s c .windowViolation (tile / 64)
  else
    let rs := ownOffs c [⟨tile, elemBytes f (k * w)⟩, ⟨sf, nb⟩]
    let p := schedPass s c rs.eraseDups (ownOffs c [⟨side, n⟩])
    if !p.2 then p.1
    else
      let t := weightTile p.1 c f k w tile sf
      let rows := (List.range k).map (fun i => chkRow (fmtIsInt f) left ((List.range w).map (tileVal f w t.1 t.2.1 i)))
      let bs := rows.flatMap wordsBytes ++ t.2.1.map (BitVec.ofNat 8)
      let out := if t.2.2.1 then (List.replicate ((bs.length + 63) / 64) siltBytes).flatten else bs
      unitWrite t.2.2.2 c side out

def execSideTableRefresh (core : CoreId) (fmt : Fmt) (k w left : Nat) (tile sf side : Addr) (s : State) :
    Host.Outcome State Fault Refusal :=
  .next (if coreRuns s core then refreshOp s core fmt k w left tile.toNat sf.toNat side.toNat else s)

end Sys2Proof.Machine
end

