-- ==== Sys2Proof/Machine/Arrays.lean ====
section
/-!
DEFINITION. The twin matrix arrays (03_matrix_arrays): weight loads, step units and accumulator banks.
-/
namespace Sys2Proof.Machine

/-! ### Halves, modes and tiles (R59, R84, R93) -/

def halfIx : Half → Nat
  | .whole => 0 | .left => 1 | .right => 2

/-- Halves that share columns with a half: they use the same registers and banks. -/
def sharing : Half → List Half
  | .whole => [.whole, .left, .right] | .left => [.whole, .left] | .right => [.whole, .right]

def bankKey (t : Nat) (h : Half) (b : Nat) : Nat := t * 6 + halfIx h * 2 + b
def stageKey (t : Nat) (h : Half) : Nat := t * 3 + halfIx h

/-- Presented columns of an array or half (R81, R84). -/
def halfWidth (s : State) (c : Nat) (h : Half) : Nat :=
  let w := coreWidths s c
  match h with
  | .whole => w.1 | .left => w.2.1 | .right => w.2.2

/-- Columns of an array or half that lie in the left half. -/
def leftWidth (s : State) (c : Nat) (h : Half) : Nat :=
  match h with
  | .right => 0
  | _ => (coreWidths s c).2.1

def modeCode : StepMode → Nat
  | .m8 => 0 | .m4 => 1 | .m16 => 2

/-- Step mode of a product of two operand formats (Table ARR-1); `none` for a pair that no product has (R43). -/
def pairMode (w x : Fmt) : Option StepMode :=
  let wide := fun (f : Fmt) => f == .bf16 || f == .fp16 || f == .g12
  if !fmtArrayOk w || !fmtArrayOk x || fmtIsInt w != fmtIsInt x then none
  else if wide w || wide x then some .m16
  else if w == x && (w == .mxfp4 || w == .int4) then some .m4
  else some .m8

/-- Reduction rows of a tile (Table TIL-1). -/
def modeK : StepMode → Nat
  | .m4 => 256 | _ => 128

/-- Rows that a step unit carries (Table ARR-1). -/
def unitRows : StepMode → Nat
  | .m16 => 1 | _ => 2

/-- Every product of the stage that a core runs has no rows or no columns at the run-time shape: nothing is loaded, streamed, drained or
committed for it (R98). -/
def productsEmpty (s : State) (c : Nat) : Bool :=
  match taskStage s c with
  | none => false
  | some st => !st.products.isEmpty && st.products.all (fun p =>
    extentOf (taskShape s c) p.m == 0 || extentOf (taskShape s c) p.n == 0)

/-- The core's arrays follow their schedule in this cycle. -/
def arrayRuns (s : State) (c : Nat) : Bool := coreRuns s c && !productsEmpty s c

/-- A bank that still takes units. -/
def Bank.taking (b : Bank) : Bool := b.isOpen && !b.final

/-- A bank whose last row the drain has read, or that has never been opened (R68). -/
def Bank.free (b : Bank) : Bool := !b.isOpen || (b.final && decide (b.rows ≤ b.drained))

/-- Some bank of these twins that shares columns with a half, in either buffer, meets a condition. -/
def bankAny (k : Core) (ts : List Nat) (h : Half) (p : Bank → Bool) : Bool :=
  ts.any (fun t => (sharing h).any (fun g => [0, 1].any (fun b => ((tget k.banks (bankKey t g b)).map p).getD false)))

/-! ### Weight loads (R62-R67, R85) -/

/-- Bytes a … a+n-1 out of arrived granules, and whether any is silt. -/
def gotBytes (got : Tab (List Byte)) (a n : Nat) : List Byte × Bool :=
  if n = 0 then ([], false)
  else
    let gs := (List.range ((a + n - 1) / 64 - a / 64 + 1)).map (fun i => tgetD got (a / 64 + i) [])
    ((gs.flatten.drop (a % 64)).take n, gs.any isSilt)

/-- Block fields of a tile of k reduction rows and w columns (R225). -/
def tileFields (f : Fmt) (k w : Nat) : Nat := if fmtBlock f = 0 then 0 else (k + fmtBlock f - 1) / fmtBlock f * w

def loadDataBytes (op : LoadOp) : Nat := elemBytes op.fmt (op.k * op.w)
def loadFields (op : LoadOp) : Nat := tileFields op.fmt op.k op.w
/-- Bytes of checksum weights per reduction row: 16, or 8 for one half (R85, R225). -/
def chkBytes (h : Half) : Nat := if h = .whole then 16 else 8

/-- Length n of a weight load (R62): its data at 4,096 bytes a cycle beside its side bytes at 1,024. Side bytes of a narrowed core's tile are
those of 128 columns (R83), of a half those of its own columns (R85). -/
def loadCycles (h : Half) (f : Fmt) (k w : Nat) (checks : Bool) : Nat :=
  let side := tileFields f k (if h = .whole then 128 else w) + (if checks then chkBytes h * k else 0)
  max ((elemBytes f (k * w) + 4095) / 4096) ((side + 1023) / 1024)

/-- The tile that a completed load writes into the shadow registers. -/
def loadTile (l : LoadPend) (checks : Bool) : WTile :=
  let op := l.op
  let d := gotBytes l.got op.data.toNat (loadDataBytes op)
  let f := gotBytes l.got op.sf.toNat (loadFields op)
  let rows := if l.trans then op.w else op.k
  let nb := chkBytes op.half
  let q := if checks then gotBytes l.got op.side.toNat (nb * rows) else ([], false)
  let els := chunks op.w (unpackElems op.fmt (op.k * op.w) d.1)
  let els := if l.trans then (List.range op.w).map (fun n => els.map (fun r => r.getD n 0)) else els
  { fmt := op.fmt, k := rows, w := if l.trans then op.k else op.w, left := op.left, trans := l.trans,
    els := els, sf := f.1.map (·.toNat),
    chk := (chunks nb q.1).map (fun r => (chunks 4 r).map (fun b => w32 (leNat b))),
    silt := d.2 || f.2 || q.2 }

/-- Granules of a byte range. -/
def granulesOf (a n : Nat) : List Nat := if n = 0 then [] else (List.range ((a + n - 1) / 64 - a / 64 + 1)).map (a / 64 + ·)

/-- READ_REQ for one granule of a weight stream: pool port where a cache range serves it, else its owner (R148, R158, R278). -/
def readPacket (s : State) (c g : Nat) : Packet :=
  let p := mkPkt (taskCls s c) c 0 (coreStamp s c) g 0
  match placeOf (g * 64) with
  | .hbm a =>
    let viaPool := match corePart s c with
      | some q => (cacheRange s (coreField c) q a).isSome
      | none => false
    { p with dst := if viaPool then 240 + coreCluster c else hbmPort (mode1 s) a }
  | .pool f _ => { p with dst := poolPort c f (g * 64) }
  | .spad x _ => { p with dst := x }
  | _ => p

/-- The tile of a load is whole (R83, R94): the presented width of its half, a K-tile of Table TIL-1. A transposing load takes the tiles
of R67. -/
def loadShapeOk (s : State) (c : Nat) (op : LoadOp) (trans : Bool) : Bool :=
  fmtArrayOk op.fmt && op.w == halfWidth s c op.half && op.left == (if op.half = .whole then (coreWidths s c).2.1 else op.w) &&
  (op.k == 128 || (op.k == 256 && (op.fmt == .mxfp4 || op.fmt == .int4))) &&
  (!trans || (transposable op.fmt && op.half == .whole && op.k == 128 && op.w == 128))

/-- The shadow registers of a load's columns are still to be written or to be swapped in: by an earlier load whose data are awaited, or by a
twin that accumulates and has not passed its swap slot (R64, R101). -/
def loadEarly (k : Core) (h : Half) : Bool :=
  k.loads.any (fun l => (sharing h).contains l.op.half) ||
  [0, 1].any (fun t => (sharing h).any (fun g => k.unswapped.contains (stageKey t g)) && bankAny k [t] h Bank.taking)

/-- The granules that a weight load reads (R62, R225): data, block fields and, with checks on, checksum weights. -/
def loadGranules (s : State) (c : Nat) (op : LoadOp) (trans : Bool) : List Nat :=
  (granulesOf op.data.toNat (loadDataBytes op) ++ granulesOf op.sf.toNat (loadFields op) ++
    (if coreChecks s c then granulesOf op.side.toNat (chkBytes op.half * (if trans then op.w else op.k)) else [])).eraseDups

/-- A granule lies in a core's own scratchpad. -/
def ownGranule (c g : Nat) : Bool :=
  match placeOf (g * 64) with
  | .spad x _ => x == c
  | _ => false

/-- Scheduled reads of a load: 64 granules of the tile and 16 of its side bytes a cycle (R62, R201). -/
def loadSched (op : LoadOp) (mine : List Nat) : List (List (Nat × Bool)) :=
  let d := granulesOf op.data.toNat (loadDataBytes op)
  let rd := fun (n : Nat) (gs : List Nat) => chunks n (gs.map (fun g => (g, false)))
  mergeCycles (rd 64 (mine.filter d.contains)) (rd 16 (mine.filter (fun g => !d.contains g)))

/-- Issue a load (R62, R65): the granules in the core's own scratchpad are scheduled reads (R201), the others are requested. A load that
comes before the swap of the one before has no place in a verified schedule, and none here (log entry 73). -/
def issueLoad (s : State) (c : Nat) (op : LoadOp) (trans : Bool) : State :=
  if !loadShapeOk s c op trans then endTaskSeq s c .badCommand 0
  else if loadEarly (getCore s c) op.half then s
  else
    let gs := loadGranules s c op trans
    match gs.find? (fun g => !taskAllows s c .rd (g * 64) 64) with
    | some g => endTaskSeq s c .windowViolation g
    | none =>
      let mine := gs.filter (ownGranule c)
      let far := gs.filter (fun g => !ownGranule c g)
      if !far.isEmpty && injectionFull s c (vcOf .readReq (readPacket s c (far.headD 0))) then creditHold s c .injection
      else
        let t := schedCycles (releaseHold s c .injection) c (loadSched op mine)
        if !t.2 then t.1
        else
          let r := mine.foldl (fun (acc : Tab (List Byte) × State) g =>
            let x := unitFetch acc.2 c (g * 64) 64
            (tput acc.1 g x.1, x.2)) (([] : Tab (List Byte)), t.1)
          let s := modCore r.2 c (fun k => { k with loads := k.loads ++ [⟨op, trans, far, r.1⟩] })
          sendAll s .readReq (far.map (readPacket s c))

/-- The core issues its load, or presents it again after an injection hold (R107). -/
def loadRuns (s : State) (c : Nat) : Bool := retryRuns s c [.injection] && !productsEmpty s c

def execWeightLoadIssue (core : CoreId) (op : LoadOp) (s : State) : Host.Outcome State Fault Refusal :=
  .next (if loadRuns s core then issueLoad s core op false else s)

def execTransposingLoadIssue (core : CoreId) (op : LoadOp) (s : State) : Host.Outcome State Fault Refusal :=
  .next (if loadRuns s core then issueLoad s core op true else s)

/-! ### Swaps (R63, R65) -/

/-- Put a tile into a twin's registers of a half, in place of what those columns held. -/
def putTile (t : Tab WTile) (twin : Nat) (h : Half) (w : WTile) : Tab WTile :=
  tput ((sharing h).foldl (fun t g => tdel t (stageKey twin g)) t) (stageKey twin h) w

/-- The load of a half has all its data: it is in both twins' shadow registers (R62). -/
def settleLoad (s : State) (c : Nat) (h : Half) : State :=
  let k := getCore s c
  match k.loads.find? (fun l => l.op.half == h && l.need.isEmpty) with
  | none => s
  | some l =>
    let t := loadTile l (coreChecks s c)
    let keep := k.unswapped.filter (fun x => !(sharing h).any (fun g => x == stageKey 0 g || x == stageKey 1 g))
    setCore s c { k with loads := eraseFirst l k.loads, shadow := putTile (putTile k.shadow 0 h t) 1 h t,
                         unswapped := keep ++ [stageKey 0 h, stageKey 1 h] }

/-- Take the swap of a first unit: `none` where its weight data are absent (R63, R65). -/
def takeSwap (s : State) (c : Nat) (op : StepOp) : Option State :=
  let s := settleLoad s c op.half
  let k := getCore s c
  let key := stageKey op.twin op.half
  if k.loads.any (fun l => l.op.half == op.half) then none
  else match tget k.shadow key with
    | none => none
    | some t =>
      let sh := match tget k.active key with
        | none => tdel k.shadow key
        | some old => tput k.shadow key old
      some (setCore s c { k with shadow := sh, active := putTile k.active op.twin op.half t, unswapped := k.unswapped.filter (· ≠ key) })

/-! ### Step units (R59-R61, R72) -/

/-- Values of one presented column of the active tile, and its checksum weights j. -/
def tileCol (t : WTile) (n : Nat) : List FV := (List.range t.k).map (fun k => tileVal t.fmt t.w t.els t.sf k n)

def tileChk (int : Bool) (t : WTile) : List (List FV) :=
  (List.range ((t.chk.headD []).length)).map (fun j => t.chk.map (fun r => accVal int (r.getD j 0)))

/-- Add the products of a row with columns into accumulators from a key on; true where an addition gave an infinity. -/
def accRow (int rounded : Bool) (key : Nat) (x : List FV) (cols : List (List FV)) (v : Tab W32) : Tab W32 × Bool :=
  (cols.zip (List.range cols.length)).foldl (fun (a : Tab W32 × Bool) p =>
    let ps := x.zip p.1
    let y := dotAccEv int (accVal int (tgetD a.1 (key + p.2) 0)) (if rounded then roundProducts int ps else ps)
    (tput a.1 (key + p.2) (accWord int y.1), a.2 || y.2)) (v, false)

/-- A data row: its products with the tile's columns and with its checksum columns. -/
def addRow (b : Bank) (t : WTile) (row : Nat) (x : List FV) : Bank × Bool :=
  let v := accRow b.integer false (row * 128) x ((List.range t.w).map (tileCol t)) b.vals
  let q := accRow b.integer false (row * 4) x (tileChk b.integer t) b.colChk
  ({ b with vals := v.1, colChk := q.1 }, v.2 || q.2)

/-- Checksum row i (0: 1ᵀX, 1: vᵀX): its products, each rounded, with the tile's columns and checksum columns (R72). -/
def addChkRow (b : Bank) (t : WTile) (i : Nat) (x : List FV) : Bank × Bool :=
  let v := accRow b.integer true (i * 132) x ((List.range t.w).map (tileCol t)) b.rowChk
  let q := accRow b.integer true (i * 132 + 128) x (tileChk b.integer t) v.1
  ({ b with rowChk := q.1 }, v.2 || q.2)

/-- A row of activations out of transposed reads: the pieces of 64 elements that they return for it (R138, R199). -/
def treadRow (k : Core) (reads : List Nat) (row : Nat) : List Byte := reads.flatMap (fun o => (tgetD k.tread o []).getD row [])

/-- Scratchpad granules that the rows of a unit are read from. -/
def rowOffs (src : RowSrc) (f : Fmt) (n k : Nat) : List Nat :=
  match src with
  | .plain off pitch sfOff sfPitch => ((List.range n).flatMap (fun i => granOffs (off + i * pitch) (elemBytes f k) ++
      (if fmtBlock f = 0 then [] else granOffs (sfOff + i * sfPitch) ((k + fmtBlock f - 1) / fmtBlock f)))).eraseDups
  | .transposed _ _ => []

/-- Values of row i of a unit. -/
def rowVals (s : State) (c : Nat) (src : RowSrc) (f : Fmt) (k i : Nat) : List FV × Bool × State :=
  match src with
  | .plain off pitch sfOff sfPitch =>
    let e := readElems s c f k (off + i * pitch) (sfOff + i * sfPitch)
    (e.vals, e.silt, e.st)
  | .transposed reads row =>
    let bs := treadRow (getCore s c) reads (row + i)
    (decodeElems f (unpackElems f k bs) [], (chunks 64 bs).any isSilt, s)

/-- The rows are there: a transposed source has been read, for the whole reduction tile. -/
def rowsThere (s : State) (c : Nat) (src : RowSrc) (f : Fmt) (n k : Nat) : Bool :=
  match src with
  | .plain _ _ _ _ => true
  | .transposed reads row => (List.range n).all (fun i => (treadRow (getCore s c) reads (row + i)).length == elemBytes f k)

/-- The rows of a data unit. -/
def dataUnit (s : State) (c : Nat) (op : StepOp) (t : WTile) (n : Nat) (b : Bank) : Bank × Bool × State :=
  let r := (List.range n).foldl (fun (a : Bank × Bool × State) i =>
    let x := rowVals a.2.2 c op.src op.xfmt t.k i
    let y := addRow a.1 t (op.row + i) x.1
    ({ y.1 with silt := y.1.silt || x.2.1 || t.silt, entered := tput y.1.entered (op.row + i) (schedCount s c) }, a.2.1 || y.2, x.2.2))
    (b, false, s)
  let b := op.upset.foldl (fun b u =>
    if u.1 < 512 ∧ u.2.1 < 128 then { b with vals := tmod b.vals (u.1 * 128 + u.2.1) 0 (· ^^^ u.2.2) } else b) r.1
  ({ b with kSum := if op.row = 0 then b.kSum + t.k else b.kSum }, r.2)

/-- The two rows of a checksum unit. -/
def pairUnit (s : State) (c : Nat) (op : StepOp) (t : WTile) (b : Bank) : Bank × Bool × State :=
  let int := b.integer
  let vals := fun (r : Fetched) => (chunks 4 r.bytes).map (fun x => accVal int (w32 (leNat x)))
  let x := spadFetch s c op.sums (4 * t.k)
  let y := spadFetch x.st c op.wsums (4 * t.k)
  let p := addChkRow b t 0 (vals x)
  let q := addChkRow p.1 t 1 (vals y)
  let silt := siltIn y.st (spadBase c + op.sums) (4 * t.k) || siltIn y.st (spadBase c + op.wsums) (4 * t.k)
  ({ q.1 with silt := q.1.silt || t.silt || silt }, p.2 || q.2, y.st)

/-- A bank still accumulates in the other of whole and split operation, or in the other half with other operand formats (R84, R88). -/
def otherMode (k : Core) (op : StepOp) (wfmt : Fmt) : Bool :=
  k.banks.any (fun e => e.2.taking &&
    (((e.1 % 6 < 2) != (op.half == .whole)) ||
      (op.half != .whole && e.2.wfmt != 0 && (e.2.wfmt, e.2.xfmt) != (fmtCode wfmt, fmtCode op.xfmt))))

/-- The bank takes the rows of a unit: it is open and the drain has read none of them; checksum rows while any is unread. -/
def unitFits (b : Bank) (op : StepOp) (n : Nat) : Bool :=
  b.isOpen && (if op.pair then decide (b.drained < b.rows) else decide (b.drained ≤ op.row) && decide (op.row + n ≤ b.rows))

/-- Process a unit with the weights in force. A unit of a closed bank, of rows that the tile has not or that the drain has read, in the other
mode than a bank that still accumulates (R84, R88), or of checksum rows with checks off (R73) has no place in a verified schedule (log
entry 73); a pair of formats or a tile that no product has is BAD_COMMAND (R43, R93). -/
def runUnit (s : State) (c : Nat) (op : StepOp) : State :=
  let k := getCore s c
  let bk := bankKey op.twin op.half op.bank
  match tget k.active (stageKey op.twin op.half), tget k.banks bk with
  | some t, some b =>
    match pairMode t.fmt op.xfmt with
    | none => endTaskSeq s c .badCommand 0
    | some m =>
      let int := fmtIsInt t.fmt
      let n := unitRows m
      if !unitFits b op n || otherMode k op t.fmt || (op.pair && !coreChecks s c) ||
          !rowsThere s c op.src op.xfmt (if op.pair then 0 else n) t.k then s
      else if t.k ≠ modeK m || b.integer != int then endTaskSeq s c .badCommand 0
      else
        let offs := if op.pair then (granOffs op.sums (4 * t.k) ++ granOffs op.wsums (4 * t.k)).eraseDups else rowOffs op.src op.xfmt n t.k
        let x := schedTouch s c false offs
        if !x.2 then x.1
        else
          let b := { b with wfmt := fmtCode t.fmt, xfmt := fmtCode op.xfmt }
          let r := if op.pair then pairUnit x.1 c op t b else dataUnit x.1 c op t n b
          let s := setReg r.2.2 .coArrMode c (putBits (rawReg r.2.2 .coArrMode c) 0 2 (modeCode m))
          let s := meterCore (setEventIf r.2.1 s .coArrEvent c 3) c (modeCode m) (if op.pair then 0 else n * t.k * t.w)
          modCore s c (fun k => { k with split := op.half ≠ .whole, banks := tput k.banks bk r.1 })
  | _, _ => s

/-- A step unit's slot: the swap, held until its weights have arrived, then the unit (R60, R63, R65). -/
def stepUnit (s : State) (c : Nat) (op : StepOp) : State :=
  if op.swap then
    match takeSwap s c op with
    | none => creditHold (setEvent s .coSchEvent c 1) c (.swap op.twin)
    | some s => runUnit (releaseHold s c (.swap op.twin)) c op
  else runUnit s c op

/-- The core runs, or is held only for this twin's absent weights, whose slot is presented again (R65). -/
def unitRuns (s : State) (c : Nat) (op : StepOp) : Bool :=
  retryRuns s c (if op.swap then [.swap op.twin] else []) && !productsEmpty s c

def execStepUnitSlot (core : CoreId) (op : StepOp) (s : State) : Host.Outcome State Fault Refusal :=
  .next (if unitRuns s core op then stepUnit s core op else s)

/-! ### Banks (R68-R70) -/

def Bank.fresh (rows : Nat) (integer : Bool) : Bank :=
  { isOpen := true, final := false, integer := integer, rows := rows, entered := [], drained := 0, silt := false, kSum := 0,
    wfmt := 0, xfmt := 0, vals := [], colChk := [], rowChk := [] }

/-- A bank opens with zeros of its type unless the drain has rows of its columns still to read (R68, R69). -/
def openBank (s : State) (c t : Nat) (h : Half) (bank rows : Nat) (integer : Bool) : State :=
  let k := getCore s c
  let free := (sharing h).all (fun g => ((tget k.banks (bankKey t g bank)).map Bank.free).getD true)
  if free && decide (rows ≤ 512) then
    setCore s c { k with banks := tput ((sharing h).foldl (fun b g => tdel b (bankKey t g bank)) k.banks) (bankKey t h bank) (Bank.fresh rows integer) }
  else s

def execBankOpen (core : CoreId) (twin : TwinId) (half : Half) (bank : Fin 2) (rows : Nat) (integer : Bool) (s : State) :
    Host.Outcome State Fault Refusal :=
  .next (if arrayRuns s core then openBank s core twin half bank rows integer else s)

def finalBank (s : State) (c t : Nat) (h : Half) (bank : Nat) : State :=
  modCore s c (fun k => match tget k.banks (bankKey t h bank) with
    | none => k
    | some b => { k with banks := tput k.banks (bankKey t h bank) { b with final := true } })

def execMarkFinal (core : CoreId) (twin : TwinId) (half : Half) (bank : Fin 2) (s : State) : Host.Outcome State Fault Refusal :=
  .next (if arrayRuns s core then finalBank s core twin half bank else s)

end Sys2Proof.Machine
end

