-- ==== Sys2Proof/Machine/Conns.lean ====
section
/-!
DEFINITION. Connection contexts of the Aeldal transport (19_module, R472, R473): opening at first use (log entry 47), and sending
over the ports that are up.
-/
namespace Sys2Proof.Machine

/-- A context as it opens: every port in its set, nothing sent. -/
def Conn.fresh (part : Nat) : Conn :=
  { part := part, ports := List.range 16, isOpen := true, dropped := 0, unit := 0, off := 0, held := [], rx := [], tx := [] }

def getConn (s : State) (n : Nat) : Option Conn := tget s.conns n
def setConn (s : State) (n : Nat) (v : Conn) : State := { s with conns := tput s.conns n v }

/-- A partition may send through a context: 8,192 of them, none open for another partition. -/
def connFree (s : State) (n part : Nat) : Bool :=
  decide (n < 8192) && (match getConn s n with
    | none => true
    | some v => !v.isOpen || v.part == part)

/-- The context for a partition's use, opened where it is not. -/
def connFor (s : State) (n part : Nat) : Conn :=
  match getConn s n with
  | none => Conn.fresh part
  | some v => if v.isOpen then v else Conn.fresh part

def portUp (s : State) (p : Nat) : Bool := (getPort s p).st == 3

/-- Port that carries a context's next packet: the one asked for where it is up, else the ports that are up in turn (log entry 47). -/
def sendPort (s : State) (v : Conn) (ask : Option Nat) : Option Nat :=
  let ups := v.ports.filter (portUp s)
  match ask with
  | some p => if ups.contains p then some p else ups[v.tx.length % ups.length]?
  | none => ups[v.tx.length % ups.length]?

/-- Send a packet on a context, stamped by its port's counter; with no port up it is held, and its core is credit-held (R472). -/
def connSend (s : State) (n : Nat) (v : Conn) (ask core : Option Nat) (data : List Byte) : State :=
  match sendPort s v ask with
  | some p => meter (setConn s n { v with tx := v.tx ++ [(p, ethCount s p, data)] }) (some v.part) 12 data.length
  | none =>
    let s := setConn s n { v with held := v.held ++ [(core, data)] }
    match core with
    | some c => creditHold s c .injection
    | none => s

/-- Packets that a context holds leave in order once a port is up, and their cores go on. -/
def connFlush (s : State) (n : Nat) : State :=
  match getConn s n with
  | none => s
  | some v =>
    if v.held.isEmpty || (sendPort s v none).isNone then s
    else
      let s := setConn s n { v with held := [] }
      v.held.foldl (fun s e =>
        let s := match e.1 with
          | some c => releaseHold s c .injection
          | none => s
        connSend s n ((getConn s n).getD v) none e.1 e.2) s

end Sys2Proof.Machine
end

