-- ==== Sys2Proof/Machine/Drain.lean ====
section
/-!
DEFINITION. The drain of the arrays (R74-R78, R199-R213), the checks of its tiles and their repeat (09_arithmetic_checks), and the commit.
-/
namespace Sys2Proof.Machine

/-! ### Mask-bit slots (R206, R207, R210) -/

/-- Bit c of row r of a plane in the mask-bit store. -/
def maskBit (k : Core) (slot r n : Nat) : Bool := (tgetD k.maskBytes (slot * 8192 + 16 * r + n / 8) 0).getLsbD (n % 8)

/-- A drain takes a slot for a plane: the bits beyond its tile are zero, and no granule of it is silt until the tile commits as silt. -/
def freshSlot (k : Core) (slot : Nat) : Core :=
  { useSlot k slot with maskBytes := tfilter (fun a => a / 8192 ≠ slot) k.maskBytes, maskSilt := k.maskSilt.filter (fun g => g / 128 ≠ slot) }

/-- Write the bits of row r of a plane. -/
def putMaskRow (k : Core) (slot : Option (Fin 128)) (r : Nat) (bits : List Bool) : Core :=
  match slot with
  | none => k
  | some q =>
    let k := if r = 0 then freshSlot k q else k
    ((chunks 8 bits).zip (List.range 16)).foldl (fun k x =>
      let b := BitVec.ofNat 8 ((x.1.zip (List.range 8)).map (fun y => b2n y.1 * 2 ^ y.2)).sum
      if b = 0 then k else { k with maskBytes := tput k.maskBytes (q * 8192 + 16 * r + x.2) b }) k

/-- The function bit of R206. -/
def fnBit (v : FV) : Bool := v.isNaN || (FV.num false 0 0).lt v

/-- A mask granule that feeds row r carries silt (R210). -/
def maskSilted (k : Core) (e : Epilogue) (r : Nat) : Bool :=
  e.backward && [e.fnSlot, e.keepSlot].any (fun q => match q with
    | some q => k.maskSilt.contains (q.val * 128 + r / 4)
    | none => false)

/-! ### Steps 3 to 6 (R75-R78, R211, R212) -/

/-- What a drain needs to know of its tile: core, twin, half, its columns, those of its left half, the bank, the epilogue. -/
structure DrainCtx where
  core : Nat
  twin : Nat
  half : Half
  w : Nat
  left : Nat
  bank : Bank
  epi : Epilogue

def drainCtx (s : State) (c t : Nat) (h : Half) (b : Bank) (e : Epilogue) : DrainCtx :=
  ⟨c, t, h, halfWidth s c h, leftWidth s c h, b, e⟩

/-- Draw number of a lane for an output row: each lane converts its elements in increasing row order; the M-tile index is twice the row
group plus the twin (R54). -/
def drainDraw (seed : W64) (x : DrainCtx) (r n : Nat) : Nat :=
  drawAt (r / 2) (seedLane seed ((2 * x.epi.group + x.twin) % 2 ^ 24) (x.epi.nTile % 2 ^ 24) (128 * (r % 2) + n))

/-- Scale, bias, function, mask and dropout of one output: its value and its function and keep bits. -/
def drainElem (k : Core) (x : DrainCtx) (seed : W64) (r n : Nat) (scale bias : Option W32) (side : Option FV) (v : FV) :
    FV × Bool × Bool :=
  let e := x.epi
  let v := match scale with
    | some w => (v.mul (fp32Val w)).toF32
    | none => v
  let v := match bias with
    | some w => fadd v (fp32Val w)
    | none => v
  let fb := fnBit v
  let zero : FV := .num false 0 0
  let one : FV := .num false 1 0
  if e.backward then
    let g := match e.keepSlot, e.dropout with
      | some q, some (_, d) => fmul v (if maskBit k q r n then fp32Val d else zero)
      | _, _ => v
    let dv := match e.func with
      | .relu => if (e.fnSlot.map (fun q => maskBit k q r n)).getD false then one else zero
      | .leaky => if (e.fnSlot.map (fun q => maskBit k q r n)).getD false then one else fp32Val e.slope
      | .identity => one
      | f => derivElem f e.lo e.hi (side.getD .nan)
    (if e.func = .identity then g else fmul g dv, fb, false)
  else
    let v := drainFunc e.func e.slope e.lo e.hi v
    match e.dropout with
    | none => (v, fb, false)
    | some (thr, d) =>
      let keep := decide (drainDraw (seed ^^^ BitVec.ofNat 64 (2 ^ 63)) x r n < thr.toNat)
      (fmul v (if keep then fp32Val d else zero), fb, keep)

/-- A per-column FP32 vector of a scale or bias, or none. -/
def columnVec (s : State) (c w : Nat) (off : Option Nat) : List (Option W32) × State :=
  match off with
  | some o => let x := readF32s s c o w; (x.1.map some, x.2)
  | none => (List.replicate w none, s)

/-- Element side stream of a backward row, converted exactly (R212). -/
def sideRow (s : State) (x : DrainCtx) (r : Nat) : List FV × Bool × State :=
  let e := x.epi
  let need := e.backward && (match e.func with
    | .identity | .relu | .leaky => false
    | _ => true)
  if need then
    let y := readElems s x.core e.sideFmt x.w (e.sideOff + r * e.sidePitch) 0
    (y.vals, y.silt, y.st)
  else ([], false, s)

/-- Result of steps 3 to 6 of one row: values, whether its side stream was silt, state. -/
structure DrainRow where
  vals : List FV
  silt : Bool
  st : State

def drainValues (s : State) (x : DrainCtx) (r : Nat) : DrainRow :=
  let e := x.epi
  let vs := (List.range x.w).map (fun n => accVal x.bank.integer (tgetD x.bank.vals (r * 128 + n) 0))
  if e.raw then ⟨vs, false, s⟩
  else
    let sc := columnVec s x.core x.w e.scaleOff
    let bi := columnVec sc.2 x.core x.w e.biasOff
    let sd := sideRow bi.2 x r
    let k := getCore sd.2.2 x.core
    let out := (vs.zip (List.range x.w)).map (fun p =>
      drainElem k x (taskSeed s x.core) r p.2 (sc.1.getD p.2 none) (bi.1.getD p.2 none) (sd.1[p.2]?) p.1)
    let k' := if e.backward then k
      else putMaskRow (putMaskRow k e.fnSlot r (out.map (·.2.1))) e.keepSlot r (out.map (·.2.2))
    let silt := sd.2.1 || maskSilted k e r
    ⟨out.map Prod.fst, silt, setEventIf silt (setCore sd.2.2 x.core k') .coBwdEvent x.core 0⟩

/-! ### Steps 7 to 10 (R56, R57, R200, R202, R217) -/

/-- The six sums of a row record (Table BWD-2). -/
def rowRecord (left : Nat) (vs : List FV) : List W32 :=
  let f := fun (l : List FV) => [fp32Of (fsumSeq l), fp32Of (fsumSeq (weightedF false l))]
  f (vs.take left) ++ f (vs.drop left) ++ f vs

/-- Governed scale s of co_fst_ref bits 15:8 and E_ref of bits 7:0. -/
def govScale (s : State) (c : Nat) : Int := signedOf 8 (getBits (rawReg s .coFstRef c) 8 8)
def govRef (s : State) (c : Nat) : Int := signedOf 8 (getBits (rawReg s .coFstRef c) 0 8)

/-- Statistics and histogram of converted values: a governed stream is measured unscaled (R56, R217). -/
def streamStats (s : State) (c : Nat) (governed : Bool) (old : FmtStats) (hist : Tab Nat) (vs : List FV) (o : CvtOut) : FmtStats × Tab Nat :=
  let k := govScale s c
  let true_ := fun (v : FV) => if governed then v.scale (-k) else v
  let st := o.stats.merge old
  ({ st with amax := amaxOf ((vs.map true_) ++ [old.amax]) },
   if governed then vs.foldl (fun h v =>
     if v.isFinite && !v.isZero then tmod h (clampInt (govRef s c - (true_ v).log2) 0 63).toNat 0 (· + 1) else h) hist else hist)

def StagedCopy.fresh : StagedCopy := ⟨0, [], [], [], []⟩

/-- Convert row r into a copy (step 8), with the checksum pair and the row record of the converted values (step 9). -/
def convertCopy (g : StagedCopy) (x : DrainCtx) (ctl : Ctl) (pairs recs : Bool) (r : Nat) (vs : List (FV × Nat)) : StagedCopy × CvtOut :=
  let o := convertRow ctl vs
  let conv := (decodeElems ctl.fmt o.bits o.fields).zip (List.range x.w)
  let int := fmtIsInt ctl.fmt
  let add := fun (a : W32) (v : FV) => accWord int (sumSeq int [accVal int a, v])
  let pair := if pairs then conv.foldl (fun t p =>
    let old := tgetD t p.2 (0, 0)
    let wt := if int then FV.ofInt (intOf p.1 * (r + 1)) 0 else fmul p.1 (.num false (r + 1) 0)
    tput t p.2 (add old.1 p.1, add old.2 wt)) g.pair else g.pair
  let row := fun (t : Tab Nat) (l : List Nat) => (l.zip (List.range l.length)).foldl (fun t p => tput t (r * 128 + p.2) p.1) t
  ({ fmt := fmtCode ctl.fmt, els := row g.els o.bits, sf := row g.sf o.fields, pair := pair,
     recs := if recs then tput g.recs r (rowRecord x.left (conv.map Prod.fst)) else g.recs }, o)

/-- Control byte of step 8: a raw epilogue hands on FP32 or INT32 (R70). -/
def drainCtl (x : DrainCtx) : Option Ctl :=
  if x.epi.raw then some ⟨false, true, .rne, if x.bank.integer then .int32 else .fp32⟩ else ctlOf x.epi.ctl

/-- The control bytes of a drain's conversions are none that is reserved (R33, R46). -/
def drainCtlOk (e : Epilogue) : Bool :=
  e.raw || ((ctlOf e.ctl).isSome && (e.copy.map (fun y => (ctlOf y.ctl).isSome)).getD true)

/-- Drain one row of a bank into staging. With checks off no checksum rows are formed (R73). -/
def drainRow (s : State) (x : DrainCtx) (g : Staging) (r : Nat) : Staging × State :=
  let e := x.epi
  let d := drainValues s x r
  let s := d.st
  let on := coreChecks s x.core && !e.raw
  let vs := fun (c : Ctl) => (d.vals.zip (List.range x.w)).map (fun p => (p.1, if c.rnd = .stoch then drainDraw (taskSeed s x.core) x r p.2 else 0))
  let g := { g with silt := g.silt || x.bank.silt || d.silt }
  match drainCtl x with
  | none => (g, s)
  | some ctl =>
    let m := convertCopy g.main x ctl (on && e.pairOff.isSome) (on && e.recordOff.isSome) r (vs ctl)
    let second := match e.copy, e.copy.bind (fun y => ctlOf y.ctl) with
      | some y, some c2 => if e.raw then g.second
        else some (convertCopy (g.second.getD StagedCopy.fresh) x c2 (on && y.pairOff.isSome) (on && y.recordOff.isSome) r (vs c2)).1
      | _, _ => g.second
    let g := { g with main := m.1, second := second }
    if e.stream.isNone && !e.governed then (g, s)
    else
      let st := streamStats s x.core e.governed g.stats g.hist d.vals m.2
      ({ g with stats := st.1, hist := st.2, nanSrc := g.nanSrc || d.vals.any FV.isNaN }, s)

def Staging.fresh (rows : Nat) (e : Epilogue) : Staging :=
  { rows := rows, main := StagedCopy.fresh, second := none, silt := false, stats := .zero,
    hist := [], nanSrc := false, verdict := none, decided := false, epi := e, src := none }

/-- Drain rows of a bank from scratch (a repeated tile is drained again). -/
def drainAll (s : State) (x : DrainCtx) : Staging × State :=
  (List.range x.bank.rows).foldl (fun (acc : Staging × State) r => drainRow acc.2 x acc.1 r) (Staging.fresh x.bank.rows x.epi, s)

/-- The drain may read a row: its last unit entered 128 cycles ago, or 96 in split operation (R74). -/
def rowDue (s : State) (c : Nat) (h : Half) (b : Bank) (r : Nat) : Bool :=
  ((tget b.entered r).map (fun t => decide (t + (if h = .whole then 128 else 96) ≤ schedCount s c))).getD true

/-- One drain read: the next row pair of a final bank (R74, R75). A read that comes too early, or while the tile before it from the same
bank is still staged, has no place in a verified schedule (log entry 73). -/
def drainReadOp (s : State) (c : Nat) (op : DrainOp) : State :=
  let k := getCore s c
  let bk := bankKey op.twin op.half op.bank
  match tget k.banks bk with
  | none => s
  | some b =>
    let n := min 2 (b.rows - b.drained)
    if !b.final || n = 0 || !(List.range n).all (fun i => rowDue s c op.half b (b.drained + i)) then s
    else if b.drained = 0 && (tget k.staging bk).isSome then s
    else if !drainCtlOk op.epi then endTaskSeq s c .badCommand 0
    else
      let x := drainCtx s c op.twin op.half b op.epi
      let g := (tget k.staging bk).getD (Staging.fresh b.rows op.epi)
      let r := (List.range n).foldl (fun (acc : Staging × State) i => drainRow acc.2 x acc.1 (b.drained + i)) (g, s)
      let b := { b with drained := b.drained + n }
      let g := if b.rows ≤ b.drained then { r.1 with src := some b } else r.1
      modCore r.2 c (fun k => { k with banks := tput k.banks bk b, staging := tput k.staging bk g })

def execDrainRead (core : CoreId) (op : DrainOp) (s : State) : Host.Outcome State Fault Refusal :=
  .next (if arrayRuns s core then drainReadOp s core op else s)

/-! ### The verdict (R79, R230-R232) -/

/-- One comparison: its outcome, and Δ. -/
structure Cmp where
  ok : Bool
  delta : FV

def cmpOne (fast int : Bool) (k l : Nat) (terms : List FV) (ref mag : FV) : Cmp :=
  let c := sumSeq int terms
  let a := if fast then (fsumSeq (terms.map FV.abs)).add ref.abs else mag
  ⟨checkCompare c ref (tolerance fast int k l a), (c.add ref.neg).toF32⟩

/-- A plain comparison and its weighted partner over the same terms, against two references; `zs` are the magnitude pass's terms. -/
def cmpTwo (fast int : Bool) (k : Nat) (ys zs : List FV) (plain wtd : W32) : Cmp × Cmp :=
  (cmpOne fast int k ys.length ys (accVal int plain) (fsumSeq zs),
   cmpOne fast int k ys.length (weightedF int ys) (accVal int wtd) (fsumSeq (weightedF int zs)))

/-- Plain and weighted comparisons of Table CHK-3: column family by (row, first column of the half), row family by column. -/
def tileCompare (fast : Bool) (b mag : Bank) (h : Half) (w left : Nat) : List (Nat × Nat × Cmp × Cmp) × List (Nat × Cmp × Cmp) :=
  let int := b.integer
  let k := (b.kSum + 31) / 32 * 32
  let at_ := fun (x : Bank) (m n : Nat) => accVal int (tgetD x.vals (m * 128 + n) 0)
  let halves := if h = .whole then [(0, left, 0), (left, w - left, 2)] else [(0, w, 0)]
  let cols := (List.range b.rows).flatMap (fun m => halves.map (fun hf =>
    let ns := (List.range hf.2.1).map (hf.1 + ·)
    (m, hf.1, cmpTwo fast int k (ns.map (at_ b m)) (ns.map (at_ mag m)) (tgetD b.colChk (m * 4 + hf.2.2) 0) (tgetD b.colChk (m * 4 + hf.2.2 + 1) 0))))
  let rows := (List.range w).map (fun n =>
    let ms := List.range b.rows
    (n, cmpTwo fast int k (ms.map (fun m => at_ b m n)) (ms.map (fun m => at_ mag m n)) (tgetD b.rowChk n 0) (tgetD b.rowChk (132 + n) 0)))
  (cols, rows)

def tilePasses (fast : Bool) (b mag : Bank) (h : Half) (w left : Nat) : Bool :=
  let x := tileCompare fast b mag h w left
  x.1.all (fun e => e.2.2.1.ok && e.2.2.2.ok) && x.2.all (fun e => e.2.1.ok && e.2.2.ok)

/-- The located output (R232). -/
def locateFault (b : Bank) (h : Half) (w left : Nat) : Option (Nat × Nat) :=
  let x := tileCompare true b b h w left
  match x.1.filter (fun e => !e.2.2.1.ok), x.2.filter (fun e => !e.2.1.ok) with
  | [c], [r] =>
    let hw := if h = .whole then (if c.2.1 = 0 then left else w - left) else w
    match locate c.2.2.1.delta c.2.2.2.delta hw, locate r.2.1.delta r.2.2.delta b.rows with
    | some n, some m => some (m, c.2.1 + n)
    | _, _ => none
  | _, _ => none

/-- Presented column of a half, counted over the whole core. -/
def presentedCol (s : State) (c : Nat) (h : Half) (n : Nat) : Nat := if h = .right then (coreWidths s c).2.1 + n else n

/-- co_chk_last_loc of a failure. -/
def lastLoc (s : State) (c t : Nat) (h : Half) (loc : Option (Nat × Nat)) : W32 :=
  match loc with
  | none => w32 (t * 2 ^ 22 + halfIx h * 2 ^ 23)
  | some (m, n) =>
    w32 (m % 512 + 512 * (n % 128) + 2 ^ 16 * (physColumn s c (presentedCol s c h n) / 2) + 2 ^ 22 * t + 2 ^ 23 * halfIx h + 2 ^ 25)

/-- A staged tile needs a verdict: its core's checks are on, and it is no silt (R73, R90). -/
def needsVerdict (s : State) (c : Nat) (g : Staging) : Bool := coreChecks s c && !g.silt

/-- The verdict of a tile whose last row has been drained. -/
def verdictOp (s : State) (c t : Nat) (h : Half) (bank : Nat) : State :=
  let k := getCore s c
  let sk := bankKey t h bank
  match tget k.staging sk with
  | none => s
  | some g =>
    match g.src, g.verdict with
    | some b, none =>
      if !needsVerdict s c g then s
      else
        let w := halfWidth s c h
        let left := leftWidth s c h
        let ok := tilePasses true b b h w left
        let s := setCore s c { k with staging := tput k.staging sk { g with verdict := some ok } }
        if ok then s
        else
          let s := setEvent (bump s .coArrChkFail c 1) .coArrEvent c 0
          creditHold (setReg s .coChkLastLoc c (lastLoc s c t h (locateFault b h w left))) c .repeatRun
    | _, _ => s

def execChecksumVerdict (core : CoreId) (twin : TwinId) (tile : BankOf) (s : State) : Host.Outcome State Fault Refusal :=
  .next (if arrayRuns s core then verdictOp s core twin tile.half tile.bank else s)

/-! ### The repeat procedure (R233-R235) -/

/-- A bank with the accumulators that a rerun observed. -/
def rerunBank (b : Bank) (r : Rerun) : Bank :=
  let put := fun (w : Nat) (l : List (Nat × Nat × W32)) => l.foldl (fun t e => tput t (e.1 * w + e.2.1) e.2.2) ([] : Tab W32)
  { b with vals := put 128 r.acc, colChk := put 4 r.colChk, rowChk := put 132 r.rowChk }

/-- The pattern-log entry of a permanent fault (R238, Table CHK-5). -/
def arrayEntry (s : State) (c t : Nat) (h : Half) (b : Bank) (loc : Option (Nat × Nat)) (pass : Nat) (cap : Capture) : PEntry :=
  let r := coreRegion c
  let base := { plogHeader c 1 r (getRegion s r).count b.wfmt b.xfmt with
    twin := t, half := halfIx h, mode := getBits (rawReg s .coArrMode c) 0 2 }
  match loc with
  | none => base
  | some (m, n) =>
    { base with located := true, cube := physColumn s c (presentedCol s c h n) / 2, row := m, col := n, pass := pass,
                entering := cap.entering, observed := cap.observed, expected := cap.expected,
                acts := cap.acts.take 256, weights := cap.weights.take 512, blocks := cap.blocks.take 64 }

/-- Put the decided tile into staging; the repeat is under way until its state is restored (R235). -/
def decideTile (s : State) (c sk : Nat) (g : Staging) (e : Option PEntry) : State :=
  modCore s c (fun k => { k with staging := tput k.staging sk { g with verdict := some true, decided := true }, repeating := true, logDue := e })

/-- The check reserve of a scratchpad (R236). -/
def reserveFrom : Nat := 0x02E00000

/-- What a repeat saves, or a sample copies in, lies in the check reserve in an order that the spec does not give: its bytes are open
(R235, R243; log entry 76). -/
def spoilReserve (s : State) (c : Nat) : State := undefine s (spadBase c + reserveFrom) (spadBase c + spadBytes)

/-- The repeat of a failed tile, by Table CHK-4 in its order. Of its own verdicts that of the failing array alone counts in co_arr_chk_fail
(DESIGN CHOICE, log entry 74). -/
def repeatOp (s : State) (c t : Nat) (h : Half) (bank : Nat) (own other magnitude : Rerun) (pass : Nat) (cap : Capture) : State :=
  let k := getCore s c
  let sk := bankKey t h bank
  match tget k.staging sk with
  | none => s
  | some g =>
    match g.src, g.verdict, g.decided with
    | some b, some false, false =>
      let w := halfWidth s c h
      let left := leftWidth s c h
      let o := rerunBank b own
      let x := rerunBank b other
      let mg := rerunBank b magnitude
      let loc := locateFault b h w left
      let s := setEvent (setEvent (spoilReserve s c) .coChkEvent c 0) .coArrEvent c 1
      let take := fun (s : State) (nb : Bank) (e : Option PEntry) =>
        let d := drainAll s (drainCtx s c t h nb g.epi)
        decideTile d.2 c sk { d.1 with src := some nb } e
      if tilePasses true o o h w left then noteTransient (bump (take s o none) .coChkTransient c 1) c
      else
        let s := bump s .coArrChkFail c 1
        let permanent := fun (s : State) =>
          addSuspect (bump (take s x (some (arrayEntry s c t h b loc pass cap))) .coChkPermanent c 1) c
        if tilePasses true x x h w left then permanent s
        else
          let s := if b.integer then s else setEvent s .coChkEvent c 1
          if !b.integer && tilePasses false x mg h w left then
            (if o.vals = x.vals ∧ o.colChk = x.colChk ∧ o.rowChk = x.rowChk then bump (take s x none) .coChkTolerance c 1
             else permanent s)
          else
            let s := bump s .coChkDataside c 1
            let s := report s 0x0017 St.checkPersistent.code (corePart s c) c (rawReg s .coChkLastLoc c).toNat (coreRegion c)
            decideTile s c sk { g with silt := true } none
    | _, _, _ => s

def execRepeatProcedure (core : CoreId) (twin : TwinId) (tile : BankOf) (own other magnitude : Rerun) (firstPass : Nat)
    (cap : Capture) (s : State) : Host.Outcome State Fault Refusal :=
  .next (if coreLive s core then repeatOp s core twin tile.half tile.bank own other magnitude firstPass cap else s)

/-- The repeat ends: state restored, the captured entry logged, the hold released (R235, R237). -/
def repeatDone (s : State) (c t : Nat) (h : Half) (bank : Nat) : State :=
  let k := getCore s c
  match tget k.staging (bankKey t h bank) with
  | none => s
  | some g =>
    if !k.repeating || !g.decided then s
    else
      let s := match k.logDue with
        | some e =>
          let s := plogPut s e
          setEvent (telemeter s 2 (coreRegion c) (corePart s c) (leBytes 2 (s.head.plogNext % 65536) ++ leBytes 2 e.unit)) .coChkEvent c 2
        | none => s
      releaseHold (modCore s c (fun k => { k with repeating := false, logDue := none })) c .repeatRun

def execRepeatComplete (core : CoreId) (twin : TwinId) (tile : BankOf) (s : State) : Host.Outcome State Fault Refusal :=
  .next (if coreLive s core then repeatDone s core twin tile.half tile.bank else s)

/-! ### The commit (R79, R80, R90, R104, R202) -/

/-- Bytes and block fields of row r of a staged copy. -/
def stagedRow (g : StagedCopy) (w r : Nat) : List Byte × List Byte :=
  match fmtOfCode g.fmt with
  | none => ([], [])
  | some f =>
    let nb := if fmtBlock f = 0 then 0 else (w + fmtBlock f - 1) / fmtBlock f
    (packElems f ((List.range w).map (fun n => tgetD g.els (r * 128 + n) 0)),
     (List.range nb).map (fun i => BitVec.ofNat 8 (tgetD g.sf (r * 128 + i) 0)))

/-- Every word of a silted tile is silt (R90). -/
def cover (silt : Bool) (bs : List Byte) : List Byte :=
  if silt then (List.replicate ((bs.length + 63) / 64) siltBytes).flatten else bs

/-- Places of a destination: first row, row pitch, first row of block fields, their pitch. -/
def destPlaces : CommitDest → Nat × Nat × Nat × Nat
  | .spad off pitch sfOff sfPitch | .remote _ _ _ off pitch sfOff sfPitch => (off, pitch, sfOff, sfPitch)
  | .furrowAdd off pitch => (off, pitch, 0, 0)
  | .pool addr pitch | .poolAdd addr pitch => (addr.toNat, pitch, 0, 0)

/-- Runs of a copy: element rows, then block-field rows. -/
def commitRuns (g : StagedCopy) (silt : Bool) (rows w : Nat) (d : CommitDest) : List (Nat × List Byte) :=
  let p := destPlaces d
  (List.range rows).flatMap (fun r =>
    let x := stagedRow g w r
    (p.1 + r * p.2.1, cover silt x.1) :: (if x.2.isEmpty then [] else [(p.2.2.1 + r * p.2.2.2, cover silt x.2)]))

/-- A destination takes a copy: a partial sum goes as FP32 or INT32 rows of whole granules to furrow or the pool (R104); anything else lies in
a scratchpad. -/
def commitFits (g : StagedCopy) (d : CommitDest) (runs : List (Nat × List Byte)) : Bool :=
  match d with
  | .spad _ _ _ _ | .remote _ _ _ _ _ _ _ => runs.all (fun x => decide (x.1 + x.2.length ≤ spadBytes))
  | .furrowAdd off pitch => (g.fmt == 1 || g.fmt == 12) && off % 64 == 0 && pitch % 64 == 0 && runs.all (fun x => decide (x.1 + x.2.length ≤ spadBytes))
  | .pool a pitch | .poolAdd a pitch => (g.fmt == 1 || g.fmt == 12) && a.toNat % 64 == 0 && pitch % 64 == 0

/-- Pinned pool addresses that a commit may write or add to (R308). -/
def commitRight (s : State) (c : Nat) (d : CommitDest) (runs : List (Nat × List Byte)) : Bool :=
  match d with
  | .pool _ _ => runs.all (fun x => taskAllows s c .wr x.1 x.2.length)
  | .poolAdd _ _ => runs.all (fun x => taskAllows s c .add x.1 x.2.length)
  | _ => true

/-- Whole granules of a run, zeros after its last element. -/
def wholeGranules (bs : List Byte) : List Byte := padTo ((bs.length + 63) / 64 * 64) bs

/-- Packets of a commit that leaves the core. -/
def commitPackets (s : State) (c : Nat) (g : StagedCopy) (d : CommitDest) (runs : List (Nat × List Byte)) : List (PType × Packet) :=
  match d with
  | .remote x index gen _ _ _ _ => runs.flatMap (fun r =>
      (dataPackets { mkPkt (taskCls s c) c x (coreStamp s c) 0 0 with index := index, gen := gen, wkind := 1#2 }
        ((spadBase x + r.1) / 64) r.2).map (fun p => (PType.write, p)))
  | .pool _ _ => runs.flatMap (fun r => (runPackets s c r.1 (wholeGranules r.2)).map (fun p => (PType.write, p)))
  | .poolAdd _ _ => runs.flatMap (fun r => (runPackets s c r.1 (wholeGranules r.2)).map (fun p =>
      (PType.writeAdd, { p with aux := BitVec.ofNat 16 (g.fmt * 17 + 256 * (64 + g.fmt)) })))
  | _ => []

/-- Ring buffers of another core that a commit writes. -/
def commitRings (s : State) (d : CommitDest) (runs : List (Nat × List Byte)) : List Nat :=
  match d with
  | .remote x index _ _ _ _ _ => (runs.flatMap (fun r => ringKeys s x index (r.1 / 64) ((r.2.length + 63) / 64))).eraseDups
  | _ => []

/-- What a commit waits for: room at the injection port, or a canal or turnout credit (R80, R107). -/
def commitWaits (s : State) (c : Nat) (ps : List (PType × Packet)) (rings : List Nat) : Option Cause :=
  match ps with
  | [] => none
  | q :: _ =>
    if injectionFull s c (vcOf q.1 q.2) then some .injection
    else if canalCredit s q.1 q.2 && ringCredit (getCore s c) rings then none
    else some .commit

/-- Checksum rows for the consumer and row records of a copy (step 9, Tables ARR-4 and BWD-2): scratchpad offsets and bytes. -/
def commitAreas (g : StagedCopy) (silt : Bool) (rows w : Nat) (pairOff : Option Nat) (recordOff : Option (Nat × Nat × Nat)) : List (Nat × List Byte) :=
  let pair := match pairOff with
    | none => []
    | some o =>
      let p := (List.range w).map (fun n => tgetD g.pair n (0, 0))
      [(o, cover silt (wordsBytes (p.map Prod.fst ++ p.map Prod.snd)))]
  match recordOff with
  | none => pair
  | some (a, b, d) =>
    let part := fun (i n : Nat) => cover silt ((List.range rows).flatMap (fun r => wordsBytes (((tgetD g.recs r []).drop i).take n)))
    pair ++ [(a, part 0 4), (b, part 4 1), (d, part 5 1)]

/-- Write runs into the core's own scratchpad, as scheduled writes (R80). -/
def ownWrites (s : State) (c : Nat) (runs : List (Nat × List Byte)) : State × Bool :=
  let t := schedTouch s c true (runs.flatMap (fun x => granOffs x.1 x.2.length)).eraseDups
  if !t.2 then t else (runs.foldl (fun s x => putUnaligned s c (spadBase c + x.1) x.2) t.1, true)

/-- Add rows of a partial sum into the core's own scratchpad (R104). -/
def ownAdds (s : State) (c : Nat) (g : StagedCopy) (runs : List (Nat × List Byte)) : State :=
  let f : Fmt := if g.fmt = 12 then .int32 else .fp32
  runs.foldl (fun s r =>
    let bs := wholeGranules r.2
    fuRemoteAdd s c (spadBase c + r.1) (bs.length / 64) f f (BitVec.ofNat 8 (64 + g.fmt)) bs) s

/-- Add figures of the governed stream to its registers (Table BWD-7). -/
def applyStats (s : State) (c : Nat) (st : FmtStats) (hist : Tab Nat) (nan : Bool) : State :=
  let a := fp32Val (rawReg s .coFstAmax c)
  let s := if a.lt st.amax then setReg s .coFstAmax c (fp32Of st.amax) else s
  let s := bump (bump (bump s .coFstNonzero c st.nonzero) .coFstUnder c st.under) .coFstOver c st.overs
  let s := hist.foldl (fun s e => setReg s .coFstHist c (rawReg s .coFstHist c e.1 + w32 e.2) e.1) s
  let s := if nan then modCore s c (fun k => { k with fstNan := true }) else s
  setEventIf nan (setEventIf (decide (0 < st.overs)) s .coBwdEvent c 1) .coBwdEvent c 2

/-- Figures of a conversion stream (R56): the collector keeps them by the stream's name, and the registers show the governed one. -/
def noteStream (s : State) (c : Nat) (stream : Option Nat) (governed : Bool) (st : FmtStats) (hist : Tab Nat) (nan : Bool) : State :=
  let s := match stream with
    | none => s
    | some n => modCore s c (fun k => { k with streams := tput k.streams n (st.merge (tgetD k.streams n .zero)) })
  if governed then applyStats s c st hist nan else s

/-- Statistics of a committed tile: only the attempt that commits counts, and silt counts nothing (R57, R90). -/
def commitStats (s : State) (c : Nat) (g : Staging) : State :=
  if g.silt then s else noteStream s c g.epi.stream g.epi.governed g.stats g.hist g.nanSrc

/-- Mask-bit words of a silted tile hold the silt codeword (R90, R210). -/
def commitMasks (s : State) (c : Nat) (g : Staging) : State :=
  if !g.silt || g.epi.backward || g.epi.raw then s
  else [g.epi.fnSlot, g.epi.keepSlot].foldl (fun s q => match q with
    | none => s
    | some q => modCore s c (fun k => (List.range ((g.rows + 3) / 4)).foldl (fun k i => putSlot k q i siltBytes) k)) s

/-- A copy with its destination. -/
structure CommitPart where
  g : StagedCopy
  d : CommitDest
  runs : List (Nat × List Byte)

def commitPart (g : Staging) (w : Nat) (x : StagedCopy) (d : CommitDest) : CommitPart := ⟨x, d, commitRuns x g.silt g.rows w d⟩

/-- Rows of a part that goes to the core's own scratchpad by scheduled writes. -/
def CommitPart.own (p : CommitPart) : List (Nat × List Byte) :=
  match p.d with
  | .spad _ _ _ _ => p.runs
  | _ => []

/-- Send, or add in place, a part that is no plain write of the own scratchpad. -/
def CommitPart.send (s : State) (c : Nat) (p : CommitPart) : State :=
  match p.d with
  | .furrowAdd _ _ => ownAdds s c p.g p.runs
  | _ => (commitPackets s c p.g p.d p.runs).foldl (fun s q => sendPkt s q.1 q.2)
      (modCore s c (fun k => takeRing k (commitRings s p.d p.runs)))

/-- A drained tile commits once its verdict passes, or as silt or with checks off without one (R73, R79, R90): its copies to their
destinations, with their checksum rows. A tile that no destination fits is BAD_COMMAND. -/
def commitOp (s : State) (c t : Nat) (h : Half) (bank : Nat) (dest : CommitDest) (copy : Option CommitDest) : State :=
  let k := getCore s c
  let sk := bankKey t h bank
  match tget k.staging sk with
  | none => s
  | some g =>
    if g.src.isNone || k.repeating || (g.verdict ≠ some true && (g.verdict = some false || needsVerdict s c g)) then s
    else
      let w := halfWidth s c h
      let parts := commitPart g w g.main dest :: (match g.second, copy with
        | some x, some d => [commitPart g w x d]
        | _, _ => [])
      if parts.any (fun p => !commitFits p.g p.d p.runs) then endTaskSeq s c .badCommand 0
      else if parts.any (fun p => !commitRight s c p.d p.runs) then endTaskSeq s c .windowViolation ((destPlaces dest).1 / 64)
      else match parts.findSome? (fun p => commitWaits s c (commitPackets s c p.g p.d p.runs) (commitRings s p.d p.runs)) with
        | some why => creditHold s c why
        | none =>
          let s := releaseHold (releaseHold s c .injection) c .commit
          let on := coreChecks s c && !g.epi.raw
          let areas := if on then
              commitAreas g.main g.silt g.rows w g.epi.pairOff g.epi.recordOff ++ (match g.second, g.epi.copy with
                | some x, some y => commitAreas x g.silt g.rows w y.pairOff y.recordOff
                | _, _ => [])
            else []
          let x := ownWrites (modCore s c (fun k => { k with staging := tdel k.staging sk })) c (parts.flatMap CommitPart.own ++ areas)
          if !x.2 then x.1
          else
            let s := parts.foldl (fun s p => p.send s c) x.1
            let s := setEventIf g.silt (commitStats (commitMasks s c g) c g) .coArrEvent c 2
            bump s .coArrTiles c 1

def execTileCommit (core : CoreId) (twin : TwinId) (tile : BankOf) (dests : CommitDests) (s : State) : Host.Outcome State Fault Refusal :=
  .next (if retryRuns s core [.commit, .injection] && !productsEmpty s core then
    commitOp s core twin tile.half tile.bank dests.dest dests.copy else s)

end Sys2Proof.Machine
end

