-- ==== Sys2Proof/Machine/Vector.lean ====
section
/-!
DEFINITION. The vector engine and the reduction unit (05_vector_reduction).  Every instruction reads its
operands when it issues; its result is put in `due` and lands at issue + latency (R120).
-/
namespace Sys2Proof.Machine

/-! ### Elements, masks and silt (R116, R117, R131) -/

/-- A register of this format holds 16-bit elements, two to a lane. -/
def is16 (f : VFmt) : Bool := f == .b16 || f == .h16
/-- Elements of a register. -/
def vcount (f : VFmt) : Nat := if is16 f then 1024 else 512

/-- k0 reads as all ones. -/
def vmask (k : Core) (m : Nat) : BitVec 1024 := if m = 0 then BitVec.allOnes 1024 else tgetD k.vec.masks m 0

/-- Elements below n that a mask leaves on. -/
def activeEls (k : Core) (m n : Nat) : List Nat := (List.range n).filter (fun e => (vmask k m).getLsbD e)

def laneWord (k : Core) (r lane : Nat) : W32 := tgetD k.vec.regs (r * 512 + lane) 0

/-- Bits of element e: a lane, or a half of one. -/
def elBits (k : Core) (wide : Bool) (r e : Nat) : Nat :=
  if wide then (laneWord k r e).toNat else (laneWord k r (e / 2)).toNat / 65536 ^ (e % 2) % 65536

def laneOf (wide : Bool) (e : Nat) : Nat := if wide then e else e / 2

def laneSilt (k : Core) (r lane : Nat) : Bool := k.vec.silt.contains (r * 32 + lane / 16)

/-- An accumulator field. -/
def accField (k : Core) (a : Nat) (hi : Bool) : W32 :=
  let x := tgetD k.vec.accs a (0, 0, false)
  if hi then x.2.1 else x.1

def accSilt (k : Core) (a : Nat) : Bool := (tgetD k.vec.accs a (0, 0, false)).2.2

/-- Value of a register format's bits. -/
def vval (f : VFmt) (b : Nat) : FV := decodeElem (vfmt f) b 0

/-- Value of element e of a source: an accumulator field is a broadcast FP32, or INT32, value. -/
def srcVal (k : Core) (f : VFmt) (x : VSrc) (e : Nat) : FV :=
  match x with
  | .reg r => vval f (elBits k (!is16 f) r e)
  | .acc a hi => if f = .i32 then FV.ofInt (accField k a hi).toInt 0 else fp32Val (accField k a hi)

/-- Bits of element e of a source; a broadcast accumulator field gives its word, or its value in the 16-bit format. -/
def srcBits (k : Core) (f : VFmt) (x : VSrc) (e : Nat) : Nat :=
  match x with
  | .reg r => elBits k (!is16 f) r e
  | .acc a hi =>
    let w := accField k a hi
    match f with
    | .b16 | .h16 => (encodeElem ⟨false, true, .rne, vfmt f⟩ 0 (fp32Val w)).bits
    | _ => w.toNat

def srcSilt (k : Core) (f : VFmt) (x : VSrc) (e : Nat) : Bool :=
  match x with
  | .reg r => laneSilt k r (laneOf (!is16 f) e)
  | .acc a _ => accSilt k a

/-- Sign of element e of a source. -/
def srcNeg (k : Core) (f : VFmt) (x : VSrc) (e : Nat) : Bool :=
  match x with
  | .reg r => decide (elBits k (!is16 f) r e / 2 ^ (fmtWidth (vfmt f) - 1) % 2 = 1)
  | .acc a hi => (accField k a hi).msb

/-- Bits of a result, rounded once to its format (R121); INT32 wraps. -/
def vbits (f : VFmt) (v : FV) : Nat :=
  match f with
  | .i32 => (wrap32 (intOf v)).toNat
  | f => (encodeElem ⟨false, true, .rne, vfmt f⟩ 0 v).bits

/-- One element of a result: number, bits, silt. -/
structure VEl where
  e : Nat
  bits : Nat
  silt : Bool

/-- What lands in a register: the written bits of each lane, and the silt flags of its granules. -/
def regWrite (wide : Bool) (r : Nat) (els : List VEl) : VWrite :=
  let per := if wide then 16 else 32
  .reg r
    (els.map (fun x =>
      if wide then (x.e, w32 x.bits, BitVec.allOnes 32)
      else (x.e / 2, w32 (x.bits * 65536 ^ (x.e % 2)), w32 (0xFFFF * 65536 ^ (x.e % 2)))))
    ((List.range 32).filterMap (fun g =>
      let mine := els.filter (fun x => x.e / per == g)
      if mine.any (·.silt) then some (g, true) else if mine.length = per then some (g, false) else none))

/-- Put a result in flight. -/
def vdue (s : State) (c lat : Nat) (w : VWrite) : State :=
  let at_ := schedCount s c + lat
  modCore s c (fun k => { k with vec := { k.vec with due := k.vec.due ++ [(at_, w)] } })

/-- A vector instruction issues: counted (Table VEC-5), its lanes metered (Table PWR-3). -/
def vissue (s : State) (c lanes : Nat) : State := meterCore (bump s .coVecIssued c 1) c 5 lanes

/-- co_vec_event bits for results: NaN, infinity from finite operands, silt taken by a register. -/
def vevents (s : State) (c : Nat) (nan inf silt : Bool) : State :=
  setEventIf silt (setEventIf inf (setEventIf nan s .coVecEvent c 0) .coVecEvent c 1) .coVecEvent c 2

def zeroV : FV := .num false 0 0

def fvInf (v : FV) : Bool := !v.isFinite && !v.isNaN

/-- An element-wise instruction: value of each unmasked element, and whether its operands are all finite. -/
def vmap (s : State) (c : Nat) (f : VFmt) (d mask lat : Nat) (srcs : List VSrc) (fn : Core → Nat → FV) : State :=
  let k := getCore s c
  let es := (activeEls k mask (vcount f)).map (fun e => (e, fn k e, srcs.any (fun x => srcSilt k f x e),
    srcs.all (fun x => (srcVal k f x e).isFinite)))
  let els := es.map (fun x => (⟨x.1, vbits f x.2.1, x.2.2.1⟩ : VEl))
  let back := els.map (fun x => vval f x.bits)
  let fl := f ≠ .i32
  let s := vissue s c (min 512 es.length)
  let s := vevents s c (fl && back.any FV.isNaN) (fl && (es.zip back).any (fun x => x.1.2.2.2 && fvInf x.2)) (els.any (·.silt))
  vdue s c lat (regWrite (!is16 f) d els)

/-! ### Arithmetic -/

def fop (op : FOp) (sb : Bool) (a b c : FV) : FV :=
  match op with
  | .add => a.add b
  | .sub => a.add b.neg
  | .mul => a.mul b
  | .fma => (a.mul b).add c
  | .abs => a.abs
  | .neg => a.neg
  | .copysign => if sb then a.abs.neg else a.abs

/-- Sources that an operation reads. -/
def fopSrcs (op : FOp) (a b c : VSrc) : List VSrc :=
  match op with
  | .fma => [a, b, c] | .abs | .neg => [a] | _ => [a, b]

/-- Float arithmetic: exact, rounded once (R121); latency 4. -/
def vecFloat (s : State) (core : Nat) (op : FOp) (f : VFmt) (d : Nat) (a b c : VSrc) (mask : Nat) : State :=
  vmap s core f d mask 4 (fopSrcs op a b c) (fun k e =>
    fop op (srcNeg k f b e) (srcVal k f a e) (srcVal k f b e) (srcVal k f c e))

def execVectorFloatArithmetic (core : CoreId) (op : FOp) (fmt : VFmt) (d : Fin 32) (a b c : VSrc) (mask : Fin 8) (s : State) :
    Host.Outcome State Fault Refusal :=
  .next (if coreRuns s core then vecFloat s core op fmt d a b c mask else s)

def vecMinMax (s : State) (core : Nat) (mx : Bool) (f : VFmt) (d : Nat) (a b : VSrc) (mask : Nat) : State :=
  vmap s core f d mask 2 [a, b] (fun k e =>
    if mx then fmax2 (srcVal k f a e) (srcVal k f b e) else fmin2 (srcVal k f a e) (srcVal k f b e))

def execVectorMinMax (core : CoreId) (max : Bool) (fmt : VFmt) (d : Fin 32) (a b : VSrc) (mask : Fin 8) (s : State) :
    Host.Outcome State Fault Refusal :=
  .next (if coreRuns s core then vecMinMax s core max fmt d a b mask else s)

/-- A number whose bits are the given elements. -/
def maskOf (es : List Nat) : BitVec 1024 := BitVec.ofNat 1024 ((es.map (2 ^ ·)).sum)

/-- Outcome of a compare; `ne` holds when an operand is NaN (DESIGN CHOICE, log entry 23: Table VEC-1 names the operation alone). -/
def cmpHolds (op : CmpOp) (a b : FV) : Bool :=
  match op with
  | .eq => a.eqv b
  | .ne => !a.eqv b
  | .lt => a.lt b
  | .le => a.lt b || a.eqv b
  | .unordered => a.isNaN || b.isNaN
  | _ => false

/-- Compares write a mask, select writes a register, and the mask operations combine two masks; latency 2. -/
def vecCompare (s : State) (core : Nat) (op : CmpOp) (f : VFmt) (d : Nat) (a b : VSrc) (k1 k2 : Nat) : State :=
  let k := getCore s core
  match op with
  | .kand => vdue (vissue s core 0) core 2 (.mask d (vmask k k1 &&& vmask k k2) (BitVec.allOnes 1024))
  | .kor => vdue (vissue s core 0) core 2 (.mask d (vmask k k1 ||| vmask k k2) (BitVec.allOnes 1024))
  | .knot => vdue (vissue s core 0) core 2 (.mask d (~~~ vmask k k1) (BitVec.allOnes 1024))
  | .select =>
    let sel := vmask k k1
    let els := (activeEls k k2 (vcount f)).map (fun e =>
      let x := if sel.getLsbD e then a else b
      (⟨e, srcBits k f x e, srcSilt k f x e⟩ : VEl))
    let s := vevents (vissue s core (min 512 els.length)) core (f ≠ .i32 && els.any (fun x => (vval f x.bits).isNaN)) false (els.any (·.silt))
    vdue s core 2 (regWrite (!is16 f) d els)
  | op =>
    let es := activeEls k k1 (vcount f)
    let on := es.filter (fun e => cmpHolds op (srcVal k f a e) (srcVal k f b e))
    vdue (vissue s core (min 512 es.length)) core 2 (.mask d (maskOf on) (maskOf es))

def execVectorCompareSelect (core : CoreId) (op : CmpOp) (fmt : VFmt) (d : Nat) (a b : VSrc) (k1 k2 : Fin 8) (s : State) :
    Host.Outcome State Fault Refusal :=
  .next (if coreRuns s core then vecCompare s core op fmt d a b k1 k2 else s)

/-- INT32 operations; a shift by 32 or more has no stated result (log entry 23). -/
def iop (op : IOp) (a b : W32) : W32 :=
  match op with
  | .add => a + b
  | .sub => a - b
  | .shl => if b.toNat < 32 then a <<< b.toNat else Config.lane 0 a b
  | .shr => if b.toNat < 32 then a >>> b.toNat else Config.lane 1 a b
  | .sar => if b.toNat < 32 then a.sshiftRight b.toNat else Config.lane 2 a b
  | .and => a &&& b
  | .or => a ||| b
  | .xor => a ^^^ b
  | .min => if a.toInt < b.toInt then a else b
  | .max => if a.toInt < b.toInt then b else a

def vecInt (s : State) (c lat : Nat) (fn : W32 → W32 → W32) (d : Nat) (a b : VSrc) (mask : Nat) : State :=
  let k := getCore s c
  let els := (activeEls k mask 512).map (fun e =>
    (⟨e, (fn (w32 (srcBits k .i32 a e)) (w32 (srcBits k .i32 b e))).toNat, srcSilt k .i32 a e || srcSilt k .i32 b e⟩ : VEl))
  vdue (vevents (vissue s c els.length) c false false (els.any (·.silt))) c lat (regWrite true d els)

def execVectorInteger (core : CoreId) (op : IOp) (d : Fin 32) (a b : VSrc) (mask : Fin 8) (s : State) :
    Host.Outcome State Fault Refusal :=
  .next (if coreRuns s core then vecInt s core 2 (iop op) d a b mask else s)

def execVectorIntegerMultiply (core : CoreId) (d : Fin 32) (a b : VSrc) (mask : Fin 8) (s : State) :
    Host.Outcome State Fault Refusal :=
  .next (if coreRuns s core then vecInt s core 4 (· * ·) d a b mask else s)

/-! ### Conversions in registers -/

/-- Draws of generators at positions, one for each element in order, each advancing its generator (R53, R129); an unseeded generator
starts from task seed 0. -/
def takeDraws (k : Core) (stoch : Bool) (ps : List Nat) : List Nat × Core :=
  if !stoch then (ps.map (fun _ => 0), k)
  else
    let r := ps.foldl (fun (a : List Nat × Tab W64) p =>
      let z := (tget a.2 p).getD (seedLane 0 0 0 p)
      (a.1 ++ [drawBits z], tput a.2 p (drawNext z))) (([] : List Nat), k.vec.gens)
    (r.1, { k with vec := { k.vec with gens := r.2 } })

/-- Source and target formats of a register conversion. -/
def cvtFmts : CvtOp → VFmt × VFmt
  | .narrow f _ => (.f32, f)
  | .widen f _ _ => (f, .f32)
  | .intToF32 _ => (.i32, .f32)
  | .f32ToInt _ => (.f32, .i32)

/-- Control byte of a register conversion. -/
def cvtCtl : CvtOp → Option Ctl
  | .narrow f b => (ctlOf b).map (fun c => { c with fmt := vfmt f })
  | .widen _ _ b => (ctlOf b).map (fun c => { c with fmt := .fp32 })
  | .intToF32 b => (ctlOf b).map (fun c => { c with fmt := .fp32 })
  | .f32ToInt b => (ctlOf b).map (fun c => { c with fmt := .int32 })

/-- Element e of the result comes from this source register and element: two FP32 registers fill one 16-bit
register in order, and each half of one widens to a register (log entry 23). -/
def cvtFrom (op : CvtOp) (a b e : Nat) : Nat × Nat :=
  match op with
  | .narrow _ _ => if e < 512 then (a, e) else (b, e - 512)
  | .widen _ hi _ => (a, if hi then 512 + e else e)
  | _ => (a, e)

/-- A stochastic conversion draws from the generators of the converting stores, by the element's position in its source register; where two
sources fill one register, each lane draws for its element of the first source, then for that of the second (DESIGN CHOICE, log entry 23). -/
def vecConvert (s : State) (c : Nat) (op : CvtOp) (d a b mask : Nat) : State :=
  match cvtCtl op with
  | none => endTaskSeq s c .badCommand 0
  | some ctl =>
    let fs := cvtFmts op
    let k := getCore s c
    let es := activeEls k mask (vcount fs.2)
    let dr := takeDraws k (ctl.rnd = .stoch) (es.map (fun e => (cvtFrom op a b e).2))
    let out := (es.zip dr.1).map (fun x =>
      let f := cvtFrom op a b x.1
      let v := vval fs.1 (elBits k (!is16 fs.1) f.1 f.2)
      (v, (⟨x.1, (encodeElem ctl x.2 v).bits, laneSilt k f.1 (laneOf (!is16 fs.1) f.2)⟩ : VEl)))
    let s := setCore s c dr.2
    let fl := fs.2 ≠ .i32
    let s := vevents (vissue s c (min 512 es.length)) c (fl && out.any (fun x => (vval fs.2 x.2.bits).isNaN))
      (fl && out.any (fun x => x.1.isFinite && fvInf (vval fs.2 x.2.bits))) (out.any (·.2.silt))
    vdue s c 2 (regWrite (!is16 fs.2) d (out.map Prod.snd))

def execVectorRegisterConversion (core : CoreId) (op : CvtOp) (d a b : Fin 32) (mask : Fin 8) (s : State) :
    Host.Outcome State Fault Refusal :=
  .next (if coreRuns s core then vecConvert s core op d a b mask else s)

/-! ### Transcendental functions and permutes -/

/-- Latency of Table VEC-2. -/
def tfnLatency : TFn → Nat
  | .exp | .log | .tanh | .sigmoid | .gelu | .silu => 16
  | _ => 12

def vecFn (s : State) (c : Nat) (fn : TFn) (f : VFmt) (d : Nat) (a : VSrc) (sub : Option VSrc) (mask : Nat) : State :=
  let sub := if fn = .exp || fn = .exp2 then sub else none
  vmap s c f d mask (tfnLatency fn) (a :: sub.toList) (fun k e =>
    let x := srcVal k f a e
    tfn fn (match sub with
      | some b => fsub x (srcVal k f b e)
      | none => x))

def execVectorTranscendental (core : CoreId) (fn : TFn) (fmt : VFmt) (d : Fin 32) (a : VSrc) (sub : Option VSrc) (mask : Fin 8)
    (s : State) : Host.Outcome State Fault Refusal :=
  .next (if coreRuns s core then vecFn s core fn fmt d a sub mask else s)

/-- Bits and silt of element e of a permute's result. Table VEC-1 names the operations alone (DESIGN CHOICE, log entry 23): a rotate by m takes
element e from e + m lanes, an interleave takes the elements of the low halves of both sources in turn, and a 16-bit broadcast of an
accumulator field takes its low 16 bits. -/
def permEl (k : Core) (op : PermOp) (wide : Bool) (a : VSrc) (e : Nat) : Nat × Bool :=
  let n := if wide then 512 else 1024
  let rd := fun (r i : Nat) => (elBits k wide r i, laneSilt k r (laneOf wide i))
  let ra := fun (i : Nat) => match a with
    | .reg r => rd r i
    | .acc x hi => ((accField k x hi).toNat % (if wide then 2 ^ 32 else 2 ^ 16), accSilt k x)
  match op with
  | .rotate m => ra ((e + (if wide then m else 2 * m)) % n)
  | .broadcast lane => ra (lane % n)
  | .gather r =>
    let i := rd r e
    if i.1 < n then let x := ra i.1; (x.1, x.2 || i.2)
    else ((Config.lane 3 (w32 e) (w32 i.1)).toNat % (if wide then 2 ^ 32 else 2 ^ 16), i.2)
  | .interleave b => if e % 2 = 0 then ra (e / 2) else rd b (e / 2)
  | .deinterleave b => if e < n / 2 then ra (2 * e) else rd b (2 * (e - n / 2))

/-- Interleave and deinterleave work on 16-bit halves. -/
def permWide (op : PermOp) (wide : Bool) : Bool :=
  match op with
  | .interleave _ | .deinterleave _ => false
  | _ => wide

def vecPermute (s : State) (c : Nat) (op : PermOp) (wide : Bool) (d : Nat) (a : VSrc) (mask : Nat) : State :=
  let k := getCore s c
  let w := permWide op wide
  let els := (activeEls k mask (if w then 512 else 1024)).map (fun e => let x := permEl k op w a e; (⟨e, x.1, x.2⟩ : VEl))
  vdue (vevents (vissue s c (min 512 els.length)) c false false (els.any (·.silt))) c 3 (regWrite w d els)

def execVectorPermute (core : CoreId) (op : PermOp) (wide : Bool) (d : Fin 32) (a : VSrc) (mask : Fin 8) (s : State) :
    Host.Outcome State Fault Refusal :=
  .next (if coreRuns s core then vecPermute s core op wide d a mask else s)

/-! ### Loads and stores (R122, R129-R131) -/

/-- Bytes of a scratchpad range are aligned to 64 bytes and inside it. -/
def vecRange (off n : Nat) : Bool := off % 64 == 0 && decide (off + n ≤ spadBytes)

/-- Offsets of the granules that hold elements of w bits from an aligned offset. -/
def elGrans (off w : Nat) (es : List Nat) : List Nat :=
  ((es.flatMap (fun e => [w * e / 512, (w * e + w - 1) / 512])).map (fun g => off + 64 * g)).eraseDups

/-- Scheduled reads of granules: what they give, by granule of the scratchpad. -/
def fetchGrans (s : State) (c : Nat) (offs : List Nat) : Tab (List Byte) × State :=
  offs.foldl (fun (a : Tab (List Byte) × State) o =>
    let x := spadFetch a.2 c o 64
    (tput a.1 (o / 64) x.bytes, x.st)) (([] : Tab (List Byte)), s)

/-- Bytes out of granules read; one that was not read gives zeros. -/
def gotRun (got : Tab (List Byte)) (off n : Nat) : List Byte :=
  (((granOffs off n).flatMap (fun o => tgetD got (o / 64) (List.replicate 64 0))).drop (off % 64)).take n

/-- The granule of a byte was read as silt. -/
def gotSilt (got : Tab (List Byte)) (off : Nat) : Bool := isSilt (tgetD got (off / 64) [])

/-- Load in a register format: element e takes its bytes of the image; readable after 6 cycles. -/
def vecLoad (s : State) (c d : Nat) (f : VFmt) (off mask : Nat) : State :=
  if !vecRange off 2048 then endTaskSeq s c .badCommand 0
  else
    let w := if is16 f then 2 else 4
    let es := activeEls (getCore s c) mask (vcount f)
    let gs := elGrans off (8 * w) es
    let t := schedTouch s c false gs
    if !t.2 then t.1
    else
      let r := fetchGrans t.1 c gs
      let els := es.map (fun e => (⟨e, leNat (gotRun r.1 (off + w * e) w), gotSilt r.1 (off + w * e)⟩ : VEl))
      let s := vevents (vissue r.2 c (min 512 es.length)) c false false (els.any (·.silt))
      vdue s c 6 (regWrite (!is16 f) d els)

def execVectorLoad (core : CoreId) (d : Fin 32) (place : VPlace) (mask : Fin 8) (s : State) : Host.Outcome State Fault Refusal :=
  .next (if coreRuns s core then vecLoad s core d place.fmt place.off mask else s)

/-- Places of a converting access of 512 elements: aligned, and inside the scratchpad (R41, R122). -/
def cvtRange (f : Fmt) (off sfOff : Nat) : Bool :=
  vecRange off (elemBytes f 512) && (fmtBlock f == 0 || vecRange sfOff (512 / fmtBlock f))

/-- Converting load of 512 elements of a format, into a 32-bit register or one half of a 16-bit one; readable after 8 cycles. Masked-off
elements are not read (R117). -/
def vecCvtLoad (s : State) (c d : Nat) (src : Fmt) (f : VFmt) (second : Bool) (off sfOff mask : Nat) : State :=
  if !cvtRange src off sfOff then endTaskSeq s c .badCommand 0
  else
    let base := if is16 f && second then 512 else 0
    let es := (List.range 512).filter (fun i => (vmask (getCore s c) mask).getLsbD (base + i))
    let bl := fmtBlock src
    let fields := if bl = 0 then [] else (es.map (· / bl)).eraseDups
    let gs := (elGrans off (fmtWidth src) es ++ elGrans sfOff 8 fields).eraseDups
    let t := schedTouch s c false gs
    if !t.2 then t.1
    else
      let r := fetchGrans t.1 c gs
      let vals := decodeElems src (unpackElems src 512 (gotRun r.1 off (elemBytes src 512)))
        ((gotRun r.1 sfOff (if bl = 0 then 0 else 512 / bl)).map (·.toNat))
      let ctl : Ctl := ⟨false, true, .rne, vfmt f⟩
      let siltAt := fun (i : Nat) => (elGrans off (fmtWidth src) [i]).any (gotSilt r.1) || (bl ≠ 0 && gotSilt r.1 (sfOff + i / bl))
      let els := es.map (fun i => (⟨base + i, (encodeElem ctl 0 (vals.getD i .nan)).bits, siltAt i⟩ : VEl))
      let fl := f ≠ .i32
      let s := vevents (vissue r.2 c es.length) c (fl && els.any (fun x => (vval f x.bits).isNaN))
        (fl && (es.zip els).any (fun x => (vals.getD x.1 .nan).isFinite && fvInf (vval f x.2.bits))) (els.any (·.silt))
      vdue s c 8 (regWrite (!is16 f) d els)

def execConvertingLoad (core : CoreId) (d : Fin 32) (src : Fmt) (fmt : VFmt) (second : Bool) (off sfOff : Nat) (mask : Fin 8)
    (s : State) : Host.Outcome State Fault Refusal :=
  .next (if coreRuns s core then vecCvtLoad s core d src fmt second off sfOff mask else s)

/-- A byte that a store writes: offset, value, the bits written, and whether an element in it is silted. -/
structure MByte where
  off : Nat
  byte : Byte
  bits : Byte
  silt : Bool

/-- Group stored bytes by the granule they lie in. -/
def memWrites (c : Nat) (bs : List MByte) : List VWrite :=
  let base := spadBase c
  ((bs.map (fun x => x.off / 64)).eraseDups).map (fun g =>
    let mine := bs.filter (fun x => x.off / 64 == g)
    .mem (base / 64 + g) (mine.map (fun x => (x.off % 64, x.byte, x.bits))) (mine.any (·.silt)))

def vdues (s : State) (c lat : Nat) (ws : List VWrite) : State := ws.foldl (fun s w => vdue s c lat w) s

/-- Store in a register format: the unmasked elements, written in cycle issue + 4. -/
def vecStore (s : State) (c a : Nat) (f : VFmt) (off mask : Nat) : State :=
  if !vecRange off 2048 then endTaskSeq s c .badCommand 0
  else
    let k := getCore s c
    let w := if is16 f then 2 else 4
    let es := activeEls k mask (vcount f)
    let bs := es.flatMap (fun e => ((leBytes w (elBits k (!is16 f) a e)).zip (List.range w)).map (fun b =>
      (⟨off + w * e + b.2, b.1, 0xFF, laneSilt k a (laneOf (!is16 f) e)⟩ : MByte)))
    vdues (vissue s c (min 512 es.length)) c 4 (memWrites c bs)

def execVectorStore (core : CoreId) (a : Fin 32) (place : VPlace) (mask : Fin 8) (s : State) : Host.Outcome State Fault Refusal :=
  .next (if coreRuns s core then vecStore s core a place.fmt place.off mask else s)

/-- Seed the generators of every element position of a store (R129). -/
def reseedAll (k : Core) (seed : W64) (op : CStoreOp) (ps : List Nat) : Core :=
  if !op.reseed then k
  else { k with vec := { k.vec with gens := ps.foldl (fun t p =>
    tput t p (seedLane seed (op.mTile % 2 ^ 24) (op.nTile % 2 ^ 24) p)) k.vec.gens } }

/-- Checksum rows of R130: element p adds to column p mod width, and (row + 1) times it to the weighted row. -/
def gatherRows (t : Tab (W32 × W32)) (int : Bool) (row width : Nat) (els : List (Nat × FV)) : Tab (W32 × W32) :=
  els.foldl (fun t x =>
    let n := x.1 % width
    let old := tgetD t n (0, 0)
    let wt := if int then FV.ofInt (intOf x.2 * (row + 1)) 0 else fmul x.2 (.num false (row + 1) 0)
    let add := fun (w : W32) (v : FV) => accWord int (sumSeq int [accVal int w, v])
    tput t n (add old.1 x.2, add old.2 wt)) t

/-- Bytes of a converted run: those that hold an unmasked element, with its bits alone, and the block fields of unmasked blocks. -/
def runBytes (c : Ctl) (off sfOff : Nat) (mask : Nat → Bool) (o : CvtOut) (silt : Nat → Bool) : List MByte :=
  let w := fmtWidth c.fmt
  let n := o.bits.length
  let bytes := packElems c.fmt o.bits
  let inByte := fun (b : Nat) => (List.range (8 / (min w 8) + 2)).filterMap (fun j =>
    let i := 8 * b / w + j
    if i < n ∧ w * i < 8 * (b + 1) ∧ 8 * b < w * (i + 1) ∧ mask i then some i else none)
  let bits := packElems c.fmt ((List.range n).map (fun i => if mask i then 2 ^ w - 1 else 0))
  let bl := fmtBlock c.fmt
  ((bytes.zip bits).zip (List.range bytes.length)).filterMap (fun x =>
    if (inByte x.2).isEmpty then none else some ⟨off + x.2, x.1.1, x.1.2, (inByte x.2).any silt⟩) ++
  (o.fields.zip (List.range o.fields.length)).filterMap (fun x =>
    if mask (x.2 * bl) then some ⟨sfOff + x.2, BitVec.ofNat 8 x.1, 0xFF, (List.range bl).any (fun j => silt (x.2 * bl + j))⟩ else none)

/-- No block of a block-scaled target is masked in part (R52). -/
def wholeBlocks (f : Fmt) (on : Nat → Bool) : Bool :=
  fmtBlock f == 0 || (chunks (fmtBlock f) ((List.range 512).map on)).all (fun b => b.all id || !b.any id)

/-- A store of the accumulated pair: its width in columns and its bytes (R130). -/
def pairStore (k : Core) (op : CStoreOp) : Nat × List Byte :=
  let w := match op.rows with
    | some (_, width) => max 1 width
    | none => (k.vec.rows.map (fun e => e.1 + 1)).foldl max 0
  let p := (List.range w).map (fun j => tgetD k.vec.rows j (0, 0))
  (w, wordsBytes (p.map Prod.fst ++ p.map Prod.snd))

/-- Statistics of the unsilted elements of a converting store (R56, R57, R131). -/
def storeStats (ctl : Ctl) (clean : Nat → Bool) (inp : List (FV × Nat)) : FmtStats :=
  (chunks (if fmtBlock ctl.fmt = 0 then 512 else fmtBlock ctl.fmt) ((List.range 512).zip inp)).foldl (fun st b =>
    let run := convertRun ctl (b.map Prod.snd)
    let sh := fun (v : FV) => match run.fields.head? with
      | some x => v.scale ((127 : Int) - x)
      | none => v
    b.foldl (fun st x =>
      if !clean x.1 then st
      else if run.fields = [255] then st.count x.2.1 ⟨0, false, false⟩ false
      else st.count x.2.1 (encodeElem ctl x.2.2 (sh x.2.1)) true) st) FmtStats.zero

/-- Converting store of 512 elements: written in cycle issue + 6. A masked-off element takes no part; a block-scaled target takes whole
blocks (R52, R117). -/
def vecCvtStore (s : State) (c : Nat) (op : CStoreOp) : State :=
  match ctlOf op.ctl with
  | none => endTaskSeq s c .badCommand 0
  | some ctl =>
    let k := getCore s c
    let base := if is16 op.fmt && op.second then 512 else 0
    let on := fun (i : Nat) => (vmask k op.mask).getLsbD (base + i)
    let pairOk := (op.pairOff.map (fun o => vecRange o (8 * (pairStore k op).1))).getD true
    if !cvtRange ctl.fmt op.off op.sfOff || !wholeBlocks ctl.fmt on || !pairOk then endTaskSeq s c .badCommand 0
    else
      let es := (List.range 512).filter on
      let k := reseedAll k (taskSeed s c) op ((List.range 512).map (base + ·))
      let dr := takeDraws k (ctl.rnd = .stoch) (es.map (base + ·))
      let silt := fun (i : Nat) => laneSilt k op.src (laneOf (!is16 op.fmt) (base + i))
      let val := fun (i : Nat) => vval op.fmt (elBits k (!is16 op.fmt) op.src (base + i))
      let draws := (es.zip dr.1).foldl (fun t x => tput t x.1 x.2) ([] : Tab Nat)
      let inp := (List.range 512).map (fun i => if on i then (val i, tgetD draws i 0) else (FV.num false 0 0, 0))
      let o := convertRow ctl inp
      let conv := decodeElems ctl.fmt o.bits o.fields
      let clean := es.filter (fun i => !silt i)
      let k := match op.rows with
        | some (row, width) =>
          let got := gatherRows dr.2.vec.rows (fmtIsInt ctl.fmt) row (max 1 width) (clean.map (fun i => (base + i, conv.getD i .nan)))
          { dr.2 with vec := { dr.2.vec with rows := got } }
        | none => dr.2
      let s := vissue (setCore s c k) c es.length
      let s := vevents s c (clean.any (fun i => (conv.getD i zeroV).isNaN))
        (clean.any (fun i => (val i).isFinite && fvInf (conv.getD i zeroV))) false
      let st := streamStats s c op.governed .zero [] (clean.map val) ⟨[], [], storeStats ctl clean.contains inp⟩
      let s := noteStream s c op.stream op.governed st.1 st.2 (clean.any (fun i => (val i).isNaN))
      let s := vdues s c 6 (memWrites c (runBytes ctl op.off op.sfOff on o silt))
      match op.pairOff with
      | none => s
      | some po =>
        let bs := (pairStore k op).2
        let s := modCore s c (fun k => { k with vec := { k.vec with rows := [] } })
        vdues s c 6 (memWrites c ((bs.zip (List.range bs.length)).map (fun x => ⟨po + x.2, x.1, 0xFF, false⟩)))

def execConvertingStore (core : CoreId) (op : CStoreOp) (s : State) : Host.Outcome State Fault Refusal :=
  .next (if coreRuns s core then vecCvtStore s core op else s)

/-! ### The reduction unit (R124-R127) -/

/-- Adjacent pairs combined. -/
def pairUp {α : Type} (f : α → α → α) : List α → List α
  | a :: b :: t => f a b :: pairUp f t
  | l => l

/-- The fixed pairwise tree: adjacent pairs, then pairs of partial results, up to one value (R125). -/
def redTree {α : Type} (f : α → α → α) : Nat → List α → List α
  | 0, l => l
  | n + 1, l => redTree f n (pairUp f l)

def redOf {α : Type} (f : α → α → α) (d : α) (l : List α) : α := (redTree f 11 l).headD d

/-- What a reduction reads: element number and value where unmasked. -/
def redEls (k : Core) (op : RedOp) : List (Option (Nat × FV)) :=
  let m := vmask k op.mask
  (List.range (vcount op.fmt)).map (fun e =>
    if m.getLsbD e then some (e, vval op.fmt (elBits k (!is16 op.fmt) op.src e)) else none)

def redSilt (k : Core) (op : RedOp) : Bool :=
  let m := vmask k op.mask
  (List.range (vcount op.fmt)).any (fun e => m.getLsbD e && laneSilt k op.src (laneOf (!is16 op.fmt) e))

/-- A field's word of a value, and back. -/
def redWord (f : VFmt) (v : FV) : W32 := if f = .i32 then wrap32 (intOf v) else fp32Of v
def redVal (f : VFmt) (w : W32) : FV := if f = .i32 then FV.ofInt w.toInt 0 else fp32Val w

/-- A reduction's result replaces the accumulator or folds into it; readable after 8 cycles (R124). Consecutive
reductions fold in order, so the newest result in flight is the accumulator that the fold sees. `hiFloat` where hi is a number, as log-sum-exp has it. -/
def redIssue (s : State) (c : Nat) (op : RedOp) (hiFloat : Bool) (fold : W32 × W32 → W32 × W32) (res : W32 × W32) : State :=
  let k := getCore s c
  let cur := k.vec.due.foldl (fun x d => match d.2 with
    | .acc a lo hi sl => if a = op.acc.val then (lo, hi, sl) else x
    | _ => x) (tgetD k.vec.accs op.acc (0, 0, false))
  let out := if op.init then res else fold (cur.1, cur.2.1)
  let silt := redSilt k op || (!op.init && cur.2.2)
  let s := meterCore (bump s .coRedIssued c 1) c 5 ((redEls k op).filter Option.isSome).length
  let fl := op.fmt ≠ .i32
  let vs := fp32Val out.1 :: (if hiFloat then [fp32Val out.2] else [])
  let fin := (redEls k op).all (fun x => match x with
    | some e => e.2.isFinite
    | none => true) && (op.init || ((fp32Val cur.1).isFinite && (!hiFloat || (fp32Val cur.2.1).isFinite)))
  let s := setEventIf (fl && vs.any FV.isNaN) s .coVecEvent c 0
  let s := setEventIf (fl && fin && vs.any fvInf && (redEls k op).any Option.isSome) s .coVecEvent c 1
  let s := setEventIf silt s .coVecEvent c 3
  vdue s c 8 (.acc op.acc out.1 out.2 silt)

def faddV (f : VFmt) (a b : FV) : FV := if f = .i32 then FV.ofInt (wrap32 (intOf a + intOf b)).toInt 0 else fadd a b

/-- The fold of a sum. Table VEC-3 gives sum, sum of squares, max and min no hi: with init it is 0, a fold keeps it (DESIGN CHOICE, log entry 23). -/
def foldAdd (f : VFmt) (r : W32 × W32) (a : W32 × W32) : W32 × W32 :=
  (redWord f (faddV f (redVal f a.1) (redVal f r.1)), a.2)

/-- Sum, and sum of squares with each square rounded before the tree. -/
def redSum (s : State) (c : Nat) (op : RedOp) (sq : Bool) : State :=
  let xs := (redEls (getCore s c) op).map (fun x => match x with
    | some e => if sq then fmul e.2 e.2 else e.2
    | none => zeroV)
  let r := redWord op.fmt (redOf (faddV op.fmt) zeroV xs)
  redIssue s c op false (foldAdd op.fmt (r, 0)) (r, 0)

def redBig (f : VFmt) (neg : Bool) : FV := if f = .i32 then FV.ofInt (if neg then -(2 ^ 31) else 2 ^ 31 - 1) 0 else .inf neg

/-- Maximum or minimum; masked elements count as the identity. -/
def redExt (s : State) (c : Nat) (op : RedOp) (mx : Bool) : State :=
  let f := if mx then fmax2 else fmin2
  let xs := (redEls (getCore s c) op).map (fun x => match x with
    | some e => e.2
    | none => redBig op.fmt mx)
  let r := redOf f (redBig op.fmt mx) xs
  redIssue s c op false (fun a => (redWord op.fmt (f (redVal op.fmt a.1) r), a.2)) (redWord op.fmt r, 0)

/-- The better of two (value, index) pairs: NaN first, then the larger, then the lower index (R126, R127);
+0 and −0 are equal maxima (DESIGN CHOICE, log entry 23). -/
def argBetter (a b : FV × Nat) : FV × Nat :=
  if a.1.isNaN && b.1.isNaN then (if b.2 < a.2 then b else a)
  else if a.1.isNaN then a
  else if b.1.isNaN then b
  else if a.1.lt b.1 then b
  else if b.1.lt a.1 then a
  else if b.2 < a.2 then b else a

/-- Argmax. With every INT32 element masked its lo is −2³¹, the least value, where Table VEC-3 writes −∞ (DESIGN CHOICE, log entry 23). -/
def redArg (s : State) (c : Nat) (op : RedOp) : State :=
  let id_ : FV × Nat := (redBig op.fmt true, 0xFFFFFFFF)
  let xs := (redEls (getCore s c) op).map (fun x => match x with
    | some e => (e.2, (op.base.toNat + e.1) % 2 ^ 32)
    | none => id_)
  let r := redOf argBetter id_ xs
  let put := fun (p : FV × Nat) => (redWord op.fmt p.1, w32 p.2)
  redIssue s c op false (fun a => put (argBetter (redVal op.fmt a.1, a.2.toNat) r)) (put r)

/-- exp of a difference that is first rounded to FP32. -/
def expDiff (x m : FV) : FV := tfn .exp (fsub x m)

/-- Log-sum-exp of one register: the maximum, and the sum of exponentials below it (R125, R127). -/
def lseOf (xs : List (Option FV)) : FV × FV :=
  let m := redOf fmax2 (.inf true) (xs.map (fun x => x.getD (.inf true)))
  let s := if m.isNaN then .nan
    else if m = .inf false then .nan
    else if m = .inf true then zeroV
    else redOf fadd zeroV (xs.map (fun x => match x with
      | some v => expDiff v m
      | none => zeroV))
  (m, s)

/-- The fold of Table VEC-3. -/
def lseFold (a r : FV × FV) : FV × FV :=
  let m := fmax2 a.1 r.1
  if m.isNaN then (.nan, .nan)
  else if m = .inf false then (m, .nan)
  else if m = .inf true then (m, zeroV)
  else (m, fadd (fmul a.2 (expDiff a.1 m)) (fmul r.2 (expDiff r.1 m)))

def redLse (s : State) (c : Nat) (op : RedOp) : State :=
  let r := lseOf ((redEls (getCore s c) op).map (fun x => x.map Prod.snd))
  let put := fun (p : FV × FV) => (fp32Of p.1, fp32Of p.2)
  redIssue s c op true (fun a => put (lseFold (fp32Val a.1, fp32Val a.2) r)) (put r)

def execReduceSum (core : CoreId) (op : RedOp) (s : State) : Host.Outcome State Fault Refusal :=
  .next (if coreRuns s core then redSum s core op false else s)

def execReduceSumOfSquares (core : CoreId) (op : RedOp) (s : State) : Host.Outcome State Fault Refusal :=
  .next (if coreRuns s core then redSum s core op true else s)

def execReduceMax (core : CoreId) (op : RedOp) (s : State) : Host.Outcome State Fault Refusal :=
  .next (if coreRuns s core then redExt s core op true else s)

def execReduceMin (core : CoreId) (op : RedOp) (s : State) : Host.Outcome State Fault Refusal :=
  .next (if coreRuns s core then redExt s core op false else s)

def execReduceArgmax (core : CoreId) (op : RedOp) (s : State) : Host.Outcome State Fault Refusal :=
  .next (if coreRuns s core then redArg s core op else s)

def execReduceLogSumExp (core : CoreId) (op : RedOp) (s : State) : Host.Outcome State Fault Refusal :=
  .next (if coreRuns s core then redLse s core op else s)

/-! ### Landing (R120) -/

/-- One result lands in the register file, a mask, an accumulator or the scratchpad. -/
def landVec (s : State) (c : Nat) (w : VWrite) : State :=
  match w with
  | .reg r ls sl => modCore s c (fun k =>
      let regs := ls.foldl (fun t x =>
        let key := r * 512 + x.1
        tput t key ((tgetD t key 0 &&& ~~~ x.2.2) ||| (x.2.1 &&& x.2.2))) k.vec.regs
      let silt := sl.foldl (fun l x =>
        let g := r * 32 + x.1
        let l := l.filter (· ≠ g)
        if x.2 then l ++ [g] else l) k.vec.silt
      { k with vec := { k.vec with regs := regs, silt := silt } })
  | .mask m v bits => if m = 0 then s else modCore s c (fun k =>
      { k with vec := { k.vec with masks := tput k.vec.masks m ((tgetD k.vec.masks m 0 &&& ~~~ bits) ||| (v &&& bits)) } })
  | .acc a lo hi sl => modCore s c (fun k => { k with vec := { k.vec with accs := tput k.vec.accs a (lo, hi, sl) } })
  | .mem g bs sl =>
    let off := g * 64 - spadBase c
    let t := schedTouch s c true [off]
    if !t.2 then t.1
    else
      let old := granuleBytes t.1 g
      putGranule (meterCore t.1 c 7 1) g (if sl then siltBytes
        else bs.foldl (fun l b => l.set b.1 ((old.getD b.1 0 &&& ~~~ b.2.2) ||| (b.2.1 &&& b.2.2))) old)

/-- Results whose counter value has come land, in the order in which they were issued. -/
def landDue (s : State) (c : Nat) : State :=
  let now := schedCount s c
  let d := (getCore s c).vec.due
  let s := modCore s c (fun k => { k with vec := { k.vec with due := k.vec.due.filter (fun e => decide (now < e.1)) } })
  (d.filter (fun e => decide (e.1 ≤ now))).foldl (fun s e => landVec s c e.2) s

end Sys2Proof.Machine
end

