-- ==== Sys2Proof/Machine/Tokens.lean ====
section
/-!
DEFINITION. Tokens, wait points, row fences, step boundaries, and the tables of sluice windows and
turnout-credit ranges (04_tiling_schedules, R106-R112; 06_basin_scratchpads, R143, R159-R163).
-/
namespace Sys2Proof.Machine

/-! ### Tokens (R109, R260) -/

/-- The packet of a token. -/
def tokenPacket (s : State) (c : Nat) (op : TokenOp) : PType × Packet :=
  let base := fun (t : Nat) (addr aux : Nat) => mkPkt (taskCls s c) c t (coreStamp s c) addr aux
  match op with
  | .write t i b n => (.writeToken, { base t n b with index := i, wkind := 1#2 })
  | .free t i b => (.freeToken, { base t 0 b with index := i, wkind := 1#2 })
  | .grant t i u => (.freeToken, { base t 0 u with index := i, wkind := 2#2 })

/-- What sending a token does at its sender: a write token gives up the buffer's turnout credit (R109); a free token ends the count of bytes
landed in its buffer since the last (R161). -/
def tokenSent (k : Core) (op : TokenOp) : Core :=
  match op with
  | .write t i b _ => { k with owned := k.owned.filter (· ≠ (t * 256 + i) * 8 + b) }
  | .free _ i b => match tget k.wins i with
    | none => k
    | some w => { k with wins := tput k.wins i { w with landed := tdel w.landed b } }
  | .grant _ _ _ => k

/-- A stage sends a token; it is held while its injection port has no room (R257). -/
def tokenSendOp (s : State) (c : Nat) (op : TokenOp) : State :=
  let q := tokenPacket s c op
  if injectionFull s c (vcOf q.1 q.2) then creditHold s c .injection
  else sendPkt (modCore (releaseHold s c .injection) c (fun k => tokenSent k op)) q.1 q.2

def execTokenSend (core : CoreId) (op : TokenOp) (s : State) : Host.Outcome State Fault Refusal :=
  .next (if retryRuns s core [.injection] then tokenSendOp s core op else s)

/-! ### Wait points (R110, R111, R161, R183) -/

/-- Stages of the pipeline whose task a core runs. -/
def taskPipe (s : State) (c : Nat) : Option (Nat × Pipe) :=
  match (getCore s c).task with
  | none => none
  | some t => (getPipe s (pipeKey t.prog t.pipe)).map (fun p => (pipeKey t.prog t.pipe, p))

/-- The checks of every stage of the task's pipeline for a boundary have arrived; the core's own takes no packet. -/
def checksIn (s : State) (c n : Nat) : Bool :=
  match taskPipe s c with
  | none => true
  | some (_, p) => decide (p.cores.length ≤ tgetD (getCore s c).checks (n % 1024) 0 + 1)

/-- A wait is satisfied: the core after taking its token. A free token becomes the credit of its buffer (R109). -/
def waitTake (s : State) (c : Nat) (w : WaitFor) : Option Core :=
  let k := getCore s c
  match w with
  | .writeToken i b =>
    match tget k.wtok (i * 8 + b) with
    | none => none
    | some n =>
      let landed := ((tget k.wins i).map (fun v => tgetD v.landed b 0)).getD 0
      if landed = n then some { k with wtok := tdel k.wtok (i * 8 + b) } else none
  | .freeToken t i b =>
    let key := (t * 256 + i) * 8 + b
    match tget k.ftok key with
    | none => none
    | some _ => some (takeRing k [key])
  | .checks n => if checksIn s c n then some k else none
  | .flume p => match tget s.passes p with
    | none => some k
    | some r => if r.st = .done then some k else none
  | .furrow r => if (tget s.furrow r).isSome then none else some k

/-- The core runs, or is held at a wait point, which is presented again when its token may have come. -/
def waitReady (s : State) (c : Nat) : Bool := retryRuns s c [.token]

/-- A wait point; the first of a step waits for the checks of the boundary before it too (R111). -/
def waitOp (s : State) (c : Nat) (w : WaitFor) : State :=
  let gated := match (getCore s c).gate with
    | some n => !checksIn s c n
    | none => false
  match waitTake s c w with
  | some k => if gated then creditHold s c .token else releaseHold (setCore s c { k with gate := none }) c .token
  | none => creditHold s c .token

def execWaitPoint (core : CoreId) (w : WaitFor) (s : State) : Host.Outcome State Fault Refusal :=
  .next (if waitReady s core then waitOp s core w else s)

/-- Every DMA write that the core issued into a range has landed, with every write that the range's banks hold back (R143). -/
def fenceClear (s : State) (c addr bytes : Nat) : Bool :=
  let k := getCore s c
  let inR := fun (g : Nat) => decide (addr / 64 ≤ g) && decide (g * 64 < addr + bytes)
  let meets := fun (x : Nat × Nat) => decide (x.1 < addr + bytes) && decide (addr < x.1 + x.2)
  let port := match unitOf (addr / 64) with
    | some u => getBanks s u
    | none => BankPort.reset
  let spad := match unitOf (addr / 64) with
    | some (.spad x) => (getCore s x).partials
    | _ => []
  !k.dma.any (fun d => d.open_.any inR) && !k.dmaWait.any (fun w => (dmaWrites s c w.1).any meets) &&
  !port.held.any (fun d => inR d.granule) && !spad.any (fun d => inR d.granule)

def rowFenceOp (s : State) (c addr bytes : Nat) : State :=
  if fenceClear s c addr bytes then releaseHold s c .token else creditHold s c .token

def execRowFence (core : CoreId) (addr bytes : Nat) (s : State) : Host.Outcome State Fault Refusal :=
  .next (if waitReady s core then rowFenceOp s core addr bytes else s)

/-! ### Step boundaries (R111, R304, R314, R321) -/

/-- Some task of a sequence has still to start or to end on its pipeline. -/
def seqBusy (s : State) (key q : Nat) : Bool :=
  match getPipe s key with
  | none => false
  | some p => p.queues.any (·.contains q) ||
    p.cores.any (fun c => match (getCore s c).task with
      | some t => t.seq == q && pipeKey t.prog t.pipe == key
      | none => false)

/-- The class is shed in a partition, by its own scope or the device's (R321). -/
def clsShed (s : State) (part cls : Nat) : Bool :=
  let on := fun (p : Scope) => (cls == 2 && p.shedJ) || (cls == 1 && p.shedS)
  on s.pow.dev || (match getPart s part with
    | none => false
    | some p => on p.pow)

/-- The step of a sequence has ended on every stage: the sequence goes on, or has its final completion. -/
def stepEnded (s : State) (q : Nat) : State :=
  match getSeq s q with
  | none => s
  | some r =>
    let r := { r with done := r.done + 1 }
    let s := setSeq s q r
    let s : State := match tget s.head.secure r.part with
      | some c => if ((getPipe s r.pipe).map (·.reserved)).getD false then s
        else { s with head := { s.head with secure := tput s.head.secure r.part { c with cur := c.cur + 1 } } }
      | none => s
    if r.done ≥ r.steps then endSeq s q .ok r.done
    else if r.cancel then endSeq s q .cancelled r.done
    else if clsShed s r.part r.cls then endSeq s q .refusedAllotment r.done
    else s

/-- The clock of a partition stands below 1.4 GHz, or an emergency is in force (R323). -/
def clockLow (s : State) (p : Nat) : Bool :=
  s.pow.emergency || decide (0 < s.pow.dev.k) || ((getPart s p).map (fun v => decide (0 < v.pow.k))).getD false

/-- Times in ns from the doorbell of a sequence to its acknowledgement and to its first task (R322). -/
def seniorTimes (r : Sequ) (start : Nat) : Nat × Nat := ((r.ackAt - r.bell) * 10 / 14, (start - r.bell) * 10 / 14)

/-- The senior record of R324, for a sequence that has exceeded bounds of R322. The last byte counts the conditions of R323 from 1 and
the rows of Table PRG-6 from 16. -/
def seniorRecord (s : State) (r : Sequ) (start overs why : Nat) : State :=
  if overs = 0 then s
  else
    let t := seniorTimes r start
    telemeter s 4 78 (some r.part) (leBytes 4 r.tag.toNat ++ leBytes 2 r.ctx ++ leBytes 4 t.1 ++ leBytes 4 t.2 ++
      [BitVec.ofNat 8 overs, BitVec.ofNat 8 why])

/-- Held cycles of a core's task (R113). -/
def taskHeld (s : State) (c : Nat) : Nat := (rawReg s .coSchHoldEcc c).toNat + (rawReg s .coSchHoldCredit c).toNat

/-- A senior sequence's task ends: its H and S are recorded, and a counter beyond C is a bound exceeded (R113, R322, R324). -/
def seniorEnd (s : State) (c : Nat) (t : Task) : State :=
  match getSeq s t.seq with
  | none => s
  | some r =>
    if r.cls ≠ 0 then s
    else
      let s := setSeq s t.seq { r with held := r.held ++ [(t.stage, taskHeld s c, (getRegion s (coreRegion c)).spills - t.spills)] }
      seniorRecord s r r.startAt (4 * b2n (decide (t.budget < schedCount s c))) (if clockLow s r.part then 2 else 0)

/-- Figures of a core's governed stream added to a sum. -/
def GovSum.plus (a : GovSum) (s : State) (c : Nat) : GovSum :=
  let r := rawReg s .coFstAmax c
  { z := a.z + (rawReg s .coFstNonzero c).toNat, overs := a.overs + (rawReg s .coFstOver c).toNat,
    h31 := a.h31 + ((List.range 33).map (fun j => (rawReg s .coFstHist c (31 + j)).toNat)).sum,
    h63 := a.h63 + (rawReg s .coFstHist c 63).toNat,
    amax := if a.amax.toNat < r.toNat then r else a.amax, nan := a.nan || (getCore s c).fstNan }

def GovSum.zero : GovSum := ⟨0, 0, 0, 0, 0, false⟩

/-- The figures that a task's governed stream leaves on its core are added to its layer's (R217). -/
def collectFigures (s : State) (c : Nat) (t : Task) : State :=
  match getSeq s t.seq, (taskStage s c).bind (·.layer) with
  | some r, some l => match tget s.head.models r.model with
    | none => s
    | some m => match tget m.govs l with
      | none => s
      | some g =>
        let m' : Model := { m with govs := tput m.govs l { g with sum := g.sum.plus s c } }
        { s with head := { s.head with models := tput s.head.models r.model m' } }
  | _, _ => s

/-- A core's task ends; the last stage's end is the end of the step. -/
def taskEnd (s : State) (c : Nat) : State :=
  match (getCore s c).task with
  | none => s
  | some t =>
    let s := modCore (collectFigures (seniorEnd s c t) c t) c (fun k => { k with task := none })
    if (getSeq s t.seq).isSome && !seqBusy s (pipeKey t.prog t.pipe) t.seq then stepEnded s t.seq else s

/-- No output tile is open, no token is owed and no commit is in flight: a boundary may stand here (R111). -/
def boundaryClear (k : Core) : Bool :=
  k.banks.all (fun e => e.2.free) && k.staging.isEmpty && k.owned.isEmpty && k.dma.all (fun d => d.tokens.isEmpty) &&
  k.dmaWait.all (fun w => !(dmaFields w.1).token)

/-- A stage passes its step boundary: a CHECK to every other stage, a new sample position, the end of the task. -/
def boundaryPass (s : State) (c : Nat) : State :=
  match (getCore s c).task, taskPipe s c with
  | some t, some (_, p) =>
    let n := (getCore s c).boundary
    let s := sendAll s .check ((p.cores.filter (· ≠ c)).map (fun d =>
      mkPkt (taskCls s c) c d (coreStamp s c) 0 (t.pipe % 64 + 64 * (n % 1024))))
    let d := drawFresh s
    let s := modCore d.2 c (fun k => { k with boundary := (n + 1) % 1024, gate := some n, samplePos := Config.sampleStart d.1 })
    taskEnd s c
  | _, _ => taskEnd (modCore s c (fun k => { k with boundary := (k.boundary + 1) % 1024 })) c

/-- A boundary where R111 lets none stand has no place in a verified schedule (log entry 73). -/
def boundaryOp (s : State) (c : Nat) : State := if boundaryClear (getCore s c) then boundaryPass s c else s

/-- The boundaries of a pipeline's stages are counted afresh, from its start on. -/
def freshBoundaries (s : State) (cores : List Nat) : State :=
  cores.foldl (fun s c => modCore s c (fun k => { k with boundary := 0, checks := [], gate := none })) s

def execStepBoundaryCheck (core : CoreId) (s : State) : Host.Outcome State Fault Refusal :=
  .next (if coreRuns s core then boundaryOp s core else s)

/-! ### Windows and ranges (R159-R163) -/

/-- Fields of Table BASIN-5. -/
def windowOf (d : BitVec 128) (gen : Nat) : Window :=
  { base := fld d 0 20, size := fld d 20 20, ring := fld d 40 4, kind := fld d 44 2, wr := d.getLsbD 46, add := d.getLsbD 47,
    srcId := fld d 48 16, gen := gen, isOpen := true, drainClosed := false, landed := [] }

/-- Fields of Table BASIN-6. -/
def rangeOfDesc (d : BitVec 128) (gen : Nat) : CRange :=
  { base := fld d 0 20, units := fld d 20 16, unitLog := fld d 36 4, kind := fld d 44 2, wr := d.getLsbD 46,
    srcId := fld d 48 16, gen := gen, isOpen := true, drainClosed := false, granted := fld d 80 16, admitted := 0 }

def srcFieldOk (kind id : Nat) : Bool :=
  match kind with
  | 0 => decide (id < 240)
  | 2 => decide (id < 8192)
  | _ => id == 0

/-- A window descriptor breaks no rule of Table BASIN-5 or R161; gen and open are ignored. -/
def windowOk (d : BitVec 128) : Bool :=
  let w := windowOf d 0
  decide (1 ≤ w.size) && decide (w.size ≤ 786432) && decide (w.base + w.size ≤ 786432) &&
  (w.ring == 0 || (decide (2 ≤ w.ring) && decide (w.ring ≤ 8) && w.size % w.ring == 0)) &&
  srcFieldOk w.kind w.srcId && fld d 73 55 == 0

/-- A range descriptor breaks no rule of Table BASIN-6 or R162. -/
def rangeOk (d : BitVec 128) : Bool :=
  let w := rangeOfDesc d 0
  decide (1 ≤ w.units) && decide (w.base + w.units * 2 ^ w.unitLog ≤ 786432) && decide (w.granted ≤ w.units) &&
  srcFieldOk w.kind w.srcId && fld d 40 4 == 0 && fld d 47 1 == 0 && fld d 73 7 == 0 && fld d 96 32 == 0

def descOk (turnout : Bool) (d : BitVec 128) : Bool := if turnout then rangeOk d else windowOk d

/-- Granules that a descriptor covers: first and count. -/
def descSpan (turnout : Bool) (d : BitVec 128) : Nat × Nat :=
  if turnout then let r := rangeOfDesc d 0; (r.base, r.units * 2 ^ r.unitLog) else let w := windowOf d 0; (w.base, w.size)

/-- Spans of a core's open windows and ranges. -/
def openSpans (k : Core) : List (Nat × Nat) :=
  (k.wins.filter (·.2.isOpen)).map (fun e => (e.2.base, e.2.size)) ++
  (k.rngs.filter (·.2.isOpen)).map (fun e => (e.2.base, e.2.units * 2 ^ e.2.unitLog))

def spansMeet (a b : Nat × Nat) : Bool := decide (a.1 < b.1 + b.2) && decide (b.1 < a.1 + a.2)

def slotOpen (k : Core) (turnout : Bool) (i : Nat) : Bool :=
  if turnout then ((tget k.rngs i).map (·.isOpen)).getD false else ((tget k.wins i).map (·.isOpen)).getD false

/-- Generation in force of an index. -/
def slotGen (k : Core) (turnout : Bool) (i : Nat) : Nat :=
  if turnout then ((tget k.rngs i).map (·.gen)).getD 0 else ((tget k.wins i).map (·.gen)).getD 0

def slotLimit (turnout : Bool) : Nat := if turnout then 64 else 256

/-- Open an index with a descriptor under a generation. -/
def openSlot (k : Core) (turnout : Bool) (i : Nat) (d : BitVec 128) (gen : Nat) : Core :=
  if turnout then { k with rngs := tput k.rngs i (rangeOfDesc d gen) } else { k with wins := tput k.wins i (windowOf d gen) }

/-- Close an index: its generation rises modulo 256; a closed index does not change (R163). -/
def closeSlot (k : Core) (turnout : Bool) (i : Nat) (drain : Bool) : Core :=
  if turnout then
    match tget k.rngs i with
    | none => k
    | some r => if r.isOpen then { k with rngs := tput k.rngs i { r with isOpen := false, drainClosed := drain, gen := (r.gen + 1) % 256 } } else k
  else
    match tget k.wins i with
    | none => k
    | some w => if w.isOpen then { k with wins := tput k.wins i { w with isOpen := false, drainClosed := drain, gen := (w.gen + 1) % 256 } } else k

/-- Close every window and range of a core. -/
def closeAll (s : State) (c : Nat) (drain : Bool) : State :=
  modCore s c (fun k =>
    let k := (k.wins.map (·.1)).foldl (fun k i => closeSlot k false i drain) k
    (k.rngs.map (·.1)).foldl (fun k i => closeSlot k true i drain) k)

/-- Open a compiled window: its generation is the image's (R163). An index that is open, or a span that overlaps, stays as it is (R160). -/
def openCompiled (s : State) (c : Nat) (turnout : Bool) (i : Nat) (d : BitVec 128) : State :=
  let k := getCore s c
  if decide (slotLimit turnout ≤ i) || !descOk turnout d || slotOpen k turnout i || (openSpans k).any (spansMeet (descSpan turnout d)) then s
  else setCore s c (openSlot k turnout i d (fld d 64 8))

def execScheduleWindowOpen (core : CoreId) (turnout : Bool) (index : Nat) (desc : BitVec 128) (s : State) :
    Host.Outcome State Fault Refusal :=
  .next (if coreRuns s core then openCompiled s core turnout index desc else s)

def execScheduleWindowClose (core : CoreId) (turnout : Bool) (index : Nat) (s : State) : Host.Outcome State Fault Refusal :=
  .next (if coreRuns s core then modCore s core (fun k => closeSlot k turnout index false) else s)

/-- Add units to a range; none beyond the units it holds may be outstanding (R162). -/
def grantUnits (k : Core) (i n : Nat) : Option (Core × Nat) :=
  match tget k.rngs i with
  | none => none
  | some r =>
    if !r.isOpen || decide (r.units < r.granted + n - r.admitted) then none
    else some ({ k with rngs := tput k.rngs i { r with granted := r.granted + n } }, r.granted + n)

def execGrantInstruction (core : CoreId) (index units : Nat) (s : State) : Host.Outcome State Fault Refusal :=
  .next (if coreRuns s core then
      match grantUnits (getCore s core) index units with
      | some (k, _) => setCore s core k
      | none => endTaskSeq s core .badCommand 0
    else s)

/-! ### Holds -/

/-- The rest of an ECC hold passes; its cycles are counted as held (R108). -/
def eccEnd (s : State) (c : Nat) : State :=
  let n := (getCore s c).ecc
  if n = 0 then s else bump (modCore s c (fun k => { k with ecc := 0 })) .coSchHoldEcc c n

def execEccHoldEnd (core : CoreId) (s : State) : Host.Outcome State Fault Refusal := .next (eccEnd s core)

/-- End every task of a pipeline that has been halted, leaving its cores idle and unfaulted: it restarts in place. -/
def restartPipe (s : State) (key : Nat) : State :=
  match getPipe s key with
  | none => s
  | some p =>
    let s := p.cores.foldl (fun s c => modCore s c (fun k =>
      if (k.task.map (fun t => pipeKey t.prog t.pipe)) = some key ∨ k.task.isNone then { k with task := none, credit := [] } else k)) (freshBoundaries s p.cores)
    match getPipe s key with
    | none => s
    | some p => setPipe s key { p with halted := false, queues := p.queues.map (fun _ => []) }

/-- A credit hold longer than the wait limit is reported (R112). With no faulted core the pipeline halts, its sequences end
with STAGE_LOST, and it restarts in place (R375). -/
def stallOp (s : State) (c : Nat) : State :=
  let k := getCore s c
  let longest := (k.credit.map (·.cycles)).foldl max 0
  if longest ≤ (rawReg s .coSchWaitLimit c).toNat || s.head.reload = 2 then s
  else
    let s := report (setEvent s .coSchEvent c 0) 0x001C 0 (corePart s c) c (longest % 2 ^ 32) (coreRegion c)
    match taskPipe s c with
    | none => s
    | some (key, p) => if p.cores.any (fun x => (getCore s x).faulted || (getCore s x).lost) then s else restartPipe (haltPipe s key .stageLost) key

def execStallReport (core : CoreId) (s : State) : Host.Outcome State Fault Refusal := .next (stallOp s core)

end Sys2Proof.Machine
end

