-- ==== Sys2Proof/Machine/CanalLinks.lean ====
section
/-!
DEFINITION. Protection of the canal's links and the via tables (10_canal, R258, R261, R262, R265, R268).
-/
namespace Sys2Proof.Machine

/-- Router on the other side of a link: 0 north, 1 east, 2 south, 3 west. -/
def neighbour (r d : Nat) : Option Nat :=
  match d with
  | 0 => if coreY r = 0 then none else some (r - 20)
  | 1 => if coreX r = 19 then none else some (r + 1)
  | 2 => if coreY r = 11 then none else some (r + 20)
  | _ => if coreX r = 0 then none else some (r - 1)

/-- One bit into a CRC of `w` bits with a generator. -/
def crcBit (w poly crc : Nat) (b : Bool) : Nat :=
  let top := decide (crc / 2 ^ (w - 1) % 2 = 1)
  let sh := crc * 2 % 2 ^ w
  if top != b then sh ^^^ poly else sh

/-- CRC of the low n bits of a number, from bit 0 upward (R261). -/
def crcOf (w poly init n v : Nat) : Nat := (List.range n).foldl (fun c i => crcBit w poly c (v.testBit i)) init

/-- CRC-8 of a credit word's bits 23:0; CRC-16 of a header's bits 175:0. -/
def crc8 (v : Nat) : Nat := crcOf 8 0x07 0 24 v
def crc16 (v : Nat) : Nat := crcOf 16 0x1021 0xFFFF 176 v

/-- A flit with a wrong control CRC is discarded, and every later one until the replay (R261). -/
def crcErrorOp (s : State) (r d : Nat) : State :=
  match neighbour r d with
  | none => s
  | some _ =>
    let l := getLink s r d
    if l.down then s
    else bump (setLink s r d (if l.discarding then l else { l with discarding := true, refused := l.refused + 1 })) .cnRtCrcErr r 1

def execFlitCrcError (router : CoreId) (dir : Fin 4) (s : State) : Host.Outcome State Fault Refusal :=
  .next (crcErrorOp s router dir)

/-- A credit word arrives at the sender of a link (R258, R261): its credits are added, and a nak replays from nak_seq. -/
def creditWordOp (s : State) (r d : Nat) (w : W32) : State :=
  match neighbour r d with
  | none => s
  | some n =>
    let l := getLink s r d
    if l.down then s
    else if crc8 (getBits w 0 24) ≠ getBits w 24 8 then bump s .cnRtCrcErr r 1
    else
      let l := { l with sinceWord := 0 }
      let key := getBits w 1 3 * 2 + getBits w 4 1
      let l := if w.getLsbD 0 then
          let c := getBits w 5 6
          let add := (c + 64 - tgetD l.lastCount key 0) % 64
          { l with lastCount := tput l.lastCount key c, credits := tput l.credits key (tgetD l.credits key (vcBuffers (getBits w 1 3)) + add) }
        else l
      let s := setLink s r d l
      if w.getLsbD 11 && l.kept.contains (getBits w 12 6) then
        let s := setEvent (bump s .cnRtReplay r 1) .cnRtEvent r 1
        let b := getLink s n (dirOf n r)
        setLink s n (dirOf n r) { b with discarding := false }
      else s

def execCreditWord (router : CoreId) (dir : Fin 4) (word : W32) (s : State) : Host.Outcome State Fault Refusal :=
  .next (creditWordOp s router dir word)

/-- Some credit of a link is owed. -/
def creditsOwed (l : CLink) : Bool := l.credits.any (fun e => decide (e.2 < vcBuffers (e.1 / 2)))

/-- R262: one lseq refused 16 times, or no valid credit word for 4,096 cycles while credits are owed. -/
def linkFails (l : CLink) : Bool := decide (16 ≤ l.refused) || (decide (4096 ≤ l.sinceWord) && creditsOwed l)

/-- A packet has a hop between two routers still before it, either way. -/
def usesHop (s : State) (a b : Nat) (t : PType) (p : Packet) : Bool :=
  (hopsLeft s t p).any (fun h => (h.1 == a && h.2.1 == b) || (h.1 == b && h.2.1 == a))

/-- Both routers stop using a link, and the flits in flight on it are lost. -/
def linkDownOp (s : State) (r d : Nat) : State :=
  match neighbour r d with
  | none => s
  | some n =>
    let l := getLink s r d
    if l.down || !linkFails l then s
    else
      let s := setLink s r d { l with down := true }
      let s := setLink s n (dirOf n r) { getLink s n (dirOf n r) with down := true }
      let lost := s.canal.filter (fun e => usesHop s r n e.1 e.2)
      let s := dropPackets s (fun t p => !lost.contains (t, p))
      report (setEvent (setEvent s .cnRtEvent r 0) .cnRtEvent n 0) 0x0012 0 none r d

def execCanalLinkDown (router : CoreId) (dir : Fin 4) (s : State) : Host.Outcome State Fault Refusal :=
  .next (linkDownOp s router dir)

/-- No router and no link is withdrawn or down. -/
def netWhole (s : State) : Bool :=
  !(ledgerAll s).any (fun e => ledgerType e == 3 || ledgerType e == 4 || ledgerType e == 0xE) &&
  !s.fields.any (·.2.dark) && !s.links.any (·.2.down)

/-- A via entry may not be rewritten now: a packet of the flow is in flight, or the router's core runs a task (R268). -/
def flowBusy (s : State) (a e : Nat) : Bool :=
  s.canal.any (fun p => endpointRouter p.2.src == a && p.2.dst == e) || (getCore s a).task.isSome

/-- The via tables from the live routers and links (R265), entries of busy flows kept (R268). -/
def viaTable (s : State) (force : Bool) : Tab Nat :=
  let put := fun (t : Tab Nat) (a e v : Nat) => if v = 0xFF then tdel t (a * 512 + e) else tput t (a * 512 + e) v
  if netWhole s then
    s.head.via.foldl (fun t x =>
      if !force && flowBusy s (x.1 / 512) (x.1 % 512) then t else tdel t x.1) s.head.via
  else
    (List.range 240).foldl (fun t a =>
      if routerWithdrawn s a then t
      else (List.range 394).foldl (fun t e =>
        if !force && flowBusy s a e then t
        else match viaFor s a (endpointRouter e) with
          | some v => put t a e v
          | none => t) t) s.head.via

def recompute (s : State) (force : Bool) : State := { s with head := { s.head with via := viaTable s force } }

def execRouteRecompute (s : State) : Host.Outcome State Fault Refusal := .next (recompute s false)

/-- Some two live endpoints have no route (R266): two presented cores, a pool port, or a memory or link endpoint. -/
def routeMissing (s : State) : Bool :=
  if netWhole s then false
  else
    let live := ((List.range 394).map (fun e => (e, endpointRouter e))).filter (fun x =>
      !routerWithdrawn s x.2 && (decide (240 ≤ x.1) || corePresented s x.1))
    let rs := (live.map Prod.snd).eraseDups
    rs.any (fun a => rs.any (fun b => (viaFor s a b).isNone))

end Sys2Proof.Machine
end

