-- ==== Sys2Proof/Machine/Clocks.lean ====
section
/-!
DEFINITION. Clock regions and crossings (15_clocking, R381-R399): generators, holdover, the crossings' bypass, spills, gauges and
correlation; and the powering of single domains.
-/
namespace Sys2Proof.Machine

/-! ### Crossings (R386-R388, Table CLK-1) -/

/-- Sending and receiving region of a crossing: pair i carries crossing 2i from its first region and 2i + 1 to it. -/
def crossRegions (x : Nat) : Option (Nat × Nat) :=
  (crossPairs[x / 2]?).map (fun p => if x % 2 = 0 then p else (p.2, p.1))

/-- The conditions of R387 but skew: both generators locked, one setting, no spill on either side. -/
def sidesMeet (s : State) (a b : Nat) : Bool :=
  let g := getRegion s a
  let h := getRegion s b
  g.locked && h.locked && g.k == h.k && g.spill == 0 && h.spill == 0

def getAgent (s : State) (a : Nat) : Agent := tgetD s.clk.agents a Agent.reset

def modAgent (s : State) (a : Nat) (f : Agent → Agent) : State :=
  { s with clk := { s.clk with agents := tput s.clk.agents a (f (getAgent s a)) } }

/-- Bring one crossing up to date with the conditions of R387: a failing one disengages the bypass, and a condition that
clears starts the wait of 64 cycles (R388). -/
def checkCrossing (s : State) (x a b : Nat) : State :=
  let c := getCrossing s x
  if sidesMeet s a b && !c.skew then
    if c.engaged || c.clear.isSome then s else setCrossing s x { c with clear := some (getRegion s b).count }
  else
    let s := if c.engaged then
        let s : State := { s with clk := { s.clk with dis := (s.clk.dis + 1) % 2 ^ 32 } }
        [a, b].foldl (fun (s : State) r => modAgent s r (fun g => { g with dis := g.dis + 1 })) s
      else s
    if c.engaged || c.clear.isSome then setCrossing s x { c with engaged := false, clear := none } else s

/-- Every crossing of some regions. -/
def checkCrossings (s : State) (p : Nat → Bool) : State :=
  (crossPairs.zip (List.range crossPairs.length)).foldl (fun (s : State) e =>
    if p e.1.1 || p e.1.2 then checkCrossing (checkCrossing s (2 * e.2) e.1.1 e.1.2) (2 * e.2 + 1) e.1.2 e.1.1 else s) s

def checkRegion (s : State) (r : Nat) : State := checkCrossings s (· == r)

/-- A bypass re-engages 64 cycles of the receiving region after its failing condition clears. A skew has no reading of its own: the
re-engagement says that the offset is back within its window (log entry 2). -/
def reengageOp (s : State) (x : Nat) : State :=
  match crossRegions x with
  | none => s
  | some (a, b) =>
    let c := getCrossing s x
    if c.engaged || !sidesMeet s a b then s
    else if c.skew then setCrossing s x { c with engaged := true, skew := false, clear := none }
    else match c.clear with
      | some t => if t + 64 ≤ (getRegion s b).count then setCrossing s x { c with engaged := true, clear := none } else s
      | none => s

def execBypassReengage (crossing : Nat) (s : State) : Host.Outcome State Fault Refusal := .next (reengageOp s crossing)

/-- The phase offset leaves its window of ±50 ps. -/
def skewOp (s : State) (x : Nat) : State :=
  match crossRegions x with
  | none => s
  | some (a, b) =>
    let s := setEvent s .ckEvent 0 4
    checkCrossing (setCrossing s x { getCrossing s x with skew := true }) x a b

def execCrossingSkewLeftWindow (crossing : Nat) (s : State) : Host.Outcome State Fault Refusal := .next (skewOp s crossing)

/-! ### Domains (R29, R382, R406) -/

/-- Registers of a core's block that belong to its cluster domain: routers and scratchpad banks stay up (Table ORG-6). -/
def clusterRegs : List Reg := (Blk.core.regs).filter (fun r => ! [Reg.bsSpSameRow, .bsSpDeferred, .bsSpWinRefused, .bsSpCredRefused, .bsSpTables,
  .bsSpEvent, .bsFlPasses, .bsFlRows, .bsFlChkFail, .bsFuRows, .bsFuChkFail, .bsFuWaitMax, .bsFuIdxOob, .bsEngEvent, .cnRtState, .cnRtDataFlits,
  .cnRtCtlFlits, .cnRtCrcErr, .cnRtReplay, .cnRtDrop, .cnRtSink, .cnRtWait, .cnRtEvent].contains r)

/-- Return registers of a copy to their reset values. -/
def clearRegs (s : State) (rs : List Reg) (u : Nat) : State :=
  rs.foldl (fun (s : State) r => { s with regs := (List.range r.row.words).foldl (fun t w => tdel t (r.addr u w)) s.regs }) s

/-- What a core loses with its cluster's power; its scratchpad, its write ports and its windows are of the field domain. -/
def coreOff (k : Core) : Core :=
  { k with ecc := 0, credit := [], port := { k.port with coming := [] }, split := false, shadow := [], active := [], loads := [],
           unswapped := [], banks := [], staging := [], vec := Vec.reset, wtok := [], ftok := [], owned := [], checks := [], gate := none,
           dma := [], dmaWait := [], maskBytes := [], maskSilt := [], maskUsed := [], tread := [], repeating := false, logDue := none,
           vectors := [], streams := [] }

/-- A domain's region record as its power goes: the count restarts when it next leaves reset (R395). -/
def regionOff (g : Region) : Region :=
  { g with powered := false, running := false, locked := false, out := false, holdover := false, slewing := false, count := 0, k := 0,
           spill := 0, below3 := false, power := 0, volts := 0, draining := none }

def clusterOff (s : State) (cl : Nat) : State :=
  let s := (clusterCores cl).foldl (fun s c => modCore s c coreOff) s
  checkRegion (setRegion s cl (regionOff (getRegion s cl))) cl

/-- A pass that a field's power takes with it: of its pool, or of a scratchpad in it. -/
def passIn (f : Nat) (p : Pass) : Bool := match p.field with
  | some x => x == f
  | none => coreField p.core == f

/-- Furrow requests that a field's engines hold are gone; a core elsewhere that awaited one ends its task (R31). -/
def dropFurrow (s : State) (f : Nat) : State :=
  let at_ := fun (e : Nat × FuReq) => match placeOf (fuDesc e.2.req).target with
    | .spad c _ => coreField c == f
    | .pool x _ => x == f
    | _ => false
  let gone := s.furrow.filter at_
  gone.foldl (fun (s : State) e => if e.2.remote || coreField e.2.core == f then s else endTaskSeq s e.2.core .regionShed 0)
    { s with furrow := s.furrow.filter (fun e => !at_ e) }

/-- A field domain goes off (R18): its basin contents are undefined, every matrix pinned in it is lost, and what its banks, its pool and
its engines held is gone. Its pool ranges stand. -/
def fieldOff (s : State) (f : Nat) : State :=
  let s := losePins (undefine s (fieldBase f) (fieldBase f + 0x60000000)) (fieldBase f) 0x60000000
  let s := dropFurrow (dropPasses s (fun _ p => passIn f p)) f
  let s := setField s f { getField s f with lines := [], merges := [], held := [], asked := [], queue := [], outside := [],
                                            filling := none, running := none, port := BankPort.reset }
  let s := (fieldCores f).foldl (fun s c => modCore s c (fun k => { k with port := BankPort.reset, partials := [] })) s
  let s : State := { s with blocks := tfilter (fun b => b / 32 ≠ f) s.blocks }
  checkRegion (setRegion s (60 + f) (regionOff (getRegion s (60 + f)))) (60 + f)

/-- A domain is powered and its generator starts (R382, R406), a cluster only beside its powered field (R29). Under an emergency a region
of 0-71 starts at setting 16 (R417, R469). -/
def domainOn (s : State) (r : Nat) : State :=
  if r < 60 && !(getRegion s (60 + r / 5)).powered then s
  else
    let s := if r < 60 then (clusterCores r).foldl (fun s c => clearRegs s clusterRegs c) s
      else if r < 72 then clearRegs s Blk.field.regs (r - 60) else s
    setRegion s r { getRegion s r with powered := true, running := true, locked := false, out := false, holdover := false, count := 0,
                                       k := if s.pow.emergency && decide (r < 72) then 16 else 0, shed := false, draining := none }

/-! ### Generators (R382-R385) -/

/-- A started generator locks, and 64 cycles later its region leaves reset. -/
def lockOp (s : State) (r : Nat) : State :=
  let g := getRegion s r
  if !g.running || g.locked || g.holdover || !s.clk.refPresent then s
  else checkRegion (setRegion s r { g with locked := true, out := true }) r

/-- A generator loses lock and enters holdover; its region keeps running. -/
def lockLossOp (s : State) (r : Nat) : State :=
  let g := getRegion s r
  if !g.locked then s
  else
    let s := setRegion s r { g with locked := false, holdover := true, holdoverSince := hgNow s, holdReports := 0 }
    let s := modAgent s r (fun a => { a with heldOver := true })
    checkRegion (setEvent s .ckEvent 0 0) r

def execLockLoss (region : RegionId) (s : State) : Host.Outcome State Fault Refusal := .next (lockLossOp s region)

/-- One record for each whole second in holdover. -/
def holdoverOp (s : State) (r : Nat) : State :=
  let g := getRegion s r
  if !g.holdover || hgNow s < g.holdoverSince + secCycles (g.holdReports + 1) then s
  else report (setRegion s r { g with holdReports := g.holdReports + 1 }) 0x0011 0 none r (g.holdReports + 1)

def execHoldoverReport (region : RegionId) (s : State) : Host.Outcome State Fault Refusal := .next (holdoverOp s region)

def relockOp (s : State) (r : Nat) : State :=
  let g := getRegion s r
  if !g.holdover || !s.clk.refPresent then s
  else checkRegion (setRegion s r { g with locked := true, holdover := false, holdReports := 0 }) r

def execGeneratorRelock (region : RegionId) (s : State) : Host.Outcome State Fault Refusal := .next (relockOp s region)

/-- READY and ALERT_N as R469 has them. -/
def companionUp (s : State) : Bool := s.boot.bvState == 5 || s.boot.bvState == 6

/-- The device is ready (R443, Table ORG-6): decided ready, the companion reachable and the four HBM sides up. -/
def deviceReady (s : State) : Bool :=
  s.boot.ready && companionUp s && (List.range 4).all (fun i => (getRegion s (72 + i)).out)

def alertHigh (s : State) : Bool := !s.pow.tripped && !s.pow.emergency && s.pow.presentA && s.pow.presentB

/-- Drive the pins. -/
def setPins (s : State) : State := setBoot s { s.boot with readyPin := deviceReady s, alertN := alertHigh s }

/-- The reference is lost: every running generator enters holdover, and the links go down. -/
def refLossOp (s : State) : State :=
  if !s.clk.refPresent then s
  else
    let hold := fun (g : Region) => if g.running then
        { g with locked := false, holdover := true, holdoverSince := hgNow s, holdReports := 0 } else g
    let regions : Tab Region := s.clk.regions.map (fun e => (e.1, hold e.2))
    let s : State := { s with clk := { s.clk with regions := regions, refPresent := false, allHold := true } }
    let s := s.clk.regions.foldl (fun (s : State) e => if e.2.holdover then modAgent s e.1 (fun a => { a with heldOver := true }) else s) s
    let s := checkCrossings (setEvent s .ckEvent 0 1) (fun _ => true)
    let s := (List.range 16).foldl (fun (s : State) p =>
      if (getPort s p).st = 3 ∨ (getPort s p).st = 1 ∨ (getPort s p).st = 2 then
        report (setEvent (setPort s p { getPort s p with st := 4, width := 0, tries := 0, degraded := false, lanes := 0 }) .lkEthEvent p 0) 0x0019 0 none p 0
      else s) s
    let s := setBoot s { s.boot with bvState := if s.boot.bvState = 0 then 0 else 7, bvWidth := 0, bvTries := 0,
                                     fullPorts := 0 }
    setPins s

def execReferenceLoss (s : State) : Host.Outcome State Fault Refusal := .next (refLossOp s)

/-- The reference has been back for 1 ms: the generators relock, and the links may train again. -/
def refReturnOp (s : State) : State :=
  if s.clk.refPresent then s
  else
    let back := fun (g : Region) => if g.holdover then { g with locked := true, holdover := false, holdReports := 0 } else g
    let regions : Tab Region := s.clk.regions.map (fun e => (e.1, back e.2))
    let s : State := { s with clk := { s.clk with regions := regions, refPresent := true, allHold := false } }
    checkCrossings s (fun _ => true)

def execReferenceReturn (s : State) : Host.Outcome State Fault Refusal := .next (refReturnOp s)

/-! ### Gauges and spills (R390-R394) -/

/-- Record a gauge reading of a region. -/
def readGauge (s : State) (r m : Nat) : State :=
  let g := getRegion s r
  let now := hgNow s
  let s := setRegion s r { g with
    margin := m, least := min g.least m, highSince := if 24 ≤ m ∧ 24 ≤ g.margin then g.highSince else now,
    lowSince := if m < 12 ∧ g.margin < 12 ∧ g.least ≠ 0x7F then g.lowSince else now, below3 := g.below3 && decide (m < 16) }
  modAgent s r (fun a => { a with least := min a.least m })

/-- A reading passes from 3 % or more to below 3 %: one warning (R394). A reading of 3 % or more is recorded only. -/
def gaugeOp (s : State) (r m : Nat) : State :=
  let g := getRegion s r
  if !g.out || 127 < m then s
  else
    let s := readGauge s r m
    if m < 12 ∧ (12 ≤ g.margin ∨ g.least = 0x7F) then
      setEvent (modRegion s r (fun x => { x with warnings := x.warnings + 1, below3 := true })) .ckEvent 0 2
    else s

def execGaugeWarning (region : RegionId) (margin : Nat) (s : State) : Host.Outcome State Fault Refusal := .next (gaugeOp s region margin)

/-- A reading below 1 % requests a spill, which the generator announces to its crossings one period ahead. -/
def spillRequestOp (s : State) (r m : Nat) : State :=
  let g := getRegion s r
  if !g.out || 4 ≤ m then s
  else
    let s := setEvent (gaugeOp s r m) .ckEvent 0 3
    if g.spill = 1 then s else checkRegion (modRegion s r (fun x => { x with spill := 1 })) r

def execSpillRequest (region : RegionId) (margin : Nat) (s : State) : Host.Outcome State Fault Refusal :=
  .next (spillRequestOp s region margin)

/-- The announced spill stretches one period. -/
def spillOp (s : State) (r : Nat) : State :=
  let g := getRegion s r
  if g.spill ≠ 1 then s
  else
    let s := setRegion s r { g with spill := 0, spills := g.spills + 1 }
    checkRegion (modAgent s r (fun a => { a with spills := a.spills + 1 })) r

def execSpill (region : RegionId) (s : State) : Host.Outcome State Fault Refusal := .next (spillOp s region)

/-! ### Correlation (R396, R397) -/

/-- Count of a live agent: a running region, or an Ethernet port's counter after its first bring-up while region 76 runs. -/
def agentCount (s : State) (a : Nat) : Option Nat :=
  if a < 80 then (if (getRegion s a).running then some (getRegion s a).count else none)
  else if a < 96 then (match (getPort s (a - 80)).since with
    | some _ => if (getRegion s 76).running then some (ethCount s (a - 80)) else none
    | none => none)
  else none

/-- One mark: each live agent latches its count and echoes it within 80 headgate cycles. -/
def markOp (s : State) : State :=
  let now := hgNow s
  if s.clk.lastMark ≠ 0 ∧ now < s.clk.lastMark + 14000 then s
  else
    let s : State := { s with clk := { s.clk with lastMark := now } }
    (List.range 96).foldl (fun (s : State) a => match agentCount s a with
      | none => s
      | some c =>
        let d := drawFresh s
        let rtt := (Config.freeWord d.1).toNat % 81
        modAgent d.2 a (fun g => { g with pairs := (g.pairs ++ [(c, now, now + rtt)]).drop (g.pairs.length - 63) })) s

def execCorrelationMark (s : State) : Host.Outcome State Fault Refusal := .next (markOp s)

/-- to_headgate of R396: headgate time of an agent's count between two consecutive pairs, and its error bound, in headgate cycles; `sp` is the
agent's spill time between them. -/
def toHeadgate (a b : Nat × Nat × Nat) (sp c : Nat) : Rat × Rat :=
  let mid := fun (p : Nat × Nat × Nat) => ((p.2.1 + p.2.2 : Nat) : Rat) / 2
  (mid a + ((c - a.1 : Nat) : Rat) * (mid b - mid a) / ((b.1 - a.1 : Nat) : Rat),
    ((max (a.2.2 - a.2.1) (b.2.2 - b.2.1) : Nat) : Rat) / 2 + (sp : Rat))

/-- Body of Table CLK-4. -/
def corrBody (s : State) (a : Nat) (p : Nat × Nat × Nat) : List Byte :=
  let g := getAgent s a
  let r := getRegion s (if a < 80 then a else 76)
  leBytes 2 a ++ leBytes 6 p.1 ++ leBytes 6 ((p.2.1 + p.2.2) / 2) ++ leBytes 2 (p.2.2 - p.2.1) ++ leBytes 4 g.spills ++
    [BitVec.ofNat 8 (if a < 80 then g.least else 0xFF), BitVec.ofNat 8 r.k,
     BitVec.ofNat 8 (b2n r.locked + 2 * b2n (g.heldOver || r.holdover) + 4 * b2n (decide (0 < g.dis))), 0] ++ leBytes 4 g.dis ++ leBytes 4 0

/-- One record of a live agent; its interval figures start again. -/
def corrRecordOp (s : State) (a : Nat) : State :=
  match agentCount s a, (getAgent s a).pairs.getLast? with
  | some _, some p =>
    let s := telemeter s 0x12 78 none (corrBody s a p)
    modAgent s a (fun g => { g with spills := 0, dis := 0, heldOver := false, least := 0x7F })
  | _, _ => s

def execCorrelationRecord (agent : SensorId) (s : State) : Host.Outcome State Fault Refusal := .next (corrRecordOp s agent)

end Sys2Proof.Machine
end

