-- ==== Sys2Proof/Machine/Placement.lean ====
section
/-!
DEFINITION. What the headgate complex does to place work: appends to the fallow ledger (R439), pinning (R171-R175),
loading and unloading of pipelines (R309-R312), relief placements (R300-R302), partial resets (R445-R447) and the
rollback of secured tensors (Table RES-5 step 3).
-/
namespace Sys2Proof.Machine

/-! ### The fallow ledger (R439) -/

/-- Append entries together: programmed in index order, or applied for this boot only where too few remain. -/
def appendEntries (s : State) (es : List W32) : State :=
  if es.isEmpty then s
  else
    let h := s.head
    let full := decide (4096 < h.ledger.length + es.length)
    let s := if full then { s with head := { h with ledgerNow := h.ledgerNow ++ es } }
      else { s with head := { h with ledger := h.ledger ++ es }, boot := { s.boot with appended := s.boot.appended + es.length } }
    let s := if s.boot.decided then
        setBoot s { s.boot with presented := presentedCount s }
      else s
    if full then es.foldl (fun s e => report s 0x0003 0 none 0xFFFF (e.toNat * 2 ^ 32)) (setEvent s .hgBootEvent 0 3)
    else ((es.zip (List.range es.length)).foldl (fun s e =>
      let i := h.ledger.length + e.2
      report s 0x0002 0 none i (i % 4096 + e.1.toNat * 2 ^ 32)) (setEvent s .hgBootEvent 0 0))

/-- A ledger entry of a type, reason and location (Table BOOT-3). -/
def ledgerEntry (ty reason loc : Nat) : W32 := w32 (ty * 2 ^ 28 + reason * 2 ^ 24 + loc % 2 ^ 24)

/-! ### Pinning (R171-R174) -/

/-- Side-table entry of a tile of 128 by 128: base and bytes (R225; log entry 24). -/
def pinEntry (f : Fmt) (side kt i j : Nat) : Nat × Nat :=
  let n := 2048 + (if fmtBlock f = 0 then 0 else 128 / fmtBlock f * 128)
  (side + (i * kt + j) * n, n)

/-- One output of a matrix read from HBM: its rows as Table FLU-2 orders them, and its weights. -/
structure PinOut where
  rows : List (List Byte)
  vals : List FV

/-- A matrix read from HBM: its outputs, and the tiles that fail their checksums twice (R173). -/
structure PinRead where
  outs : List PinOut
  bad : List (Nat × Nat)
  st : State

/-- Rows of an output that hold reduction index k: of weights, and of block fields. -/
def rowsOfK (f : Fmt) (n k : Nat) : List Nat :=
  let w := k * fmtWidth f / 512
  let e := fieldEvery f
  if fmtBlock f = 0 then [w] else [w / e * (e + 1) + w % e, min (w / e * (e + 1) + e) (n - 1)]

/-- Reduction index k of an output lies in a silted row. -/
def PinOut.siltAt (f : Fmt) (o : PinOut) (k : Nat) : Bool := (rowsOfK f o.rows.length k).any (fun i => isSilt (o.rows.getD i []))

/-- One tile agrees with its side-table entry. -/
def tileAgrees (f : Fmt) (outs : List PinOut) (i j : Nat) (side : List Byte) : Bool :=
  let tile := (outs.drop (i * 128)).take 128
  (List.range 128).all (fun r =>
    let row := tile.map (fun o => o.vals.getD (j * 128 + r) (.num false 0 0))
    let want := (chunks 4 ((side.drop (16 * r)).take 16)).map (fun b => w32 (leNat b))
    chkRow (fmtIsInt f) 64 (row ++ List.replicate (128 - row.length) (.num false 0 0)) == want)

/-- Chunks of 64 bytes whose bytes come from given addresses, silt where a source granule is silt (Table HBM-4). -/
def overSource (s : State) (bs : List (Nat × Byte)) : List Byte :=
  (chunks 64 bs).flatMap (fun g => if g.any (fun b => siltIn s b.1 1) then siltBytes else g.map Prod.snd)

/-- Read a matrix with its side table. A tile over silt is not compared; one that mismatches reads the same again. -/
def pinRead (s : State) (p : Pin) (f : Fmt) : PinRead :=
  let ob := elemBytes f p.k
  let kt := p.k / 128
  let per := 128 / fmtBlock f
  let es := (List.range ((p.n + 127) / 128)).flatMap (fun i => (List.range kt).map (fun j => (i, j)))
  let d := fetchBytes s p.matrix (ob * p.n)
  let q := es.foldl (fun (acc : Tab (List Byte) × State) e =>
    let x := fetchBytes acc.2 (pinEntry f p.side kt e.1 e.2).1 (pinEntry f p.side kt e.1 e.2).2
    (tput acc.1 (e.1 * kt + e.2) x.bytes, x.st)) (([] : Tab (List Byte)), d.st)
  let outs := (List.range p.n).map (fun o =>
    let data := (((d.bytes.drop (o * ob)).take ob).zip (List.range ob)).map (fun b => (p.matrix + o * ob + b.2, b.1))
    let fields := if fmtBlock f = 0 then [] else (List.range (p.k / fmtBlock f)).map (fun b =>
      let x := 2048 + b % per * 128 + o % 128
      ((pinEntry f p.side kt (o / 128) (b / per)).1 + x, (tgetD q.1 (o / 128 * kt + b / per) []).getD x 0))
    let rows := outputRows f (overSource q.2 data) (overSource q.2 fields)
    PinOut.mk rows (rowsWeights f p.k rows).1)
  let bad := es.filter (fun e =>
    let silted := siltIn q.2 (pinEntry f p.side kt e.1 e.2).1 2048 ||
      ((outs.drop (e.1 * 128)).take 128).any (fun o => (List.range 128).any (fun r => o.siltAt f (e.2 * 128 + r)))
    !silted && !tileAgrees f outs e.1 e.2 (tgetD q.1 (e.1 * kt + e.2) []))
  ⟨outs, bad, q.2⟩

/-- Rows pinned from given tiles become silt (R447). -/
def siltTiles (f : Fmt) (bad : List (Nat × Nat)) (outs : List PinOut) : List PinOut :=
  (outs.zip (List.range outs.length)).map (fun o =>
    let gone := (bad.filter (fun e => e.1 == o.2 / 128)).flatMap (fun e =>
      (List.range 128).map (fun r => (rowsOfK f o.1.rows.length (e.2 * 128 + r)).headD 0))
    { o.1 with rows := (o.1.rows.zip (List.range o.1.rows.length)).map (fun r => if gone.contains r.2 then siltBytes else r.1) })

/-- The two checksum rows over a block's share of outputs (R173, R226), 16 words a row; a row over silt is silt (Table HBM-4). -/
def checkRows (f : Fmt) (k : Nat) (share : List PinOut) : List (List Byte) × List (List Byte) :=
  let word := fun (vs : List FV) => leBytes 4 (chkWord (fmtIsInt f) vs).toNat
  let col := fun (i : Nat) => share.map (fun o => o.vals.getD i (.num false 0 0))
  let row := fun (w : List FV → List Byte) (j : Nat) =>
    let ks := (List.range 16).map (fun i => 16 * j + i)
    if share.any (fun o => ks.any (o.siltAt f)) then siltBytes else ks.flatMap (fun i => w (col i))
  ((List.range (chkRows k)).map (row word), (List.range (chkRows k)).map (row (fun vs => word (weighted vs))))

/-- Write consecutive rows of an engine's stream. -/
def putRows (s : State) (addr : Nat → Nat) (first : Nat) (rows : List (List Byte)) : State :=
  (rows.zip (List.range rows.length)).foldl (fun s r => putGranule s (addr (first + r.2) / 64) r.1) s

/-- Lay a matrix out in its banks: each block's outputs and its two checksum rows, segment by segment (R172, R173). -/
def pinWrite (s : State) (p : Pin) (f : Fmt) (outs : List PinOut) : State :=
  let nb := p.blocks.length
  (List.range p.segs).foldl (fun s g =>
    let sg := pinSegment p g
    let l := segStream f p.k sg.2 nb
    (p.blocks.zip (List.range nb)).foldl (fun s b =>
      let share := pinShare sg.1 sg.2 nb b.2
      if share.isEmpty then s
      else
        let s := (share.zip (List.range share.length)).foldl (fun s o =>
          let pl := outPlace f p.k l o.2
          putRows s (rowAddr p f g b.1 pl.1) pl.2 ((outs[o.1]?).map (·.rows)).toList.flatten) s
        let c := checkRows f p.k (share.filterMap (fun o => outs[o]?))
        putRows (putRows s (rowAddr p f g b.1 0) (chkPlace f p.k l) c.1) (rowAddr p f g b.1 1) (chkPlace f p.k l) c.2) s) s

/-- Engine blocks that a destination covers and that are neither fallow nor suspect (R172, R241). -/
def pinOver (s : State) (field core : Option Nat) : List Nat :=
  let all := match field, core with
    | some f, _ => (List.range 12).map (fun i => f * 32 + 20 + i)
    | none, some c => [coreField c * 32 + spadIndex c]
    | none, none => []
  all.filter (fun b => !blockFallow s (b / 32) (b % 32) && !(getBlock s b).suspect)

/-- Core of a stage: where its loaded pipeline has it, else the one that it names. -/
def stageAt (s : State) (prog : Nat) (st : StageRec) : Nat :=
  match getPipe s (pipeKey prog st.pipe) with
  | some p => p.cores.getD st.pos st.core
  | none => st.core

/-- 2-D ranges that loaded programs have in a core's scratchpad. -/
def coreTwoD (s : State) (c : Nat) : List Range :=
  s.head.progs.flatMap (fun p => (p.2.img.stages.filter (fun st => stageAt s p.1 st == c)).flatMap (·.twoD))

/-- Where a pinned matrix may lie (R151, R171, R441): the field or core, its first whole stripe or slab, and the bytes of one. -/
def pinPlace (s : State) (part a n : Nat) : Except St (Option Nat × Option Nat × Nat × Nat) :=
  let up := fun (base unit : Nat) => base + (a - base + unit - 1) / unit * unit
  match placeOf a, placeOf (a + (n - 1)) with
  | .pool f o, .pool f' o' =>
    if poolWithheld s f then .error .refusedCapacity
    else if f ≠ f' then .error .badCommand
    else match rangeOf s f o, rangeOf s f o' with
      | some x, some y =>
        if x.part ≠ part ∨ y.part ≠ part then .error .badCommand
        else if x.mode ≠ 1 ∨ y.mode ≠ 1 ∨ x.first ≠ y.first then .error .configConflict
        else .ok (some f, none, up (poolBase f) stripeBytes, stripeBytes)
      | _, _ => .error .badCommand
  | .spad c o, .spad c' _ =>
    if c ≠ c' ∨ corePart s c ≠ some part then .error .badCommand
    else if (coreTwoD s c).any (fun r => decide (o < r.off + r.len) && decide (r.off < o + n)) then .error .configConflict
    else .ok (none, some c, up (spadBase c) 0x4000, 0x4000)
  | _, _ => .error .badCommand

/-- Pin a matrix (PIN_WEIGHTS): its record, and the stripes or slabs that it uses. A K that is no multiple of 128 is refused, since the
source is padded to one (DESIGN CHOICE, log entry 10); a matrix already in the destination is overwritten (log entry 10). -/
def pinMatrix (s : State) (part matrix side n k fmt dest destBytes : Nat) : Except St (Pin × Nat × State) :=
  match pinFmt fmt with
  | none => .error .badCommand
  | some f =>
    if k > 16384 ∨ k = 0 ∨ k % 128 ≠ 0 ∨ n = 0 ∨ side = 0 ∨ destBytes = 0 then .error .badCommand
    else
      let sideBytes := (n + 127) / 128 * (k / 128) * (pinEntry f 0 1 0 0).2
      if !partAllows s part .rd matrix (elemBytes f k * n) || !partAllows s part .rd side sideBytes then .error .windowViolation
      else match pinPlace s part dest destBytes with
        | .error e => .error e
        | .ok (fi, co, base, unit) =>
          let bl := pinOver s fi co
          let sh := if bl.isEmpty then (0, 0) else pinShape f n k bl.length
          if sh.1 = 0 ∨ (dest + destBytes - base) / unit < sh.2 ∨ 1024 ≤ (s.head.pins.filter (·.2.part == part)).length ∨
              256 < (n + sh.1 - 1) / sh.1 then .error .refusedCapacity
          else
            let p : Pin := { part := part, field := fi, core := co, base := base, bytes := sh.2 * unit, n := n, k := k, fmt := fmt,
                             matrix := matrix, side := side, segOut := sh.1, segs := (n + sh.1 - 1) / sh.1, blocks := bl, lost := false,
                             unpin := false }
            let r := pinRead s p f
            if !r.bad.isEmpty then .error .checkPersistent
            else .ok (p, sh.2, pinWrite (undefine r.st base (base + p.bytes)) p f r.outs)

/-- The memory of a matrix is still its partition's, powered, and pinned store if it lies in a pool. -/
def pinStands (s : State) (p : Pin) : Bool :=
  !p.blocks.isEmpty &&
  (match p.field, p.core with
    | some f, _ => (getRegion s (60 + f)).powered &&
      (rangeOf s f (p.base - poolBase f)).any (fun r => r.mode == 1 && r.part == p.part)
    | none, some c => (getRegion s (60 + coreField c)).powered && corePart s c == some p.part
    | none, none => false)

def setPin (s : State) (h : Nat) (p : Pin) : State := { s with head := { s.head with pins := tput s.head.pins h p } }

/-- Pin one matrix again from its HBM source: a tile that mismatches twice is pinned as silt and reported (R447). The
flag says that some tile was. Where its memory is no longer its own the matrix stays lost. -/
def repin (s : State) (h : Nat) : State × Bool :=
  match tget s.head.pins h with
  | none => (s, false)
  | some p =>
    match pinFmt p.fmt with
    | none => (s, false)
    | some f =>
      if !pinStands s p then (setPin s h { p with lost := true }, false)
      else
        let r := pinRead s p f
        let s := pinWrite (setPin (undefine r.st p.base (p.base + p.bytes)) h { p with lost := false }) p f (siltTiles f r.bad r.outs)
        let s := r.bad.foldl (fun (s : State) (e : Nat × Nat) =>
          report s 0x0010 St.checkPersistent.code (some p.part) h ((p.matrix + (e.1 * 128) * elemBytes f p.k + elemBytes f (e.2 * 128)) / 64 % 2 ^ 42)) s
        (s, !r.bad.isEmpty)

/-- Stripes or slabs that a matrix uses with its segments kept, over nb blocks; `none` where a stream would pass 4,096 rows. -/
def pinStripes (p : Pin) (f : Fmt) (nb : Nat) : Option Nat :=
  if nb = 0 ∨ nb * blockHolds (max 1 (pinRows f p.k)) (chkRows p.k) 4096 < p.segOut then none
  else some ((List.range p.segs).map (fun g => segUnits f p.k (pinSegment p g).2 nb)).sum

/-- Move the pool-pinned matrices that a suspect block holds to other blocks, with their segments kept (R241); a matrix
that no longer fits before the next one or the end of its range is lost. -/
def repinOff (s : State) (b : Nat) : State :=
  let hs := (s.head.pins.filter (fun e => e.2.field.isSome && e.2.blocks.contains b)).map Prod.fst
  hs.foldl (fun s h => match tget s.head.pins h with
    | none => s
    | some p =>
      let bl := pinOver s p.field p.core
      let room := match placeOf p.base with
        | .pool f o => match rangeOf s f o with
          | some x => poolBase f + (x.first + x.stripes) * stripeBytes
          | none => p.base
        | _ => p.base
      let fits := ((pinFmt p.fmt).bind (fun f => pinStripes p f bl.length)).filter (fun n => decide (p.base + n * stripeBytes ≤ room) &&
        !s.head.pins.any (fun q => q.1 ≠ h && decide (q.2.base < p.base + n * stripeBytes) && decide (p.base < q.2.base + q.2.bytes)))
      match fits with
      | some n => (repin (setPin s h { p with blocks := bl, bytes := n * stripeBytes }) h).1
      | none => setPin s h { p with lost := true }) s

/-- Pin matrices again, and report the time taken and the matrices with a silted tile (R447, R426). -/
def repinAll (s : State) (part : Option Nat) (since : Nat) (sel : Pin → Bool) : State :=
  let hs := (s.head.pins.filter (fun p => sel p.2)).map Prod.fst
  if hs.isEmpty then s
  else
    let r := hs.foldl (fun (acc : State × Nat) h => let x := repin acc.1 h; (x.1, acc.2 + b2n x.2)) (s, 0)
    report r.1 0x000F 0 part 0 ((hgNow r.1 - since) / 1400 % 2 ^ 32 + r.2 * 2 ^ 32)

/-! ### Pipelines (R303, R309, R311) -/

/-- Stage records of one pipeline of an image, in position order: index and record. -/
def pipeStages (img : Image) (pipe : Nat) : List (Nat × StageRec) :=
  let all := ((List.range img.stages.length).zip img.stages).filter (fun x => x.2.pipe == pipe)
  (List.range all.length).filterMap (fun i => all.find? (fun x => x.2.pos == i))

def progOf (key : Nat) : Nat := key / 64
def pipeOf (key : Nat) : Nat := key % 64

/-- Pipelines of which a core holds a stage. -/
def holders (s : State) (c : Nat) : List (Nat × Pipe) := s.head.pipes.filter (fun p => p.2.live && p.2.cores.contains c)

def coreSuspect (s : State) (c : Nat) : Bool := (getCore s c).suspect

/-- The core can hold a stage of a presented width and half width (R203): presented, powered, neither suspect nor faulted nor in reset. -/
def coreServes (s : State) (c width left : Nat) : Bool :=
  corePresented s c && !coreSuspect s c && (getRegion s (coreRegion c)).powered && !(getCore s c).faulted &&
  !(getCore s c).resetting && (coreWidths s c).1 == width && (coreWidths s c).2.1 == left

/-- Windows and ranges of a stage on a core: the image's, or its relief placement's. -/
def stageWindows (img : Image) (st : StageRec) (c : Nat) : List WindowRec :=
  if st.core = c then img.windows.filter (fun w => w.core == c)
  else ((st.reliefs.find? (fun r => r.core == c)).map (·.windows)).getD []

/-- Put a compiled window or range in force, in place of one at its index. -/
def putCompiled (s : State) (w : WindowRec) : State :=
  modCore s w.core (fun k => openSlot (closeSlot k w.turnout w.index false) w.turnout w.index w.desc (fld w.desc 64 8))

def closeWindows (s : State) (ws : List WindowRec) : State :=
  ws.foldl (fun s w => modCore s w.core (fun k => closeSlot k w.turnout w.index false)) s

/-- Unload a pipeline: its windows and ranges close, its group handles are released (Table PRG-3, step 1). -/
def unloadPipe (s : State) (key : Nat) : State :=
  match getPipe s key, tget s.head.progs (progOf key) with
  | some p, some g =>
    let s := ((pipeStages g.img (pipeOf key)).zip p.cores).foldl (fun s x =>
      closeWindows (modCore s x.2 (fun k => { k with task := none, credit := [] })) (stageWindows g.img x.1.2 x.2)) s
    { s with head := { s.head with pipes := tdel s.head.pipes key,
                                   groups := s.head.groups.filter (fun e => !(e.2.prog == progOf key && p.cores.contains e.2.src)) } }
  | _, _ => s

/-- A relief placement's target is free (R301), once the idle unreserved pipelines on it have been unloaded. -/
def targetFree (s : State) (r : Relief) : Bool :=
  coreServes s r.core r.width r.left &&
  (holders s r.core).all (fun p => p.2.slots.isEmpty && !p.2.reserved) &&
  (let s' := (holders s r.core).foldl (fun s p => unloadPipe s p.1) s
   r.windows.all (fun w => w.core ≠ r.core || !(openSpans (getCore s' r.core)).any (spansMeet (descSpan w.turnout w.desc))))

/-- Core for a stage at load: the named one, else its first fitting relief placement (R299). -/
def stageCore (s : State) (st : StageRec) : Option Nat :=
  if coreServes s st.core st.width st.left then some st.core else (st.reliefs.find? (targetFree s)).map (·.core)

/-- Free group handles. -/
def freeHandles (s : State) (n : Nat) : Option (List Nat) :=
  let fs := (List.range 256).filter (fun h => (tget s.head.groups h).isNone)
  if fs.length < n then none else some (fs.take n)

/-- Groups of a program whose source is one of some cores. -/
def groupsOf (img : Image) (cs : List Nat) : List (Nat × List Nat) := img.groups.filter (fun g => cs.contains g.1)

/-- Load a pipeline on chosen cores: idle pipelines there are unloaded, its windows and groups put in force (Table PRG-3). -/
def loadPipe (s : State) (key part : Nat) (img : Image) (cores : List Nat) (reserved : Bool) : State :=
  let s := cores.foldl (fun s c => (holders s c).foldl (fun s p => if p.1 = key then s else unloadPipe s p.1) s) s
  let sts := pipeStages img (pipeOf key)
  let s := (sts.zip cores).foldl (fun s x => (stageWindows img x.1.2 x.2).foldl putCompiled s) s
  let gs := groupsOf img cores
  let s := match freeHandles s gs.length with
    | none => s
    | some hs => { s with head := { s.head with groups := (hs.zip gs).foldl (fun t x => tput t x.1 ⟨x.2.1, x.2.2, part, progOf key⟩) s.head.groups } }
  setPipe (freshBoundaries s cores) key
    { cores := cores, slots := [], live := true, halted := false, held := false, reserved := reserved, lastUsed := hgNow s, queues := sts.map (fun _ => []), stopAdmit := false }

/-- Cores for every stage of a pipeline. -/
def pipeCores (s : State) (img : Image) (pipe : Nat) : Option (List Nat) :=
  (pipeStages img pipe).foldl (fun acc st => match acc, stageCore s st.2 with
    | some l, some c => some (l ++ [c])
    | _, _ => none) (some [])

/-- The pipeline can be loaded now by displacing idle, unreserved pipelines (R311). -/
def canLoad (s : State) (img : Image) (pipe : Nat) : Option (List Nat) :=
  match pipeCores s img pipe with
  | none => none
  | some cs =>
    if cs.all (fun c => (holders s c).all (fun p => p.2.slots.isEmpty && !p.2.reserved)) &&
       (freeHandles s (groupsOf img cs).length).isSome then some cs else none

/-- A program has a pipeline that is live, or parked and not known to be down. -/
def hasLivePipe (s : State) (prog : Nat) : Bool :=
  match tget s.head.progs prog with
  | none => false
  | some g => (List.range g.img.depths.length).any (fun i => match getPipe s (pipeKey prog i) with
    | some p => p.live
    | none => (pipeStages g.img i).all (fun st => corePresented s st.2.core || st.2.reliefs.any (fun r => corePresented s r.core)))

/-- A pipeline is down: its waiting sequences go back to the head of their class, and a program left without a live
pipeline ends its queued sequences with DEGRADED (R301). -/
def pipeDown (s : State) (key : Nat) : State :=
  match getPipe s key with
  | none => s
  | some p =>
    let back := p.slots
    let s := setPipe s key { p with live := false, slots := [], queues := p.queues.map (fun _ => []) }
    let s := back.foldl (fun s q => match getSeq s q with
      | none => s
      | some r => setSeq s q { r with st := .queued, front := true }) s
    let part := (tget s.head.progs (progOf key)).map (·.part)
    let alive := hasLivePipe s (progOf key)
    let s := report s 0x0007 St.degraded.code part (progOf key) (pipeOf key + 256 * b2n (!alive))
    if alive then s
    else endAll s .degraded ((s.head.seqs.filter (fun e => e.2.st == .queued &&
      (tget s.head.models e.2.model).map (·.prog) == some (progOf key))).map Prod.fst)

/-- Move a stage to the first free relief placement (R301, R302): windows and groups follow, persistent ranges start
undefined, scratchpad-pinned matrices are pinned again (R175). `none` when none fits. -/
def moveStage (s : State) (key pos cause : Nat) : Option State :=
  match getPipe s key, tget s.head.progs (progOf key) with
  | some p, some g =>
    match (pipeStages g.img (pipeOf key))[pos]? with
    | none => none
    | some (_, st) =>
      let old := p.cores.getD pos st.core
      let cands := st.reliefs.filter (fun r => r.core ≠ old)
      let back := if st.core ≠ old && coreServes s st.core st.width st.left && (holders s st.core).isEmpty then
          [(⟨st.core, st.width, st.left, st.sched, stageWindows g.img st st.core⟩ : Relief)] else []
      match ((if cause = 5 then back else []) ++ cands).find? (targetFree s) with
      | none => none
      | some r =>
        let s := closeWindows s ((stageWindows g.img st old).filter (fun w => w.core == old))
        let s := (holders s r.core).foldl (fun s p => unloadPipe s p.1) s
        let s := r.windows.foldl putCompiled s
        let s := setPipe s key { p with cores := p.cores.set pos r.core }
        let s := { s with head := { s.head with groups := s.head.groups.map (fun e =>
          if e.2.prog = progOf key then
            (e.1, { e.2 with src := if e.2.src = old then r.core else e.2.src, targets := e.2.targets.map (fun t => if t = old then r.core else t) })
          else e) } }
        let o := getCore s old
        let s := modCore s r.core (fun k => { k with boundary := o.boundary, gate := o.gate, checks := o.checks, task := none, credit := [] })
        let s := modCore s old (fun k => { k with task := none, credit := [] })
        let s := st.persistent.foldl (fun s x => undefine s (spadBase r.core + x.off) (spadBase r.core + x.off + x.len)) s
        let hs := (s.head.pins.filter (fun e => e.2.core == some old && e.2.part == g.part)).map Prod.fst
        let s := hs.foldl (fun s h => match tget s.head.pins h with
          | none => s
          | some m =>
            let bl := pinOver s none (some r.core)
            let m' := { m with core := some r.core, base := m.base - spadBase old + spadBase r.core, blocks := bl, lost := bl.isEmpty }
            (repin (setPin s h m') h).1) s
        some (report s 0x0004 0 (some g.part) old (r.core + 256 * cause + 65536 * progOf key))
  | _, _ => none

/-- Move a stage, or take its pipeline down. -/
def moveOrDown (s : State) (key pos cause : Nat) : State := (moveStage s key pos cause).getD (pipeDown s key)

/-! ### Messages to the ring (R359) -/

def setRing (s : State) (r : Ring) : State := { s with head := { s.head with ring := some r } }

/-- Members of the ring, without the relief device. -/
def ringSize (r : Ring) : Nat := r.members.length - 1

/-- Ring neighbours of a member: before and after it in member order. -/
def ringNeighbours (r : Ring) (i : Nat) : List Nat :=
  let g := ringSize r
  if g ≤ 1 then [] else [(i + g - 1) % g, (i + 1) % g].eraseDups

/-- Position ID of this device in its ring (Table RES-4). -/
def ringPos (s : State) : W32 := ((s.head.ring.bind (fun r => r.members[r.index]?)).map (·.pos)).getD 0

/-- Send a ring message; a device that has fenced itself sends none (R371). -/
def ringSend (s : State) (dst : Nat) (m : RingMsg) : State :=
  match s.head.ring with
  | none => s
  | some r => if r.fenced then s else setRing s { r with sent := r.sent ++ [(dst, m)] }

/-! ### Rollback of secured tensors (Table RES-5, step 3) -/

/-- Every granule that is dirty or in an uncommitted delta takes back its local copy, and the epoch is aborted. -/
def rollback (s : State) (part : Nat) : State :=
  match tget s.head.secure part with
  | none => s
  | some c =>
    let gs := c.tensors.flatMap (fun t => (t.dirty ++ t.delta.map Prod.fst).eraseDups.filterMap (fun g => (tget t.copy g).map (fun b => (g, b))))
    let s := gs.foldl (fun s x => { s with mem := mwrites s.mem (x.1 * 64) x.2, upset := tdel s.upset x.1 }) s
    let c' := { c with tensors := c.tensors.map (fun t => { t with dirty := [], delta := [], copy := [] }), phase := 0, holdFrom := none,
                       epoch := c.committed, cur := c.cstep, step := c.cstep }
    let s := { s with head := { s.head with secure := tput s.head.secure part c' } }
    if c.phase = 0 then s
    else telemeter s 0x10 78 (some part) (leBytes 4 c.epoch ++ leBytes 4 c.step ++ leBytes 4 c.hold ++
      [1, BitVec.ofNat 8 (c.tensors.filter (·.now == 1)).length, BitVec.ofNat 8 (c.tensors.filter (·.now == 2)).length, 0] ++
      leBytes 8 c.dirtyBytes ++ leBytes 8 ((hgNow s - c.sentAt) / 1400))

/-- Rollback at this device: the notice goes to every other device of the ring (Table RES-5). -/
def rollbackRing (s : State) (part : Nat) : State :=
  let e := ((tget s.head.secure part).map (·.committed)).getD 0
  let n := (s.head.ring.map (fun r => r.members.length)).getD 0
  let me := (s.head.ring.map (·.index)).getD 0
  ((List.range n).filter (· ≠ me)).foldl (fun s i => ringSend s i (.rollback e)) (rollback s part)

/-! ### Partial resets (R445-R447, Tables BOOT-7 and BOOT-9) -/

/-- Row writes that empty a block: its pending rows, and every row that its waiting parts can make. -/
def blockWork (s : State) (b : Nat) : Nat := (getBlock s b).rows.length + 16 * (getBlock s b).ops.length

/-- The scratchpad block of a core completes every furrow request that it has accepted. -/
def drainBlock : Nat → State → Nat → State
  | 0, s, _ => s
  | n + 1, s, b =>
    if (getBlock s b).rows.isEmpty && (getBlock s b).ops.isEmpty then s else drainBlock n (furrowLand s b 0 0) b

/-- Core-level reset of one core (Table BOOT-7). -/
def resetCore (s : State) (c : Nat) : State :=
  let b := coreField c * 32 + spadIndex c
  let s := dropPasses s (fun _ p => p.core == c && p.field.isNone)
  let s := releaseRings s c
  let s := drainBlock (blockWork s b) s b
  let s := closeAll s c false
  let s := undefine s (spadBase c) (spadBase c + spadBytes)
  modCore s c (fun k => { k with
    task := none, faulted := false, ecc := 0, credit := [], port := BankPort.reset, loads := [], unswapped := [], dma := [], dmaWait := [],
    partials := [], wtok := [], ftok := [], owned := [], checks := [], gate := none, repeating := false, logDue := none,
    vec := { k.vec with due := [] }, vectors := [], streams := [], resetting := true })

/-- Pipelines with a sequence in flight of which a core of the list holds a stage. -/
def flyingOn (s : State) (cs : List Nat) : List Nat :=
  (s.head.pipes.filter (fun p => p.2.cores.any cs.contains && !(inFlight s p.1).isEmpty)).map Prod.fst

def resetBound (level : Nat) : Nat := if level = 0 then msCycles 2 else if level = 1 then usCycles 50 else usCycles 20

/-- What a partition reset does beyond its cores. -/
def resetPartition (s : State) (p : Nat) : State :=
  let s := dropPasses s (fun _ e => e.field.isSome && e.st == .queued && corePart s e.core == some p)
  let drop := fun (f : Field) =>
    let mine := (f.ranges.filter (fun r => r.2.part == p)).map Prod.fst
    { f with lines := f.lines.filter (fun l => !mine.contains l.range) }
  let fields : Tab Field := s.fields.map (fun e => (e.1, drop e.2))
  let conns : Tab Conn := s.conns.map (fun e => if e.2.part = p then (e.1, { e.2 with isOpen := false, held := [] }) else e)
  let s : State := { s with fields := fields, conns := conns }
  s.fields.foldl (fun s e => e.2.ranges.foldl (fun s r =>
    if r.2.part = p ∧ r.2.mode = 1 then
      undefine s (poolBase e.1 + r.2.first * stripeBytes) (poolBase e.1 + (r.2.first + r.2.stripes) * stripeBytes)
    else s) s) s

/-- Start a partial reset: pipelines in flight halt and their other stage cores reset at core level (R446); an overlapping
reset in progress is merged into the wider (Table BOOT-9); at levels 0 and 1 the injection buffers are emptied (Table BOOT-7); the epoch of a secure point in progress is aborted. -/
def startReset (s : State) (level : Nat) (part : Option Nat) (cores : List Nat) (cpl : Option Cpl) : State :=
  match s.head.resets.find? (fun r => decide (r.level ≤ level) && r.cores.any cores.contains) with
  | some r =>
    { s with head := { s.head with resets := s.head.resets.map (fun x => if x = r then { x with cpls := x.cpls ++ cpl.toList } else x) } }
  | none =>
    let narrower := s.head.resets.filter (fun r => r.cores.any cores.contains)
    let s := { s with head := { s.head with resets := s.head.resets.filter (fun r => !r.cores.any cores.contains) } }
    let fly := flyingOn s cores
    let all := (cores ++ fly.flatMap (fun k => ((getPipe s k).map (·.cores)).getD [])).eraseDups
    let s := fly.foldl (fun s k => haltPipe s k .stageLost) s
    let s := all.foldl resetCore s
    let s := if level ≤ 1 then all.foldl (fun s c => setCrossing s (2 * c) { getCrossing s (2 * c) with fill := 0 }) s else s
    let s := fly.foldl (fun s k => match getPipe s k with
      | none => s
      | some p => setPipe s k { p with halted := false }) s
    let s : State := if level = 0 then (part.map (resetPartition s)).getD s else s
    let s : State := match part with
      | some p => if ((tget s.head.secure p).map (fun (c : Secure) => decide (c.phase ≠ 0))).getD false then rollbackRing s p else s
      | none => s
    let sv : Tab Survey := s.head.surveys.map (fun e => if all.contains e.1 then (e.1, { e.2 with movedFrom := none }) else e)
    let s := { s with head := { s.head with surveys := sv } }
    let s := setBoot s { s.boot with partialResets := s.boot.partialResets + 1 }
    { s with head := { s.head with resets := s.head.resets ++
      [⟨level, part, all, hgNow s + resetBound level, (narrower.map (·.cpls)).flatten ++ cpl.toList⟩] } }

/-- A reset whose bound has passed ends: its cores leave reset, a partition's matrices are pinned again, its commands complete. -/
def endReset (s : State) (r : PReset) : State :=
  let s := { s with head := { s.head with resets := s.head.resets.filter (· ≠ r) } }
  let s := r.cores.foldl (fun s c => modCore s c (fun k => { k with resetting := false })) s
  let s := if r.level = 0 then
      match r.part with
      | some p => repinAll s (some p) r.until_ (fun m => m.part == p)
      | none => s
    else s
  r.cpls.foldl postCpl s

def endResets (s : State) : State :=
  (s.head.resets.filter (fun r => decide (r.until_ ≤ hgNow s))).foldl endReset s

end Sys2Proof.Machine
end

