-- ==== Sys2Proof/Machine/Securing.lean ====
section
/-!
DEFINITION. Securing and relief (14_resilience, R359-R374, R380).  What other devices hold and send over the Aeldal
transport is outside the device; a message that this device sends to its ring is listed in `Ring.sent`.
-/
namespace Sys2Proof.Machine

def getSecure (s : State) (p : Nat) : Option Secure := tget s.head.secure p

def setSecure (s : State) (p : Nat) (c : Secure) : State := { s with head := { s.head with secure := tput s.head.secure p c } }

/-- This device is a protected member whose relief device is heard. -/
def ringProtects (s : State) : Bool :=
  match s.head.ring with
  | none => false
  | some r => r.role == 1 && !r.reliefLost && !r.fenced

/-- Bytes that the secure area has for deltas, after copies and bitmaps (R361). -/
def deltaRoom (areaBytes : Nat) (ts : List STensor) : Nat :=
  areaBytes - (ts.map (fun t => t.bytes + (t.bytes / 64 + 7) / 8)).sum

/-- Hold of a capture in µs, rounded up (R365). -/
def captureHold (dirtyBytes : Nat) : Nat := 50 + (dirtyBytes + 11469999) / 11470000

/-- Method of a tensor at a secure point: 1 mirror, 2 parity (R363), with its record brought up to date. -/
def chooseMethod (members rMax mirrorMax : Nat) (room : Bool) (t : STensor) : STensor :=
  let gran := t.bytes / 64
  let high := decide (rMax * gran < t.dirty.length * 256)
  let low := decide (t.dirty.length * 512 ≤ rMax * gran)
  let run := if low then t.lowRun + 1 else 0
  let m :=
    if t.method ≠ 0 then t.method
    else if members < 4 then 1
    else if t.bytes ≤ mirrorMax * 2 ^ 20 then 1
    else if t.now = 2 && high && t.highLast && room then 1
    else if t.now = 1 && decide (4 ≤ run) then 2
    else if t.now = 0 then 2 else t.now
  { t with now := m, highLast := high, lowRun := run }

/-- The point ships the whole tensor (R364). -/
def STensor.whole (t : STensor) : Bool := t.now ≠ t.was

def xorBytes (a b : List Byte) : List Byte := (a.zip b).map (fun p => p.1 ^^^ p.2)

/-- Delta of every dirty granule into the delta area, its dirty bit cleared (R365). -/
def captureTensor (m : Memory) (t : STensor) : STensor :=
  { t with delta := t.dirty.foldl (fun d g =>
             let live := mreads m (g * 64) 64
             tput d g (xorBytes live (tgetD t.copy g live))) [],
           dirty := [] }

/-- Secure-point record of Table RES-3. -/
def securePoint (s : State) (p : Nat) (c : Secure) (outcome send : Nat) : State :=
  telemeter s 0x10 78 (some p) (leBytes 4 c.epoch ++ leBytes 4 c.step ++ leBytes 4 c.hold ++
    [BitVec.ofNat 8 outcome, BitVec.ofNat 8 (c.tensors.filter (·.now == 1)).length,
     BitVec.ofNat 8 (c.tensors.filter (·.now == 2)).length, 0] ++ leBytes 8 c.dirtyBytes ++ leBytes 8 send)

/-- A secure point has fallen at the step that the job has reached and has not been taken (R363). -/
def secureDue (c : Secure) : Bool := c.n ≠ 0 && (c.cur - c.step0) % c.n == 0 && (c.epoch == 0 || c.step ≠ c.cur)

/-- Capture, steps 1-3 of R365, with the secure area's layout left open, or the skip of R367. A point whose predecessor is not committed holds the unreserved
pipelines until the commit (R368). -/
def captureOp (s : State) (p : Nat) : State :=
  match getSecure s p with
  | none => s
  | some c =>
    if !secureDue c || !ringProtects s then s
    else if c.phase ≠ 0 then setSecure s p { c with holdFrom := some (c.holdFrom.getD (hgNow s)) }
    else
      let d := drawFresh s
      let s := d.2
      let g := (s.head.ring.map ringSize).getD 0
      let wait := (c.holdFrom.map (fun t => (hgNow s - t) / 1400)).getD 0
      let bytes := (c.tensors.map (fun t => 64 * t.dirty.length)).sum
      let ts := c.tensors.map (chooseMethod g c.rMax c.mirrorMax (Config.reliefRoom d.1))
      let c := { c with epoch := c.epoch + 1, step := c.cur, dirtyBytes := bytes, hold := captureHold bytes + wait, holdFrom := none }
      if deltaRoom c.areaBytes ts < bytes then
        let c := { c with tensors := ts, hold := wait }
        securePoint (setSecure s p c) p c 2 0
      else
        let s := ts.foldl (fun s t => t.dirty.foldl (fun s g => (fetchGranule s g).st) s) s
        undefine (setSecure s p { c with tensors := ts.map (captureTensor s.mem), phase := 1, capturedAt := hgNow s }) c.areaBase (c.areaBase + c.areaBytes)

def execSecurePointCapture (part : Nat) (s : State) : Host.Outcome State Fault Refusal := .next (captureOp s part)

/-- Send phase (R368): mirrors to the relief device, parity shares to the next device of the ring. -/
def secureSendOp (s : State) (p : Nat) : State :=
  match getSecure s p, s.head.ring with
  | some c, some r =>
    if c.phase ≠ 1 || !ringProtects s then s
    else
      let g := ringSize r
      let mirrored := c.tensors.filter (·.now == 1)
      let slots := ((c.tensors.filter (fun t => (t.now == 2 && (t.whole || !t.delta.isEmpty)) || (t.now == 1 && t.was == 2))).map (·.slot)).eraseDups
      let next := if r.index + 1 < g then r.index + 1 else g
      let s := setSecure s p { c with phase := 2, sentAt := hgNow s }
      let s := if mirrored.isEmpty then s else ringSend s g (.mirror c.epoch
        (mirrored.map (fun t => if t.whole then t.bytes else 64 * t.delta.length)).sum)
      slots.foldl (fun s x => ringSend s next (.parity c.epoch x)) s
  | _, _ => s

def execSecureSend (part : Nat) (s : State) : Host.Outcome State Fault Refusal := .next (secureSendOp s part)

/-- The relief device holds every delta of the open epoch: it applies them to its slots, whose contents the
other devices' streams make, and sends commit notices (R369). -/
def epochCommitOp (s : State) (ring : Nat) : State :=
  match s.head.ring with
  | none => s
  | some r =>
    if r.id ≠ ring ∨ r.role ≠ 2 then s
    else
      let s := if r.reliefBytes = 0 then s else undefine s r.reliefBase (r.reliefBase + r.reliefBytes)
      let s := setRing s { r with restored := r.restored + 1 }
      (List.range (ringSize r)).foldl (fun s i => ringSend s i (.commit (r.restored + 1))) s

def execEpochCommit (ring : Nat) (s : State) : Host.Outcome State Fault Refusal := .next (epochCommitOp s ring)

/-- Local copy ← local copy XOR delta, and the deltas freed (R369). -/
def commitTensor (t : STensor) : STensor :=
  let put := fun (k : Tab (List Byte)) (e : Nat × List Byte) =>
    if t.dirty.contains e.1 then tput k e.1 (xorBytes (tgetD t.copy e.1 []) e.2) else tdel k e.1
  { t with copy := t.delta.foldl put t.copy, delta := [], was := t.now }

/-- A member applies the notice of its open epoch. A capture that has waited for it follows. -/
def noticeOp (s : State) (p epoch : Nat) : State :=
  match getSecure s p with
  | none => s
  | some c =>
    if c.phase ≠ 2 ∨ c.epoch ≠ epoch then s
    else
      let held := c.holdFrom.isSome
      let c := { c with tensors := c.tensors.map commitTensor, committed := epoch, cstep := c.step, phase := 0 }
      let s := undefine s c.areaBase (c.areaBase + c.areaBytes)
      let s := securePoint (setSecure s p c) p c 0 ((hgNow s - c.sentAt) / 1400)
      if held then captureOp s p else s

def execCommitNotice (part epoch : Nat) (s : State) : Host.Outcome State Fault Refusal := .next (noticeOp s part epoch)

/-! ### Heartbeats and fencing (R371-R373) -/

/-- Headgate cycles of one heartbeat period. -/
def beatCycles (r : Ring) : Nat := usCycles (if r.beat = 0 then 100 else r.beat)

/-- Neighbours that this member has heard within a period. -/
def heardNow (s : State) (r : Ring) : List Nat :=
  (ringNeighbours r r.index).filter (fun i => match r.members[i]? with
    | some m => decide (hgNow s ≤ m.heard + beatCycles r) && m.heard ≠ 0
    | none => false)

def heartbeatOp (s : State) : State :=
  match s.head.ring with
  | none => s
  | some r =>
    if r.role ≠ 1 ∨ r.fenced then s
    else
      let s := setRing s { r with beats := r.beats + 1 }
      (ringSize r :: ringNeighbours r r.index).foldl (fun s i => ringSend s i (.beat (heardNow s r))) s

def execHeartbeat (s : State) : Host.Outcome State Fault Refusal := .next (heartbeatOp s)

def markHeard (now : Nat) (ms : List Member) (i : Nat) : List Member :=
  match ms[i]? with
  | none => ms
  | some m => ms.set i { m with heard := now }

/-- A heartbeat is acknowledged, but not one of a member that a forced takeover fences; the relief device also notes the
neighbours that it reports. -/
def heartbeatReceiveOp (s : State) (member : Nat) (heard : List Nat) : State :=
  match s.head.ring with
  | none => s
  | some r =>
    match r.members[member]? with
    | none => s
    | some m =>
      let names := if r.role = 2 then heard.filter (fun i => (ringNeighbours r member).contains i) else []
      let s := setRing s { r with members := (member :: names).foldl (markHeard (hgNow s)) r.members }
      if m.fenceOrdered then s else ringSend s member .beatAck

def execHeartbeatReceive (member : Nat) (heard : List Nat) (s : State) : Host.Outcome State Fault Refusal :=
  .next (heartbeatReceiveOp s member heard)

/-- The relief device declares a member lost that nobody has heard for 20 periods. -/
def memberLostOp (s : State) (member : Nat) : State :=
  match s.head.ring with
  | none => s
  | some r =>
    match r.members[member]? with
    | none => s
    | some m =>
      if r.role ≠ 2 ∨ m.lost ∨ ringSize r ≤ member ∨ hgNow s < m.heard + 20 * beatCycles r then s
      else setRing s { r with members := r.members.set member { m with lost := true } }

def execMemberLost (member : Nat) (s : State) : Host.Outcome State Fault Refusal := .next (memberLostOp s member)

/-- Partitions that are secured: the job's. -/
def securedParts (s : State) : List Nat := (s.head.secure.filter (fun e => e.2.n ≠ 0)).map Prod.fst

/-- A member stops transmitting on the ring and its job's sequences complete with STAGE_LOST; a fence order is acknowledged first. -/
def selfFenceOp (s : State) (order : Bool) : State :=
  match s.head.ring with
  | none => s
  | some r =>
    if r.role ≠ 1 ∨ r.fenced then s
    else
      let s := if order then (ringSize r :: ringNeighbours r r.index).foldl (fun s i => ringSend s i .fenceAck) s else s
      let s := match s.head.ring with
        | some r => setRing s { r with fenced := true }
        | none => s
      let ps := securedParts s
      endAll s .stageLost ((s.head.seqs.filter (fun e => ps.contains e.2.part)).map Prod.fst)

def execSelfFence (order : Bool) (s : State) : Host.Outcome State Fault Refusal := .next (selfFenceOp s order)

/-- Members stop securing and report the loss of the relief device (R372). -/
def reliefSilentOp (s : State) : State :=
  match s.head.ring with
  | none => s
  | some r =>
    if r.role ≠ 1 ∨ r.reliefLost ∨ r.fenced then s
    else
      let s := setRing s { r with reliefLost := true }
      let sec : Tab Secure := s.head.secure.map (fun e => (e.1, { e.2 with holdFrom := none }))
      let s := { s with head := { s.head with secure := sec } }
      report s 0x0015 St.degraded.code none r.id 0

def execReliefDeviceSilent (s : State) : Host.Outcome State Fault Refusal := .next (reliefSilentOp s)

/-! ### Takeover and rollback (Table RES-5) -/

/-- The steps of Table RES-5 on the relief device: the restored point is the last committed epoch, survivors are told,
the lost member's addresses and position are taken on, its tensors are rebuilt from slots and survivors, and the takeover is recorded.
Nothing of it happens during a reload proper (R373). -/
def takeoverOp (s : State) (member : Nat) (tensors : List Range) (ports : List Nat) (stepsLost ms : Nat) : State :=
  match s.head.ring with
  | none => s
  | some r =>
    match r.members[member]? with
    | none => s
    | some m =>
      if s.head.reload = 2 ∨ r.role ≠ 2 ∨ ringSize r ≤ member ∨ !(m.lost || m.fenceOrdered) then s
      else
        let others := (List.range (ringSize r)).filter (· ≠ member)
        let s := others.foldl (fun s i => ringSend s i (.rollback r.restored)) s
        let s := (ports.zip (List.range ports.length)).foldl (fun s x =>
          if x.2 < 16 ∧ (getPort s x.2).addr ≠ x.1 then setEvent (setPort s x.2 { getPort s x.2 with addr := x.1 }) .lkEthEvent x.2 3 else s) s
        let s := others.foldl (fun s i => ringSend s i (.announce m.pos)) s
        let s := tensors.foldl (fun s t => undefine s t.off (t.off + t.len)) s
        let s := match s.head.ring with
          | some q => setRing s { q with role := 1, index := member, reliefLost := true, takenOver := some member }
          | none => s
        telemeter s 0x11 78 none (leBytes 2 r.id ++ [BitVec.ofNat 8 member, 0] ++ leBytes 4 r.restored ++ leBytes 4 stepsLost ++ leBytes 4 ms)

def execTakeover (member : Nat) (tensors : List Range) (ports : List Nat) (stepsLost ms : Nat) (s : State) :
    Host.Outcome State Fault Refusal :=
  .next (takeoverOp s member tensors ports stepsLost ms)

/-- Unreserved pipelines of a partition. -/
def jobPipes (s : State) (p : Nat) : List Nat :=
  (s.head.pipes.filter (fun e => e.2.live && !e.2.reserved && ((tget s.head.progs (progOf e.1)).map (·.part)) == some p)).map Prod.fst

/-- A survivor commits the named epoch where its notice has not come, halts the job and restores (step 3). -/
def rollbackOp (s : State) (p epoch : Nat) : State :=
  let s := match getSecure s p with
    | some c => setSecure s p { c with holdFrom := none }
    | none => s
  let s := noticeOp s p epoch
  let ks := jobPipes s p
  let s := ks.foldl (fun s k => haltPipe s k .stageLost) s
  let s := rollback s p
  ks.foldl restartPipe s

def execRollbackNotice (epoch : Nat) (s : State) : Host.Outcome State Fault Refusal :=
  .next (match s.head.ring with
    | none => s
    | some r => if s.head.reload = 2 ∨ r.role ≠ 1 then s else (securedParts s).foldl (fun s p => rollbackOp s p epoch) s)

end Sys2Proof.Machine
end

