-- ==== Sys2Proof/Machine/Sched.lean ====
section
/-!
DEFINITION. The headgate complex's scheduling (12_programs_partitions, R303, R304, R311-R324; R375-R378; R219-R222; R240-R243):
task starts, admission, switches, step boundaries, suspect units, lost stages and surveys.
-/
namespace Sys2Proof.Machine

/-! ### Task starts (R106, R114, R223, R304) -/

/-- E_ref and s of a governed layer as co_fst_ref shows them. -/
def fstRef (g : Gov) : W32 := w32 ((g.eref % 256).toNat + 256 * (g.scale % 256).toNat)

/-- Governor of a stage's layer under a sequence's model. -/
def seqGov (s : State) (q : Sequ) (st : StageRec) : Option Gov :=
  match st.layer, tget s.head.models q.model with
  | some l, some m => tget m.govs l
  | _, _ => none

/-- The registers that a task's start clears or sets (R114, R131, R212, R217, R223, R244). -/
def taskRegs (s : State) (c : Nat) (q : Sequ) (st : StageRec) : State :=
  let s := [Reg.coSchCountLo, .coSchCountHi, .coSchHoldEcc, .coSchHoldCredit, .coVecIssued, .coRedIssued, .coChkRepeat, .coMskSpill,
    .coFstAmax, .coFstNonzero, .coFstUnder, .coFstOver].foldl (fun s r => setReg s r c 0) s
  let s := (List.range 64).foldl (fun s j => setReg s .coFstHist c 0 j) s
  let s := setReg s .coSchWaitLimit c (w32 st.waitLimit)
  let s := setReg s .bsSpTables c (putBits (rawReg s .bsSpTables c) 23 4 (min 15 st.twoD.length))
  match seqGov s q st with
  | some g => setReg s .coFstRef c (fstRef g)
  | none => s

/-- Scale s of a governed layer under a sequence's model. -/
def seqScale (s : State) (q : Sequ) (layer : Option Nat) : Int :=
  match layer, tget s.head.models q.model with
  | some l, some m => ((tget m.govs l).map (·.scale)).getD 0
  | _, _ => 0

/-- 2^k in FP32. -/
def pow2W (k : Int) : W32 := fp32Of ((FV.num false 1 0).scale k).toF32

/-- Before a governed stage's task its scale vector holds 2^(s_out - s_in) in every column, and the optimiser request of its layer finds
2^-s (R218). The headgate complex writes both with the task's registers (DEDUCED, log entry 76). -/
def govVectors (s : State) (c : Nat) (q : Sequ) (st : StageRec) : State :=
  let put := fun (s : State) (off : Option Nat) (ws : List W32) => match off with
    | none => s
    | some o => putBytes s (spadBase c + o) (wordsBytes ws)
  put (put s st.scaleOff (List.replicate 128 (pow2W (seqScale s q st.layer - seqScale s q st.layerIn)))) st.gscaleOff
    [pow2W (-(seqScale s q st.layer))]

/-- Ring credits that a producer holds at the start of its task: one for each buffer of the windows of other cores that admit it (R109). -/
def startCredits (s : State) (c : Nat) : Tab Nat :=
  s.cores.foldl (fun t e => e.2.wins.foldl (fun t w =>
    if e.1 ≠ c && w.2.isOpen && w.2.kind == 0 && w.2.srcId == c then
      (List.range w.2.ring).foldl (fun t b => tput t ((e.1 * 256 + w.1) * 8 + b) 1) t
    else t) t) (getCore s c).ftok

/-- Results of vector instructions that are still in flight have landed when the next task begins. -/
def landAll (s : State) (c : Nat) : State :=
  (getCore s c).vec.due.foldl (fun s e => landVec s c e.2) (modCore s c (fun k => { k with vec := { k.vec with due := [] } }))

/-- Start the next step of a sequence on a stage's core. -/
def startOn (s : State) (key idx : Nat) (st : StageRec) (c q : Nat) : State :=
  match getSeq s q with
  | none => s
  | some r =>
    let s := govVectors (taskRegs (landAll s c) c r st) c r st
    let cr := startCredits s c
    let t : Task := { prog := progOf key, pipe := pipeOf key, stage := idx, seq := q, seed := r.seed, step := r.done,
                      budget := stageBudget r.shape st, spills := (getRegion s (coreRegion c)).spills,
                      cls := r.cls, input := r.input, output := r.output, shape := r.shape, ctx := r.ctx, tag := r.tag }
    modCore s c (fun k => { k with
      task := some t, ftok := cr, owned := [], maskUsed := [], fstNan := false, streams := [], loads := [], unswapped := [],
      banks := k.banks.map (fun e => (e.1, { e.2 with entered := [] })) })

/-- A senior sequence starts its first task: the bounds of R322 on its acknowledgement and its first stage. -/
def seniorStart (s : State) (r : Sequ) (reserved first : Bool) : State :=
  if r.cls ≠ 0 then s
  else
    let t := seniorTimes r (hgNow s)
    seniorRecord s r (hgNow s) (b2n (decide (20000 < t.1)) + 2 * b2n (decide (150000 < t.2)))
      (if !reserved then 23 else if clockLow s r.part then 2 else if !first then 22 else 0)

/-- Capture in progress: no unreserved pipeline of the partition starts its next step (R365). -/
def captureHolds (s : State) (key : Nat) (p : Pipe) : Bool :=
  !p.reserved && (match tget s.head.progs (progOf key) with
    | none => false
    | some g => ((getSecure s g.part).map (·.holdFrom.isSome)).getD false)

/-- The first stage starts the next step of the earliest ready sequence; every later stage that is idle starts the task that
the stage before it has handed on (R304). -/
def taskStartOp (s : State) (key : Nat) : State :=
  match getPipe s key, tget s.head.progs (progOf key) with
  | some p, some g =>
    if !p.live || p.halted then s
    else
      let sts := pipeStages g.img (pipeOf key)
      let idle := fun (s : State) (c : Nat) => coreLive s c && (getCore s c).task.isNone
      let first := match sts, p.cores with
        | st :: _, c :: _ =>
          if p.held || captureHolds s key p || !idle s c then s
          else match p.slots.find? (fun q => !seqBusy s key q && (getSeq s q).isSome) with
            | none => s
            | some q =>
              let s := match getSeq s q with
                | none => s
                | some r =>
                  if r.st = .flight then s
                  else seniorStart (setSeq s q { r with st := .flight, startAt := hgNow s }) r p.reserved (p.slots.headD q == q)
              let s := startOn s key st.1 st.2 c q
              setPipe s key { p with queues := (p.queues.zip (List.range p.queues.length)).map (fun x => if x.2 = 0 then x.1 else x.1 ++ [q]) }
        | _, _ => s
      ((sts.zip (List.range sts.length)).drop 1).foldl (fun s x =>
        match getPipe s key with
        | none => s
        | some p =>
          let c := p.cores.getD x.2 0
          match p.queues.getD x.2 [] with
          | [] => s
          | q :: rest =>
            -- a stage runs its tasks in the order in which the first stage started them
            if idle s c then setPipe (startOn s key x.1.1 x.1.2 c q) key { p with queues := p.queues.set x.2 rest } else s) first
  | _, _ => s

def execTaskStart (program pipe : Nat) (s : State) : Host.Outcome State Fault Refusal := .next (taskStartOp s (pipeKey program pipe))

/-! ### Admission (R319) -/

/-- Program of a sequence's model. -/
def seqProg (s : State) (r : Sequ) : Option Nat := (tget s.head.models r.model).map (·.prog)

/-- Queued sequences of a program and class: those returned to the head of their class, then the oldest first. -/
def waiting (s : State) (prog cls : Nat) : List (Nat × Sequ) :=
  let w := s.head.seqs.filter (fun e => e.2.st == .queued && e.2.cls == cls && seqProg s e.2 == some prog && !clsShed s e.2.part cls)
  w.filter (·.2.front) ++ w.filter (!·.2.front)

/-- Cost of a sequence on its program's pipeline. -/
def seqCost (img : Image) (pipe steps : Nat) : Nat :=
  let sts := pipeStages img pipe
  steps * sts.length * sts.foldl (fun m x => max m x.2.budget) 0

/-- A loaded pipeline has a free slot and takes new work. -/
def slotFree (s : State) (key : Nat) : Bool :=
  match getPipe s key, tget s.head.progs (progOf key) with
  | some p, some g => p.live && !p.halted && !p.stopAdmit && s.head.reload ≠ 2 && !g.unloading &&
      decide (p.slots.length < min 32 (g.img.depths.getD (pipeOf key) 1)) && p.cores.all (fun c => !(getCore s c).resetting && (getRegion s (coreRegion c)).draining.isNone)
  | _, _ => false

def admitSeq (s : State) (key q : Nat) : State :=
  match getSeq s q, getPipe s key with
  | some r, some p => setPipe (setSeq s q { r with st := .inRing, front := false, pipe := key }) key { p with slots := p.slots ++ [q] }
  | _, _ => s

/-- Fair-share weight of a context, hg_ctx_cfg bits 25:18. -/
def ctxWeight (s : State) (x : Nat) : Nat := max 1 (getBits (rawReg s .hgCtxCfg x) 18 8)

/-- The oldest sequence of each context, the sequences being in their order. -/
def ctxHeads (w : List (Nat × Sequ)) : List (Nat × Sequ) :=
  w.foldl (fun hs e => if hs.any (fun x => x.2.ctx == e.2.ctx) then hs else hs ++ [e]) []

/-- Head of the standard class: sequence, context, the context's virtual time if it is admitted. -/
def stdHead (s : State) (v : Partition) (img : Image) (pipe : Nat) (w : List (Nat × Sequ)) : Option (Nat × Nat × Rat) :=
  match w.find? (·.2.front) with
  | some e => some (e.1, e.2.ctx, tgetD v.vtCtx e.2.ctx 0 + (seqCost img pipe e.2.steps : Rat) / ctxWeight s e.2.ctx)
  | none => (ctxHeads w).foldl (fun best e =>
      let t := tgetD v.vtCtx e.2.ctx 0 + (seqCost img pipe e.2.steps : Rat) / ctxWeight s e.2.ctx
      match best with
      | none => some (e.1, e.2.ctx, t)
      | some b => if t < b.2.2 then some (e.1, e.2.ctx, t) else best) none

/-- Head of the junior class: the earliest deadline, those with none last. -/
def junHead (w : List (Nat × Sequ)) : Option (Nat × Sequ) :=
  match w.find? (·.2.front) with
  | some e => some e
  | none => w.foldl (fun best e => match best with
    | none => some e
    | some b => match b.2.deadline, e.2.deadline with
      | none, some _ => some e
      | some x, some y => if y < x then some e else best
      | _, _ => best) none

/-- A reserved pipeline of the program has a free slot. -/
def reservedFree (s : State) (prog : Nat) : Bool :=
  s.head.pipes.any (fun p => progOf p.1 == prog && p.2.reserved && slotFree s p.1)

/-- fill(slot) of R319 for one free slot. A class of share 0 is taken only when no other waits. -/
def fillPipe (s : State) (key : Nat) : State :=
  if !slotFree s key then s
  else match getPipe s key, tget s.head.progs (progOf key) with
  | some p, some g =>
    match getPart s g.part with
    | none => s
    | some v =>
      let prog := progOf key
      let sen := waiting s prog 0
      if p.reserved then
        (match sen with
          | e :: _ => admitSeq s key e.1
          | [] => s)
      else match (if reservedFree s prog then [] else sen) with
        | e :: _ => admitSeq s key e.1
        | [] =>
          let sh := stdHead s v g.img (pipeOf key) (waiting s prog 1)
          let jh := junHead (waiting s prog 2)
          let fs := sh.bind (fun h => (getSeq s h.1).bind (fun r =>
            if v.standard = 0 then none else some (v.vtStd + (seqCost g.img (pipeOf key) r.steps : Rat) / v.standard)))
          let fj := jh.bind (fun h => if v.junior = 0 then none else some (v.vtJun + (seqCost g.img (pipeOf key) h.2.steps : Rat) / v.junior))
          let std := match sh, jh, fs, fj with
            | some _, none, _, _ => true
            | some _, some _, some a, some b => decide (a ≤ b)
            | some _, some _, some _, none => true
            | some _, some _, none, none => true
            | _, _, _, _ => false
          if std then
            match sh with
            | some h => admitSeq (setPart s g.part { v with vtStd := fs.getD v.vtStd, vtCtx := tput v.vtCtx h.2.1 h.2.2 }) key h.1
            | none => s
          else match jh with
            | some h => admitSeq (setPart s g.part { v with vtJun := fj.getD v.vtJun }) key h.1
            | none => s
  | _, _ => s

def execAdmissionFillSlot (program pipe : Nat) (s : State) : Host.Outcome State Fault Refusal := .next (fillPipe s (pipeKey program pipe))

/-! ### Switching (R311) -/

/-- Make room among 60 loaded pipelines: the least recently dispatched idle unreserved one goes. -/
def roomForPipe (s : State) : Option State :=
  if s.head.pipes.length < 60 then some s
  else match (s.head.pipes.filter (fun p => p.2.slots.isEmpty && !p.2.reserved)).foldl (fun (b : Option (Nat × Pipe)) p => match b with
      | none => some p
      | some x => if p.2.lastUsed < x.2.lastUsed then some p else b) none with
    | none => none
    | some p => some (unloadPipe s p.1)

/-- A pipeline of a program is not loaded, or is down, and can be loaded now. -/
def switchable (s : State) (prog pipe : Nat) : Option (State × List Nat) :=
  match tget s.head.progs prog with
  | none => none
  | some g =>
    if g.unloading || s.head.reload = 2 || g.img.depths.length ≤ pipe || ((getPipe s (pipeKey prog pipe)).map (·.live)).getD false then none
    else match roomForPipe s with
      | none => none
      | some s' => (canLoad s' g.img pipe).map (fun cs => (s', cs))

def switchOp (s : State) (prog pipe : Nat) : State :=
  match tget s.head.progs prog, switchable s prog pipe with
  | some g, some (s', cs) => loadPipe s' (pipeKey prog pipe) g.part g.img cs (decide (pipe < g.reserved))
  | _, _ => s

/-- A parked program that a waiting sequence needs is loaded, and its slot filled. -/
def programSwitchOp (s : State) (prog pipe : Nat) : State :=
  if (waiting s prog 0).isEmpty && (waiting s prog 1).isEmpty && (waiting s prog 2).isEmpty then s
  else fillPipe (switchOp s prog pipe) (pipeKey prog pipe)

def execProgramSwitch (program pipe : Nat) (s : State) : Host.Outcome State Fault Refusal := .next (programSwitchOp s program pipe)

def juniorExpiryOp (s : State) (q : Nat) : State :=
  match getSeq s q with
  | none => s
  | some r => match r.deadline with
    | none => s
    | some d => if r.st = .queued ∧ r.cls = 2 ∧ d ≤ hgNow s then endSeq s q .refusedCapacity 0 else s

def execJuniorDeadlineExpiry (seq : Nat) (s : State) : Host.Outcome State Fault Refusal := .next (juniorExpiryOp s seq)

/-! ### Suspect units (R240, R241) -/

/-- A core's own scratchpad block is suspect. -/
def ownBlockSuspect (s : State) (c : Nat) : Bool := (getBlock s (coreField c * 32 + spadIndex c)).suspect

/-- Third suspect event: a unit whose work has moved off is made fallow (R241). -/
def thirdEvent (s : State) (unit : Nat) : State :=
  if tgetD s.head.suspects unit 0 < 3 then s
  else if unit < 240 then
    (if coreFallow s unit || !(holders s unit).isEmpty then s else appendEntries s [ledgerEntry 1 5 unit])
  else
    let b := unit - 256
    if blockFallow s (b / 32) (b % 32) then s else appendEntries s [ledgerEntry 9 5 (b / 32 + 16 * (b % 32))]

/-- A suspect event is counted: the unit is suspect, and a pool block's matrices move to other blocks. -/
def suspectOp (s : State) (unit : Nat) : State :=
  if !s.head.suspectDue.contains unit then s
  else
    let h := s.head
    let s := { s with head := { h with suspectDue := eraseFirst unit h.suspectDue, suspects := tput h.suspects unit (min 3 (tgetD h.suspects unit 0 + 1)) } }
    let s := if unit < 240 then modCore s unit (fun k => { k with suspect := true })
      else setBlock s (unit - 256) { getBlock s (unit - 256) with suspect := true }
    let s := if unit ≥ 256 ∧ 20 ≤ (unit - 256) % 32 then repinOff s (unit - 256) else s
    thirdEvent s unit

def execSuspectEvent (isBlock : Bool) (unit : Nat) (s : State) : Host.Outcome State Fault Refusal :=
  .next (suspectOp s (if isBlock then 256 + unit else unit))

/-! ### Moves at step boundaries (R302, R377, R378, R426) -/

/-- The core stands at a step boundary: it runs no task. -/
def atBoundary (s : State) (c : Nat) : Bool := (getCore s c).task.isNone

/-- Move the stages of a pipeline that a test picks and that stand at a boundary; one that fits nowhere goes to `stuck`. -/
def moveWhere (s : State) (key cause : Nat) (pick : State → Nat → Bool) (stuck : State → State) : State :=
  match getPipe s key with
  | none => s
  | some p => (List.range p.cores.length).foldl (fun s i => match getPipe s key with
    | none => s
    | some q =>
      let c := q.cores.getD i 0
      if q.live && pick s c && atBoundary s c then
        (match moveStage s key i cause with
          | some s' => s'
          | none => stuck s)
      else s) s

def coreDraining (s : State) (c : Nat) : Bool := (getRegion s (coreRegion c)).draining.isSome

/-- A cluster that is being shed holds no running work: it is drained and powered off (R30, R426). -/
def finishShed (s : State) (cl : Nat) : State :=
  if (getRegion s cl).draining.isNone then s
  else if (clusterCores cl).any (fun c => !atBoundary s c || (holders s c).any (fun p => !p.2.held && !p.2.halted)) then s
  else
    let s := (clusterCores cl).foldl (fun s c => closeAll s c true) s
    let s := modRegion (clusterOff s cl) cl (fun x => { x with shed := true })
    report (setEvent s .pwEvent 0 5) 0x000C St.regionShed.code none cl 0 cl

/-- Survey deferral limit of a core's partition, hours. -/
def deferHours (s : State) (c : Nat) : Nat := (((corePart s c).bind (getPart s)).map (·.deferH)).getD 6

/-- A due survey whose deferral has reached its limit (R377). -/
def surveyPressing (s : State) (c : Nat) : Bool :=
  match tget s.head.surveys c with
  | none => false
  | some v => v.due && decide (v.since + hourCycles (deferHours s c) ≤ hgNow s)

/-- Stages that a survey's pass lets return: the core that the stage left. -/
def returnsDue (s : State) (key : Nat) : List (Nat × Nat) :=
  s.head.surveys.filterMap (fun e => match e.2.movedFrom with
    | some (k, i) => if k = key && !e.2.due then some (e.1, i) else none
    | none => none)

def clearMoved (s : State) (c : Nat) : State :=
  match tget s.head.surveys c with
  | none => s
  | some v => { s with head := { s.head with surveys := tput s.head.surveys c { v with movedFrom := none } } }

/-- Moves for surveys: the stage leaves a core whose survey presses, and returns after its pass. -/
def surveyMoves (s : State) (key : Nat) : State :=
  match getPipe s key with
  | none => s
  | some p =>
    let s := (List.range p.cores.length).foldl (fun s i => match getPipe s key with
      | none => s
      | some q =>
        let c := q.cores.getD i 0
        if q.live && surveyPressing s c && atBoundary s c then
          match moveStage s key i 3 with
          | none => s
          | some s' => match tget s'.head.surveys c with
            | none => s'
            | some v => { s' with head := { s'.head with surveys := tput s'.head.surveys c { v with movedFrom := some (key, i) } } }
        else s) s
    (returnsDue s key).foldl (fun s e => match getPipe s key with
      | none => s
      | some q => if atBoundary s (q.cores.getD e.2 0) then clearMoved ((moveStage s key e.2 5).getD s) e.1 else s) s

/-- Format decisions in force from this boundary (R220). -/
def applyGovs (s : State) (prog : Nat) : State :=
  let step := fun (g : Gov) => match g.next with
    | none => g
    | some x => { g with fmt := x.1, eref := x.2.1, scale := x.2.2, next := none }
  let ms : Tab Model := s.head.models.map (fun e =>
    if e.2.prog = prog then (e.1, { e.2 with govs := e.2.govs.map (fun g => (g.1, step g.2)) }) else e)
  { s with head := { s.head with models := ms } }

/-- The actions of R378 in their order. They act where the pipeline's stages stand at a step boundary; a reload proper lets
none of them act but the pipelines' own (R358). -/
def boundaryActions (s : State) (prog pipe : Nat) : State :=
  let key := pipeKey prog pipe
  match getPipe s key, tget s.head.progs prog with
  | some p, some g =>
    if s.head.reload = 2 || !p.cores.any (atBoundary s) then s
    else
      let s := if p.cores.all (atBoundary s) then captureOp s g.part else s
      let s := moveWhere s key 1 (fun s c => coreSuspect s c || ownBlockSuspect s c || coreFallow s c) (fun s => pipeDown s key)
      let s := p.cores.foldl thirdEvent s
      let s := moveWhere s key 2 coreDraining (fun s => match getPipe s key with
        | some q => setPipe s key { q with held := true }
        | none => s)
      let s := ((p.cores.map coreCluster).eraseDups).foldl finishShed s
      let s := surveyMoves s key
      if p.cores.all (atBoundary s) then applyGovs s prog else s
  | _, _ => s

def execStepBoundaryActions (program pipe : Nat) (s : State) : Host.Outcome State Fault Refusal := .next (boundaryActions s program pipe)

/-! ### The format governor (R217-R222) -/

/-- Cores that hold stages of a governed layer in a program's loaded pipelines. -/
def layerCores (s : State) (prog layer : Nat) : List Nat :=
  match tget s.head.progs prog with
  | none => []
  | some g => (s.head.pipes.filter (fun p => progOf p.1 == prog && p.2.live)).flatMap (fun p =>
      ((pipeStages g.img (pipeOf p.1)).zip p.2.cores).filterMap (fun x => if x.1.2.layer = some layer then some x.2 else none))

/-- Policy fields of Table BWD-5. -/
def polPin (p : BitVec 64) : Nat := fld p 0 2
def polNarrow (p : BitVec 64) : Nat := fld p 2 2
def polWide (p : BitVec 64) : Nat := fld p 4 2
def polW (p : BitVec 64) : Nat := fld p 8 8
def polU (p : BitVec 64) : Nat := fld p 16 8
def polWarm (p : BitVec 64) : Nat := fld p 24 8

/-- Defaults of Table BWD-5. -/
def polDefault : BitVec 64 := 0x04_0C_04_34#64

/-- A policy block is accepted (R221). -/
def polOk (p : BitVec 64) : Bool :=
  polNarrow p != 0 && polWide p != 0 && decide (polNarrow p ≤ polWide p) &&
  (polPin p == 0 || (decide (polNarrow p ≤ polPin p) && decide (polPin p ≤ polWide p))) &&
  decide (1 ≤ polW p) && decide (polW p ≤ 64) && decide (4 ≤ polU p) && decide (polU p ≤ 24) && fld p 6 2 == 0 && fld p 32 32 == 0

/-- Choice and reason of Table BWD-4, and the lengths for which the narrowing conditions have held. -/
def govChoice (g : Gov) (f : GovSum) : Nat × Nat × Nat × Nat :=
  let p := g.policy
  let u := polU p
  let u8 := f.h31 * 2 ^ u
  let u12 := f.h63 * 2 ^ u
  let n8 := if g.fmt ≠ 1 ∧ u8 * 4 ≤ f.z then g.hold8 + 1 else 0
  let n12 := if g.fmt = 3 ∧ u12 * 4 ≤ f.z then g.hold12 + 1 else 0
  let c : Nat × Nat :=
    if polPin p ≠ 0 then (polPin p, 5)
    else if g.steps < polWarm p then (polWide p, 6)
    else if f.nan then (3, 4)
    else if 0 < f.overs then (g.fmt + 1, 3)
    else if g.fmt = 1 ∧ f.z < u8 then (if u12 ≤ f.z then 2 else 3, 2)
    else if g.fmt = 2 ∧ f.z < u12 then (3, 2)
    else if g.fmt ≠ 1 ∧ polW p ≤ n8 then (1, 1)
    else if g.fmt = 3 ∧ polW p ≤ n12 then (2, 1)
    else (g.fmt, 0)
  (max (polNarrow p) (min (polWide p) c.1), c.2, n8, n12)

/-- floor(log2 |x|) of an FP32 magnitude, in the range of E_ref. -/
def fpExp (v : W32) : Int :=
  let e := getBits v 23 8
  if e = 255 then 127 else if e = 0 then -127 else (e : Int) - 127

def scaleFor (fmt : Nat) (eref : Int) : Int := if fmt = 1 then max (-64) (min 64 (13 - eref)) else 0

/-- A core of a governed layer already runs a task of the next step. -/
def decidedLate (s : State) (prog layer : Nat) : Bool := (layerCores s prog layer).any (fun c => !atBoundary s c)

/-- The governor decides on the figures of the step that has ended; a decision that comes after the next step's first backward task has
started, of which `late` tells where that task has ended again, applies one step later (reason 7). The underflow estimates of a step without non-zero sources are 0 (DESIGN CHOICE, log entry 76). -/
def governorOp (s : State) (model layer : Nat) (late : Bool) : State :=
  match tget s.head.models model with
  | none => s
  | some m => match tget m.govs layer with
    | none => s
    | some g =>
      if s.head.reload = 2 then s
      else
        let f := g.sum
        let c := govChoice g f
        let eref := if f.amax.toNat % 2 ^ 31 = 0 then g.eref else fpExp f.amax
        let sc := scaleFor c.1 eref
        let g' := { g with steps := g.steps + 1, hold8 := if c.1 = g.fmt then c.2.2.1 else 0, hold12 := if c.1 = g.fmt then c.2.2.2 else 0,
                           sum := .zero, next := some (c.1, eref, sc) }
        let shown := if late || decidedLate s m.prog layer then (g.fmt, 7, g.scale) else (c.1, c.2.1, sc)
        let s := { s with head := { s.head with models := tput s.head.models model { m with govs := tput m.govs layer g' } } }
        let frac := fun (n : Nat) => if f.z = 0 then 0 else min 0xFFFF (n * 65536 / f.z)
        telemeter s 1 78 (some m.part) (leBytes 2 layer ++ [BitVec.ofNat 8 (shown.1 + 4 * shown.2.1), BitVec.ofNat 8 (shown.2.2 % 256).toNat] ++
          leBytes 4 f.amax.toNat ++ leBytes 2 (frac f.h31) ++ leBytes 2 (frac f.h63) ++ leBytes 4 (f.overs % 2 ^ 32))

def execGovernorDecision (model layer : Nat) (late : Bool) (s : State) : Host.Outcome State Fault Refusal :=
  .next (governorOp s model layer late)

/-! ### Best-effort sampling (R242, R243) -/

/-- A spare core of a partition: presented, powered, not suspect, holding no stage. -/
def spareCore (s : State) (p c : Nat) : Bool :=
  corePart s c == some p && corePresented s c && coreLive s c && !coreSuspect s c && (holders s c).isEmpty

def sampleOp (s : State) (c k : Nat) (matched reproduced : Bool) : State :=
  match corePart s c with
  | none => s
  | some p => match getPart s p with
    | none => s
    | some v =>
      if v.sample = 0xFF then s
      else if !((List.range 240).any (fun x => x ≠ c && spareCore s p x)) then
        setEvent (setPart s p { v with sampleSkipped := v.sampleSkipped + 1 }) .coChkEvent c 3
      else if k = c || !spareCore s p k then s
      else
        let s := bump (spoilReserve s k) .coBeSampled c 1
        if matched then s
        else
          let s := bump s .coBeMismatch c 1
          let blamed := if reproduced then c else k
          let other := if reproduced then k else c
          let g := coreRegion blamed
          let s := setEvent (plogPut s (plogHeader blamed 3 g (getRegion s g).count 0 0)) .coChkEvent blamed 2
          report (addSuspect s blamed) 0x0018 0 (some p) blamed other

def execBestEffortSample (core checker : CoreId) (matched reproduced : Bool) (s : State) : Host.Outcome State Fault Refusal :=
  .next (sampleOp s core checker matched reproduced)

/-! ### Surveys (R377, R438) -/

def surveyOf (s : State) (c : Nat) : Survey := tgetD s.head.surveys c ⟨hourCycles 24, false, 0, none, 0⟩

def setSurvey (s : State) (c : Nat) (v : Survey) : State := { s with head := { s.head with surveys := tput s.head.surveys c v } }

/-- Persistent ranges of idle pipelines on a core become undefined, and are reported (R438). -/
def losePersistent (s : State) (c : Nat) : State :=
  (holders s c).foldl (fun s p => match tget s.head.progs (progOf p.1) with
    | none => s
    | some g => ((pipeStages g.img (pipeOf p.1)).zip p.2.cores).foldl (fun s x =>
        if x.2 = c && !x.1.2.persistent.isEmpty then report s 0x000E 0 (some g.part) c (progOf p.1 + 65536 * x.1.1) else s) s) s

/-- The tile pass of a replay (R239): the value that a healthy array gives at (m, n) for the captured operands of an entry (Table CHK-5),
entered with its accumulator value. -/
def replayValue (e : PEntry) : Option W32 :=
  match fmtOfCode e.wfmt, fmtOfCode e.xfmt with
  | some wf, some xf =>
    let k := if e.mode = 1 then 256 else 128
    let rows := if e.mode = 2 then 1 else 2
    let blocks := fun (f : Fmt) => if fmtBlock f = 0 then 0 else k / fmtBlock f
    let part := fun (f : Fmt) (bs : List Byte) (n i skip : Nat) => decodeElems f (((unpackElems f (n * k) bs).drop (i * k)).take k)
      (((e.blocks.drop (skip + i * blocks f)).take (blocks f)).map (·.toNat))
    let x := part xf e.acts rows (e.row % rows) 0
    let w := part wf e.weights 2 (e.col % 2) (rows * blocks xf)
    some (accWord (fmtIsInt wf) (dotAcc (fmtIsInt wf) (accVal (fmtIsInt wf) e.entering) (x.zip w)))
  | _, _ => none

/-- Entries that name a core and carry operands. -/
def replayEntries (s : State) (c : Nat) : List PEntry := s.head.plog.filter (fun e => e.unit == c && e.cls == 1 && e.located)

/-- Entries whose replay fails on a core: the array shows the healthy value with these bits changed, by entry sequence number. -/
def failedReplays (s : State) (c : Nat) (shown : List (Nat × W32)) : List PEntry :=
  (replayEntries s c).filter (fun e => (replayValue e).any (fun v => v ^^^ ((shown.find? (·.1 == e.seq)).map Prod.snd).getD 0 ≠ v))

/-- The cube columns that failing replays locate (R241, Table BOOT-2). -/
def replayFinds (s : State) (c : Nat) (shown : List (Nat × W32)) : List W32 :=
  ((failedReplays s c shown).map (fun e => ledgerEntry 2 4 (c + 256 * e.twin + 512 * e.cube))).eraseDups

/-- What the selected tests can find (Table BOOT-2): the array patterns cube columns and cores, the basin rows spare rows and columns with
their continuations, blocks, pools and cores, the lanes spare lanes and the units that lose them. -/
def selectedFinds (kinds : Byte) (found : List W32) : List W32 :=
  found.filter (fun e =>
    (kinds.getLsbD 0 && [1, 2].contains (ledgerType e)) || (kinds.getLsbD 2 && [1, 7, 8, 9, 0xD, 0xF].contains (ledgerType e)) ||
    (kinds.getLsbD 3 && [1, 3, 4, 5, 6, 9, 0xE].contains (ledgerType e)))

/-- One core is surveyed by the tests that the kind bits select: ledger entries appended, its scratchpad undefined with kind bit 2, its
record brought up to date. -/
def surveyCore (s : State) (c : Nat) (kinds : Byte) (found : List W32) (replays : List (Nat × W32)) (reason : Nat) : State :=
  let found := selectedFinds kinds found ++ (if kinds.getLsbD 1 then replayFinds s c replays else [])
  let s := if kinds.getLsbD 2 then undefine (losePersistent s c) (spadBase c) (spadBase c + spadBytes) else s
  let was := coreFallow s c
  let s := appendEntries s found
  let s := if !was && coreFallow s c && !found.any (fun e => ledgerType e == 1 && getBits e 0 8 == c) then appendEntries s [ledgerEntry 1 reason c] else s
  let pass := !coreFallow s c && found.isEmpty
  let s := modCore s c (fun k => { k with suspect := if pass then false else k.suspect })
  let v := surveyOf s c
  let s := setSurvey s c { v with dueAt := hgNow s + hourCycles 24, due := false, since := 0, reports := 0,
                                  movedFrom := if pass then v.movedFrom else none }
  report s 0x0005 0 (corePart s c) c (found.length + 65536 * b2n pass)

/-- An in-field survey after a suspect event runs the array patterns and the replay, whatever else is asked of it (R241). -/
def surveyKinds (s : State) (c : Nat) (kinds : Byte) : Byte := if coreSuspect s c then kinds ||| 3#8 else kinds

/-- An in-field survey of a core that holds no stage with a sequence in flight, or of a bank-side block (R241, R377, R436). A core
that a survey narrows still serves where its presented width fits its stage. -/
def inFieldOp (s : State) (isBlock : Bool) (unit : Nat) (kinds : Byte) (found : List W32) (replays : List (Nat × W32)) : State :=
  if s.head.reload = 2 then s
  else if isBlock then
    let s := if found.isEmpty then s else appendEntries s [ledgerEntry 9 3 (unit / 32 + 16 * (unit % 32))]
    let pass := found.isEmpty && !blockFallow s (unit / 32) (unit % 32)
    let s := setBlock s unit { getBlock s unit with suspect := !pass }
    let s := thirdEvent s (256 + unit)
    report s 0x0005 0 none (256 + unit) (found.length + 65536 * b2n pass)
  else if 240 ≤ unit || (holders s unit).any (fun p => !(inFlight s p.1).isEmpty) || (getCore s unit).resetting ||
      !(getRegion s (coreRegion unit)).powered then s
  else thirdEvent (surveyCore s unit (surveyKinds s unit kinds) found replays 3) unit

def execInFieldSurvey (isBlock : Bool) (unit : Nat) (kinds : Byte) (finds : Finds) (s : State) : Host.Outcome State Fault Refusal :=
  .next (inFieldOp s isBlock unit kinds finds.found finds.replays)

def surveyDueOp (s : State) (c : Nat) : State :=
  let v := surveyOf s c
  if v.due || hgNow s < v.dueAt || !corePresented s c then s else setSurvey s c { v with due := true, since := hgNow s, reports := 0 }

def execSurveyDue (core : CoreId) (s : State) : Host.Outcome State Fault Refusal := .next (surveyDueOp s core)

/-- The wait of a due survey reaches its limit: the stages on the core that stand at a boundary move (R377, step 1). -/
def deferralOp (s : State) (c : Nat) : State :=
  if !surveyPressing s c || s.head.reload = 2 then s else (holders s c).foldl (fun s p => surveyMoves s p.1) s

def execSurveyDeferralLimit (core : CoreId) (s : State) : Host.Outcome State Fault Refusal := .next (deferralOp s core)

/-- Hourly report of a survey that no relief placement frees. -/
def overdueOp (s : State) (c : Nat) : State :=
  let v := surveyOf s c
  if !surveyPressing s c || hgNow s < v.since + hourCycles (deferHours s c + v.reports) then s
  else
    let s := setSurvey s c { v with reports := v.reports + 1 }
    report s 0x0006 0 (corePart s c) c v.reports

def execSurveyOverdueReport (core : CoreId) (s : State) : Host.Outcome State Fault Refusal := .next (overdueOp s core)

/-- Hourly report of a partition without checks (R224). -/
def checksDisabledOp (s : State) (p : Nat) : State :=
  match getPart s p with
  | none => s
  | some v => if v.checks || hgNow s < v.chkAt + hourCycles 1 then s
    else report (setPart s p { v with chkAt := hgNow s }) 0x0016 0 (some p) 0 1

def execChecksDisabledReport (part : Nat) (s : State) : Host.Outcome State Fault Refusal := .next (checksDisabledOp s part)

/-! ### A core lost mid-run (R375, R376) -/

def silenceOp (s : State) (c : Nat) : State := modCore s c (fun k => { k with lost := true })

def execCoreSilenceTimeout (core : CoreId) (s : State) : Host.Outcome State Fault Refusal := .next (silenceOp s core)

/-- A stage is declared lost: silence, or a domain that lost power without a drain. Every sequencer fault of the model is a
BANK_CONFLICT, which R375 excepts. -/
def stageIsLost (s : State) (c : Nat) : Bool :=
  (getCore s c).lost || (!(getRegion s (coreRegion c)).powered && !(getRegion s (coreRegion c)).shed)

/-- A faulted sequencer: its pipelines' cores are reset at core level, and they restart in place (Table BOOT-7, R446). -/
def resetFaulted (s : State) (c : Nat) : State :=
  let hs := holders s c
  let s := startReset s 2 none (c :: hs.flatMap (fun p => p.2.cores)).eraseDups none
  hs.foldl (fun s p => restartPipe s p.1) s

/-- One pipeline through steps 1-4 and 6 of Table RES-6. -/
def losePipe (s : State) (key c : Nat) : State :=
  match getPipe s key, tget s.head.progs (progOf key) with
  | some p, some g =>
    let s := setPipe s key { p with stopAdmit := true }
    let s := haltPipe s key .stageLost
    let s := startReset s 2 none p.cores none
    let s := (List.range p.cores.length).foldl (fun s i =>
      match getPipe s key with
      | none => s
      | some q => if q.cores.getD i 0 = c then moveOrDown s key i 4 else s) s
    let s := if ((getSecure s g.part).map (fun x => x.n != 0)).getD false then
        rollbackRing s g.part
      else s
    match getPipe s key with
    | none => s
    | some q => setPipe s key { q with stopAdmit := false, halted := false }
  | _, _ => s

/-- The pipelines of a core that is lost during a reload proper halt and wait for the firmware (R358). -/
def haltHolders (s : State) (c : Nat) : State := (holders s c).foldl (fun s p => setPipe s p.1 { p.2 with halted := true }) s

/-- Table RES-6 for every pipeline of a lost core. A core that does not answer is appended to the ledger (step 5); one that
answers has its survey due at once. -/
def stageLostOp (s : State) (c : Nat) : State :=
  if s.head.reload = 2 then (if stageIsLost s c then haltHolders s c else s)
  else if !stageIsLost s c then (if (getCore s c).faulted then resetFaulted s c else s)
  else
    let lost := (getCore s c).lost
    let s := (holders s c).foldl (fun s p => losePipe s p.1 c) s
    let s := if lost && (getRegion s (coreRegion c)).powered then
        modCore (appendEntries s [ledgerEntry 1 7 c]) c (fun k => { k with lost := false })
      else s
    if coreFallow s c then s else setSurvey s c { surveyOf s c with due := true, since := hgNow s }

def execStageLost (core : CoreId) (s : State) : Host.Outcome State Fault Refusal := .next (stageLostOp s core)

/-- The first free relief placement of a stage for a cause of Table HGM-13 (R301); with none the pipeline goes down. -/
def reliefApplyOp (s : State) (prog stage cause : Nat) : State :=
  match tget s.head.progs prog with
  | none => s
  | some g => match g.img.stages[stage]? with
    | none => s
    | some st =>
      let key := pipeKey prog st.pipe
      match getPipe s key with
      | none => s
      | some p =>
        let c := p.cores.getD st.pos st.core
        if s.head.reload = 2 || !p.live || !atBoundary s c then s else moveOrDown s key st.pos cause

def execReliefPlacementApply (program stage cause : Nat) (s : State) : Host.Outcome State Fault Refusal :=
  .next (reliefApplyOp s program stage cause)

end Sys2Proof.Machine
end

