-- ==== Sys2Proof/Machine/Mailbox.lean ====
section
/-!
DEFINITION. Mailbox commands, first part (13_brivlink_headgate, R349, R350; 12, R305-R307; 17, R445; 18, R451-R459):
the header checks, and the commands of partitions, resets, windows, records, surveys, attestation and reload.
-/
namespace Sys2Proof.Machine

/-! ### Deciding a command (R349, R443) -/

def ctxSenior (s : State) (x : Nat) : Bool := (rawReg s .hgCtxCfg x).getLsbD 10

/-- Partition of a context, hg_ctx_cfg bits 17:12. -/
def ctxPart (s : State) (x : Nat) : Option Nat :=
  let p := getBits (rawReg s .hgCtxCfg x) 12 6
  if p = 0x3F then none else some p

/-- Opcodes of management contexts only (Table HGM-9). -/
def mgmtOp (op : Nat) : Bool := [0x02, 0x03, 0x41, 0x60, 0x71].contains op

/-- Opcodes that a device that is not ready accepts on management contexts (R443). -/
def earlyOp (op : Nat) : Bool := [0x01, 0x61, 0x51, 0x60, 0x70, 0x71].contains op

/-- The header checks in their order; the first failure's status. A context that is not ready for the command answers first. -/
def headCheck (s : State) (h : Hdr) (op : Nat) : Option St :=
  let x : Nat := h.ctx
  if !s.boot.ready && !(earlyOp op && decide (x < 4)) then some .topologyMismatch
  else if h.rsvd then some .badCommand
  else if 3 ≤ h.cls ∨ (op ≠ 0x20 ∧ h.cls ≠ 1) then some .badCommand
  else if mgmtOp op && decide (4 ≤ x) then some .badCommand
  else if 4 ≤ x ∧ ctxPart s x ≠ some h.part then some .badCommand
  else if op ≠ 0x02 ∧ s.boot.ready ∧ (getPart s h.part).isNone then some .badCommand
  else if ctxSenior s x && !(op == 0x21 || (op == 0x20 && h.cls == 0)) then some .badCommand
  else if op = 0x20 ∧ h.cls = 0 ∧ !ctxSenior s x then some .badCommand
  else none

/-- An earlier command of the context has no final completion yet (R348). -/
def fenceBlocked (s : State) (h : Hdr) : Bool :=
  h.fence && (s.head.opened.takeWhile (fun o => !(o.ctx == (h.ctx : Nat) && o.tag == h.tag))).any (fun o => o.ctx == (h.ctx : Nat))

/-- The command has been decided and waits for sequences in flight: PROGRAM_UNLOAD and SURVEY_RUN (R312, R377). -/
def waitsOn (s : State) (h : Hdr) (op : Nat) : Bool :=
  (op == 0x11 || op == 0x60) && s.head.opened.any (fun o => o.ctx == (h.ctx : Nat) && o.tag == h.tag && o.op == op && o.decided) &&
  !s.head.cplDue.any (fun c => c.ctx == (h.ctx : Nat) && c.tag == h.tag)

/-- The command is the next of its context to be decided (R348), or it was never read from a ring. -/
def inTurn (s : State) (h : Hdr) : Bool :=
  match s.head.opened.find? (fun o => o.ctx == (h.ctx : Nat) && !o.decided) with
  | some o => o.tag == h.tag
  | none => !s.head.opened.any (fun o => o.ctx == (h.ctx : Nat) && o.tag == h.tag)

/-- The firmware decides a command now: it runs, no reload forbids the command, it is the command's turn and no fence waits (R348, R356,
R358). -/
def decides (s : State) (h : Hdr) (op : Nat) : Bool :=
  s.boot.hgState == 2 && s.head.reload ≠ 2 && (waitsOn s h op ||
    ((s.head.reload == 0 || op == 0x20 || op == 0x21) && inTurn s h && !fenceBlocked s h))

/-- The command is decided. -/
def markDecided (h : Hdr) (s : State) : State :=
  { s with head := { s.head with opened := s.head.opened.map (fun o => if o.ctx = (h.ctx : Nat) ∧ o.tag = h.tag then { o with decided := true } else o) } }

/-- Decide a command: nothing happens before the firmware decides it; a header that fails is refused. -/
def decideCmd (s : State) (h : Hdr) (op : Nat) (f : State → State) : State :=
  if !decides s h op then s
  else markDecided h (match headCheck s h op with
    | some st => complete s h st
    | none => f s)

/-- An address argument: 48 bits, 64-byte aligned (R350). -/
def argAddr (a : W64) : Bool := decide (a.toNat < 2 ^ 48) && a.toNat % 64 == 0

/-- An aligned address in companion memory. -/
def compAddr (a : W64) : Bool := argAddr a && a.toNat / 2 ^ 44 == 3

/-- Bytes of a parameter block, read by the headgate complex. -/
def blockBytes (s : State) (a : W64) (n : Nat) : List Byte := mreads s.mem a.toNat n

def bytesNat (b : List Byte) (o n : Nat) : Nat := leNat ((b.drop o).take n)

/-- Write a run to companion memory on behalf of a command. -/
def cmdWrite (s : State) (h : Hdr) (a : W64) (bs : List Byte) : State := compWrite s (a.toNat % 2 ^ 44) bs h.ctx h.tag

/-! ### IDENTIFY -/

/-- The identity and capability window, 4 KiB. -/
def identWindow (s : State) : List Byte :=
  (List.range 1024).flatMap (fun i => leBytes 4 ((ctlRead s (4 * i)).getD 0).toNat)

def identifyOp (h : Hdr) (dest : W64) (s : State) : State :=
  if !compAddr dest then complete s h .badCommand
  else complete (cmdWrite s h dest (identWindow s)) h .ok (s.boot.status + 256 * s.boot.presented)

def execIdentify (h : Hdr) (dest : W64) (s : State) : Host.Outcome State Fault Refusal := .next (decideCmd s h 0x01 (identifyOp h dest))

/-! ### Partitions (R305-R307, R353, R459) -/

def segOf (d : BitVec 128) : Seg :=
  ⟨fld d 0 36, fld d 36 36, d.getLsbD 72, d.getLsbD 73, d.getLsbD 74, d.getLsbD 75, d⟩

/-- Addresses of a segment: first, and one past the last. -/
def Seg.span (g : Seg) : Nat × Nat := (g.base * 4096, (g.limit + 1) * 4096)

def meets (a b : Nat × Nat) : Bool := decide (a.1 < b.2) && decide (b.1 < a.2)

/-- R306: space 2, base above limit, different spaces, or a reserved bit. -/
def segBad (g : Seg) : Bool :=
  fld g.raw 76 52 ≠ 0 || decide (g.limit < g.base) || g.base / 2 ^ 32 ≠ g.limit / 2 ^ 32 || g.base / 2 ^ 32 == 2

/-- The headgate range (R336). -/
def headSpan : Nat × Nat := (0xD7B0000000, 0xD800000000)

/-- Spans that a partition holds implicitly: scratchpads, pool ranges, image range. -/
def implicitSpans (s : State) (p : Nat) (v : Partition) : List (Nat × Nat) :=
  (v.clusters.flatMap clusterCores).map (fun c => (spadBase c, spadBase c + spadBytes)) ++
  s.fields.flatMap (fun f => (f.2.ranges.filter (fun r => r.2.part == p)).map (fun r =>
    (poolBase f.1 + r.2.first * stripeBytes, poolBase f.1 + (r.2.first + r.2.stripes) * stripeBytes))) ++
  [(v.imgBase, v.imgBase + v.imgBytes)]

/-- Some span of one list meets one of another. -/
def anyMeet (xs ys : List (Nat × Nat)) : Bool := xs.any (fun x => ys.any (meets x))

/-- Segments of two partitions overlap where one grants wr, add or exp (R307). -/
def segsClash (a b : List Seg) : Bool :=
  a.any (fun g => b.any (fun k => meets g.span k.span && (g.wr || g.add || g.exp || k.wr || k.add || k.exp)))

/-- A new partition conflicts with what exists (R305, R307, R336, R353, R361). -/
def partClash (s : State) (n : Partition) : Bool :=
  let segs := n.segs.map Seg.span
  let img := (n.imgBase, n.imgBase + n.imgBytes)
  let mine := (n.clusters.flatMap clusterCores).map (fun c => (spadBase c, spadBase c + spadBytes)) ++ [img]
  anyMeet segs [headSpan, img] || meets img headSpan ||
  decide (65536 < n.queueLimit + (s.head.parts.map (fun p => p.2.queueLimit)).sum) ||
  s.head.parts.any (fun p =>
    p.2.clusters.any n.clusters.contains || segsClash n.segs p.2.segs || anyMeet segs (implicitSpans s p.1 p.2) ||
    anyMeet (p.2.segs.map Seg.span) mine || meets img (p.2.imgBase, p.2.imgBase + p.2.imgBytes)) ||
  s.head.secure.any (fun e => n.segs.any (fun g => (g.wr || g.add) && meets g.span (e.2.areaBase, e.2.areaBase + e.2.areaBytes))) ||
  (List.range n.ctxCount).any (fun i => (ctxPart s (n.ctxFirst + i)).isSome)

/-- The record that a parameter block of Table HGM-10 describes, with its allotment unset (R412). -/
def partOfBlock (s : State) (b : List Byte) : Partition :=
  let n := bytesNat b 13 1
  { clusters := (List.range 60).filter (fun c => (bytesNat b 0 8).testBit c), senior := bytesNat b 8 1, standard := bytesNat b 9 1,
    junior := bytesNat b 10 1, checks := (bytesNat b 11 1).testBit 0, sample := bytesNat b 12 1,
    segs := (List.range n).map (fun i => segOf (BitVec.ofNat 128 (bytesNat b (64 + 16 * i) 16))),
    ctxFirst := bytesNat b 14 2, ctxCount := bytesNat b 16 2, queueLimit := bytesNat b 20 4, imgBase := bytesNat b 24 8,
    imgBytes := bytesNat b 32 8, telFrom := s.head.telNext, pow := Scope.partition, vtStd := 0, vtJun := 0, vtCtx := [],
    sampleSkipped := 0, chkAt := hgNow s, deferH := 6, cyc := 0 }

/-- A field of the block is out of its range, or the partition would hold no cluster (R26). -/
def blockBad (b : List Byte) (n : Partition) : Bool :=
  bytesNat b 0 8 / 2 ^ 60 ≠ 0 || bytesNat b 11 1 / 2 ≠ 0 || bytesNat b 18 2 ≠ 0 || bytesNat b 40 24 ≠ 0 ||
  decide (25 < n.senior) || n.senior + n.standard + n.junior ≠ 100 || decide (16 < n.sample ∧ n.sample ≠ 0xFF) ||
  decide (64 < bytesNat b 13 1) || decide (n.ctxFirst < 4) || decide (4096 < n.ctxFirst + n.ctxCount) ||
  decide (n.queueLimit = 0) || decide (65536 < n.queueLimit) || n.imgBase % 4096 ≠ 0 || n.imgBytes % 4096 ≠ 0 ||
  decide (hbmTop < n.imgBase + n.imgBytes) || n.segs.any segBad || n.clusters.isEmpty

/-- Senior positions of the canal calendar (R254). -/
def setCalendar (s : State) : State :=
  let p := s.head.parts.foldl (fun m e => max m e.2.senior) 0
  { s with head := { s.head with calS := (64 * p + 99) / 100 } }

/-- Assign a run of contexts to a partition, or to none. -/
def assignCtx (s : State) (first n : Nat) (p : Option Nat) : State :=
  (List.range n).foldl (fun s i => setReg s .hgCtxCfg (first + i) (putBits (rawReg s .hgCtxCfg (first + i)) 12 6 (p.getD 0x3F))) s

/-- A partition comes into being. -/
def addPart (s : State) (id : Nat) (n : Partition) : State :=
  let s := setCalendar (assignCtx (setPart s id n) n.ctxFirst n.ctxCount (some id))
  if n.checks then s else report s 0x0016 0 (some id) 0 1

def createOp (h : Hdr) (block : W64) (s : State) : State :=
  if !compAddr block then complete s h .badCommand
  else
    let b := blockBytes s block (64 + 16 * bytesNat (blockBytes s block 64) 13 1)
    let n := partOfBlock s b
    if blockBad b n then complete s h .badCommand
    else if partClash s n then complete s h .configConflict
    else match tfree s.head.parts 60 with
      | none => complete s h .refusedCapacity
      | some id => complete (addPart s id n) h .ok id

def execPartitionCreate (h : Hdr) (block : W64) (s : State) : Host.Outcome State Fault Refusal := .next (decideCmd s h 0x02 (createOp h block))

/-- Parts of a span that no span of a list covers. -/
def spanMinus (xs : List (Nat × Nat)) (y : Nat × Nat) : List (Nat × Nat) :=
  xs.flatMap (fun x => if meets x y then (if x.1 < y.1 then [(x.1, y.1)] else []) ++ (if y.2 < x.2 then [(y.2, x.2)] else []) else [x])

/-- What the tenant scrub of R459 covers. -/
def tenantSpans (s : State) (p : Nat) (v : Partition) : List (Nat × Nat) :=
  let others := (s.head.parts.filter (fun e => e.1 ≠ p)).flatMap (fun e => e.2.segs.map Seg.span)
  implicitSpans s p v ++ ((tget s.head.secure p).map (fun (c : Secure) => [(c.areaBase, c.areaBase + c.areaBytes)])).getD [] ++
  ((v.segs.map Seg.span).filter (fun x => decide (x.2 ≤ hbmTop))).flatMap (fun x => others.foldl spanMinus [x])

/-- A command of these contexts that has been read and not decided to its end, and waits for no sequence. -/
def strayCmds (s : State) (first n : Nat) : List OpenCmd :=
  s.head.opened.filter (fun o => decide (first ≤ o.ctx) && decide (o.ctx < first + n) &&
    !s.head.cplDue.any (fun c => c.ctx == o.ctx && c.tag == o.tag && !c.interim) &&
    !s.head.seqs.any (fun q => q.2.ctx == o.ctx && q.2.tag == o.tag))

/-- PARTITION_DESTROY: contexts first, then sequences, then reset, scrub and release (R316, R353, R459). -/
def destroyPart (s : State) (p : Nat) (v : Partition) : State :=
  let s := (List.range v.ctxCount).foldl (fun s i => setReg s .hgCtxCfg (v.ctxFirst + i) (rawReg s .hgCtxCfg (v.ctxFirst + i) &&& ~~~ 1)) s
  let s := (strayCmds s v.ctxFirst v.ctxCount).foldl (fun s o => postCpl s ⟨o.ctx, o.tag, St.cancelled.code, false, 0, 0, 0, 0, false⟩) s
  let s := endAll s .cancelled ((s.head.seqs.filter (fun e => e.2.part == p)).map Prod.fst)
  let progs := (s.head.progs.filter (fun e => e.2.part == p)).map Prod.fst
  let s := ((s.head.pipes.filter (fun e => progs.contains (progOf e.1))).map Prod.fst).foldl unloadPipe s
  let cores := v.clusters.flatMap clusterCores
  let s := resetPartition (cores.foldl resetCore s) p
  let spans := tenantSpans s p v
  let s := spans.foldl (fun s x => scrub s x.1 x.2) s
  let s := cores.foldl (fun s c => modCore s c (fun k =>
    { k with resetting := false, vec := Vec.reset, banks := [], staging := [], maskBytes := [], maskSilt := [], maskUsed := [], tread := [] })) s
  let fields : Tab Field := s.fields.map (fun e => (e.1, { e.2 with ranges := e.2.ranges.filter (fun r => r.2.part ≠ p) }))
  let s := assignCtx { s with fields := fields } v.ctxFirst v.ctxCount none
  let h := s.head
  let h := { h with progs := h.progs.filter (fun e => e.2.part ≠ p), models := h.models.filter (fun e => e.2.part ≠ p),
                    pins := h.pins.filter (fun e => e.2.part ≠ p), groups := h.groups.filter (fun e => e.2.part ≠ p),
                    secure := tdel h.secure p, parts := tdel h.parts p,
                    resets := h.resets.filter (fun r => r.part ≠ some p) }
  setCalendar { s with head := h }

def destroyOp (h : Hdr) (s : State) : State :=
  match getPart s h.part with
  | none => complete s h .badCommand
  | some v => complete (destroyPart s h.part v) h .ok

def execPartitionDestroy (h : Hdr) (s : State) : Host.Outcome State Fault Refusal := .next (decideCmd s h 0x03 (destroyOp h))

/-! ### Partial resets (R445) -/

/-- The completion of a reset command, posted when its bound has passed. -/
def resetCpl (h : Hdr) : Cpl := ⟨h.ctx, h.tag, 0, false, 0, 0, 0, 0, h.irq⟩

def partitionResetOp (h : Hdr) (s : State) : State := startReset s 0 (some h.part) (partCores s h.part) (some (resetCpl h))

def execPartitionReset (h : Hdr) (s : State) : Host.Outcome State Fault Refusal := .next (decideCmd s h 0x04 (partitionResetOp h))

def clusterResetOp (h : Hdr) (cluster : Nat) (s : State) : State :=
  match getPart s h.part with
  | none => complete s h .badCommand
  | some v => if v.clusters.contains cluster then startReset s 1 (some h.part) (clusterCores cluster) (some (resetCpl h))
    else complete s h .badCommand

def execClusterReset (h : Hdr) (cluster : Nat) (s : State) : Host.Outcome State Fault Refusal :=
  .next (decideCmd s h 0x04 (clusterResetOp h cluster))

def coreResetOp (h : Hdr) (core : Nat) (s : State) : State :=
  if core < 240 ∧ corePart s core = some h.part then startReset s 2 (some h.part) [core] (some (resetCpl h))
  else complete s h .badCommand

def execCoreReset (h : Hdr) (core : Nat) (s : State) : Host.Outcome State Fault Refusal := .next (decideCmd s h 0x04 (coreResetOp h core))

/-! ### Windows and credits (R160-R163) -/

def windowArgsOk (s : State) (h : Hdr) (core kind index : Nat) : Bool :=
  decide (core < 240) && corePart s core == some h.part && decide (kind ≤ 1) && decide (index < slotLimit (kind == 1))

def windowOpenOp (h : Hdr) (core kind index : Nat) (desc : BitVec 128) (s : State) : State :=
  let t := kind == 1
  let k := getCore s core
  if !windowArgsOk s h core kind index || !descOk t desc then complete s h .badCommand
  else if slotOpen k t index || (openSpans k).any (spansMeet (descSpan t desc)) then complete s h .configConflict
  else complete (setCore s core (openSlot k t index desc (slotGen k t index))) h .ok (slotGen k t index)

def execWindowOpen (h : Hdr) (core kind index : Nat) (desc : BitVec 128) (s : State) : Host.Outcome State Fault Refusal :=
  .next (decideCmd s h 0x30 (windowOpenOp h core kind index desc))

def windowCloseOp (h : Hdr) (core kind index : Nat) (s : State) : State :=
  if !windowArgsOk s h core kind index then complete s h .badCommand
  else
    let k := closeSlot (getCore s core) (kind == 1) index false
    complete (setCore s core k) h .ok (slotGen k (kind == 1) index)

def execWindowClose (h : Hdr) (core kind index : Nat) (s : State) : Host.Outcome State Fault Refusal :=
  .next (decideCmd s h 0x31 (windowCloseOp h core kind index))

def creditGrantOp (h : Hdr) (core index units : Nat) (s : State) : State :=
  if !windowArgsOk s h core 1 index then complete s h .badCommand
  else match grantUnits (getCore s core) index units with
    | none => complete s h .badCommand
    | some (k, n) => complete (setCore s core k) h .ok (n % 65536)

def execCreditGrant (h : Hdr) (core index units : Nat) (s : State) : Host.Outcome State Fault Refusal :=
  .next (decideCmd s h 0x32 (creditGrantOp h core index units))

/-! ### ALLOTMENT_SET (R412) -/

def allotOp (h : Hdr) (scope allot window ceiling : Nat) (s : State) : State :=
  let mgmt := decide ((h.ctx : Nat) < 4)
  let winOk := decide (500 ≤ window) && decide (window ≤ 10000)
  if scope = 0 then
    if !mgmt || !winOk || ceiling ≠ 0 || decide (allot < 2000) || decide (9000 < allot) then complete s h .badCommand
    else
      let s := if s.pow.emergency then setPow s { s.pow with savedAllot := (allot, window) }
        else setPow s { s.pow with dev := { s.pow.dev with allot := some allot, window := window } }
      complete s h .ok allot
  else if scope ≠ 1 then complete s h .badCommand
  else match getPart s h.part with
    | none => complete s h .badCommand
    | some v =>
      if !winOk || decide (allot < 100) || decide (9000 < allot) then complete s h .badCommand
      else if mgmt then
        if ceiling ≠ 0 ∧ (ceiling < 100 ∨ 9000 < ceiling ∨ ceiling < allot) then complete s h .badCommand
        else
          let c := if ceiling = 0 then allot else ceiling
          complete (setPart s h.part { v with pow := { v.pow with allot := some allot, window := window, ceiling := c } }) h .ok (allot + 2 ^ 32 * c)
      else if ceiling ≠ 0 then complete s h .badCommand
      else if v.pow.ceiling < allot then complete s h .refusedAllotment
      else complete (setPart s h.part { v with pow := { v.pow with allot := some allot, window := window } }) h .ok (allot + 2 ^ 32 * v.pow.ceiling)

def execAllotmentSet (h : Hdr) (scope allot window ceiling : Nat) (s : State) : Host.Outcome State Fault Refusal :=
  .next (decideCmd s h 0x50 (allotOp h scope allot window ceiling))

/-! ### Records: TELEMETRY_READ, FALLOW_READ (R354, R439, R461) -/

/-- Sequence number a is b or follows it. -/
def seqFrom (a b : Nat) : Bool := decide ((a + 2 ^ 32 - b % 2 ^ 32) % 2 ^ 32 < 2 ^ 31)

/-- A context may read a record of a partition and sequence number. -/
def mayRead (s : State) (h : Hdr) (part : Option Nat) (seq : Nat) : Bool :=
  decide ((h.ctx : Nat) < 4) || (part == some h.part && seqFrom seq (((getPart s h.part).map (·.telFrom)).getD 0))

/-- Records that fit: bytes, count, next sequence number. -/
def takeRecs (s : State) (h : Hdr) : List TRec → Nat → Nat → List Byte × Nat × Nat
  | [], _, next => ([], 0, next)
  | r :: rs, room, next =>
    if !mayRead s h r.part r.seq then takeRecs s h rs room ((r.seq + 1) % 2 ^ 32)
    else
      let b := recBytes r
      if room < b.length then ([], 0, next)
      else
        let x := takeRecs s h rs (room - b.length) ((r.seq + 1) % 2 ^ 32)
        (b ++ x.1, x.2.1 + 1, x.2.2)

def telemetryReadOp (h : Hdr) (buf : W64) (bytes first : Nat) (s : State) : State :=
  if !compAddr buf then complete s h .badCommand
  else
    let rs := s.head.tel.filter (fun r => seqFrom r.seq first)
    let lost := (s.head.telGone.filter (fun g => seqFrom g.1 first && mayRead s h g.2 g.1)).length
    let x := takeRecs s h rs bytes (first % 2 ^ 32)
    complete (cmdWrite s h buf x.1) h .ok (x.2.1 + 2 ^ 32 * x.2.2) lost

def execTelemetryRead (h : Hdr) (buf : W64) (bytes first : Nat) (s : State) : Host.Outcome State Fault Refusal :=
  .next (decideCmd s h 0x51 (telemetryReadOp h buf bytes first))

/-- Entries of the ledger by index; words not programmed read 0 (R439). -/
def fallowReadOp (h : Hdr) (buf : W64) (first count : Nat) (s : State) : State :=
  if !compAddr buf then complete s h .badCommand
  else
    let es := ((s.head.ledger ++ List.replicate (4096 - s.head.ledger.length) 0).drop first).take count
    complete (cmdWrite s h buf (es.flatMap (fun e => leBytes 4 e.toNat))) h .ok s.head.ledger.length

def execFallowRead (h : Hdr) (buf : W64) (first count : Nat) (s : State) : Host.Outcome State Fault Refusal :=
  .next (decideCmd s h 0x61 (fallowReadOp h buf first count))

/-! ### SURVEY_RUN (R436, R438) -/

def surveyTargets (scope target : Nat) : Option (List Nat) :=
  match scope with
  | 0 => if target < 240 then some [target] else none
  | 1 => if target < 60 then some (clusterCores target) else none
  | 2 => if target < 12 then some (fieldCores target) else none
  | 3 => some (List.range 240)
  | _ => none

def anyFlight (s : State) : Bool := s.head.seqs.any (fun e => e.2.st == .flight)

/-- Stages that stand at a boundary leave the target by relief placement. -/
def vacate (s : State) (cs : List Nat) : State :=
  s.head.pipes.foldl (fun s p => if (inFlight s p.1).isEmpty then s else moveWhere s p.1 3 (fun _ c => cs.contains c) id) s

def busyTarget (s : State) (cs : List Nat) : Bool := cs.any (fun c => (holders s c).any (fun p => !(inFlight s p.1).isEmpty))

/-- Undefined basin and empty caches after a device survey. -/
def deviceSurveyed (s : State) : State :=
  let fields : Tab Field := s.fields.map (fun e => (e.1, { e.2 with lines := [] }))
  let s := { s with fields := fields }
  (List.range 12).foldl (fun s f => undefine s (fieldBase f) (fieldBase f + 0x60000000)) s

def surveyRunOp (h : Hdr) (scope target : Nat) (kinds : Byte) (found : List W32) (replays : List (Nat × W32)) (s : State) : State :=
  match surveyTargets scope target with
  | none => complete s h .badCommand
  | some cs =>
    if kinds.toNat / 16 ≠ 0 then complete s h .badCommand
    else if scope = 3 ∧ anyFlight s then complete s h .configConflict
    else
      let s := if scope = 3 then s else vacate s cs
      if busyTarget s cs then s
      else
        let n := s.head.ledger.length
        let s := if scope = 3 then deviceSurveyed s else s
        let s := (cs.filter (corePresented s)).foldl (fun s c =>
          surveyCore s c kinds (found.filter (fun e => [1, 2].contains (ledgerType e) && getBits e 0 8 == c)) replays 3) s
        let s := appendEntries s (selectedFinds kinds (found.filter (fun e => ! [1, 2].contains (ledgerType e))))
        complete s h .ok (s.head.ledger.length - n)

def execSurveyRun (h : Hdr) (scope target : Nat) (kinds : Byte) (finds : Finds) (s : State) : Host.Outcome State Fault Refusal :=
  .next (decideCmd s h 0x60 (surveyRunOp h scope target kinds finds.found finds.replays))

/-! ### Images and attestation (R451-R456) -/

/-- The 64 bytes of a digest, first byte most significant (R451). -/
def hashBytes (d : BitVec 512) : List Byte := (List.range 64).map (fun i => BitVec.ofNat 8 (d.toNat / 256 ^ (63 - i)))

def fusedHash (s : State) (slot : Nat) : BitVec 512 := tgetD s.fuses.keyHash slot 0

def imgSlot (b : List Byte) : Nat := bytesNat b 6 1
def imgRevoke (b : List Byte) : Nat := bytesNat b 7 1
def imgSvnOf (b : List Byte) : Nat := bytesNat b 8 4
def imgFwver (b : List Byte) : Nat := bytesNat b 20 4

/-- The seven checks of R453. -/
def imageOk (s : State) (b : List Byte) : Bool :=
  decide (512 ≤ b.length) && decide (b.length ≤ 0x1000000) && b.length == 512 + bytesNat b 16 4 &&
  b.take 4 == [0x4E, 0x47, 0x46, 0x57] && bytesNat b 4 2 == 1 && decide (imgSlot b < 4) && decide (imgRevoke b < 16) &&
  decide (imgSvnOf b ≤ 63) && decide (bytesNat b 12 1 < 2) && bytesNat b 13 3 == 0 && bytesNat b 24 40 == 0 && bytesNat b 197 59 == 0 &&
  bytesNat b 388 124 == 0 &&
  !s.fuses.revoked.contains (imgSlot b) &&
  Config.sha512 ((b.drop 64).take 133) == fusedHash s (imgSlot b) &&
  decide (s.fuses.svn ≤ imgSvnOf b) && !(imgRevoke b).testBit (imgSlot b) &&
  Config.ecdsaVerify ((b.drop 64).take 133) ((b.drop 256).take 132) (Config.sha512 (b.take 256 ++ b.drop 512))

/-- Facts of the image that the mask ROM starts (R453). -/
def startImage (s : State) (b : List Byte) : State :=
  setBoot s { s.boot with measure := Config.sha512 b, slot := imgSlot b, imgSvn := imgSvnOf b, fwver := imgFwver b,
                          revoke := imgRevoke b, commit := (bytesNat b 12 1).testBit 0, fuseDue := true }

def revokedMask (s : State) : Nat := (s.fuses.revoked.map (2 ^ ·)).sum

/-- Ledger hash of Table BOOT-5: SHA-512 of entries as little-endian words. -/
def ledgerHash (es : List W32) : BitVec 512 := Config.sha512 (es.flatMap (fun e => leBytes 4 e.toNat))

/-- Bytes 379:0 of the report of Table SEC-3. -/
def attestBody (s : State) (h : Hdr) (nonce : BitVec 256) : List Byte :=
  let v := getPart s h.part
  let progs := s.head.progs.filter (fun e => e.2.part == h.part)
  let num := fun (f : Partition → Nat) => (v.map f).getD 0
  leBytes 2 1 ++ leBytes 2 512 ++ leBytes 8 s.fuses.serial.toNat ++
  [BitVec.ofNat 8 s.boot.slot, BitVec.ofNat 8 (revokedMask s), BitVec.ofNat 8 s.boot.imgSvn, BitVec.ofNat 8 s.fuses.svn] ++
  leBytes 2 s.head.reloads ++ leBytes 2 0 ++ leBytes 8 (hgNow s) ++ hashBytes s.boot.measure ++ leBytes 32 nonce.toNat ++
  [BitVec.ofNat 8 s.fuses.grade, BitVec.ofNat 8 s.boot.status] ++ leBytes 2 s.head.ledger.length ++ hashBytes (ledgerHash s.head.ledger) ++
  [BitVec.ofNat 8 h.part, BitVec.ofNat 8 (num (fun p => b2n p.checks) + 2 * b2n (((getSecure s h.part).map (fun c => c.n != 0)).getD false))] ++
  leBytes 8 (num (fun p => (p.clusters.map (2 ^ ·)).sum)) ++
  [BitVec.ofNat 8 (num (·.senior)), BitVec.ofNat 8 (num (·.standard)), BitVec.ofNat 8 (num (·.junior)), BitVec.ofNat 8 (num (fun p => p.segs.length))] ++
  leBytes 2 (num (·.ctxFirst)) ++ leBytes 2 (num (·.ctxCount)) ++ leBytes 2 progs.length ++
  hashBytes (Config.sha512 (((v.map (·.segs)).getD []).flatMap (fun g => leBytes 16 g.raw.toNat))) ++
  hashBytes (Config.sha512 (progs.flatMap (fun e => hashBytes (Config.sha512 (mreads s.mem e.2.base e.2.bytes))))) ++ List.replicate 40 0

def attestOp (h : Hdr) (buf : W64) (bytes : Nat) (nonce : BitVec 256) (s : State) : State :=
  let n := 512 + s.fuses.cert.length
  if !compAddr buf || decide (bytes < n) then complete s h .badCommand
  else
    let b := attestBody s h nonce
    complete (cmdWrite s h buf (b ++ Config.ecdsaSign (Config.sha512 b) ++ s.fuses.cert)) h .ok n

def execAttest (h : Hdr) (buf : W64) (bytes : Nat) (nonce : BitVec 256) (s : State) : Host.Outcome State Fault Refusal :=
  .next (decideCmd s h 0x70 (attestOp h buf bytes nonce))

/-! ### Firmware reload (R356-R358) -/

/-- Step 1 of Table HGM-12: the image is copied and verified. -/
def reloadOp (h : Hdr) (image : W64) (bytes : Nat) (s : State) : State :=
  if !compAddr image || decide (0x1000000 < bytes) then complete s h .badCommand
  else
    let b := mreads s.mem image.toNat bytes
    if !imageOk s b then complete s h .authFail
    else { s with head := { s.head with reload := 1, reloadImage := b, reloadCmd := some ⟨h.ctx, h.tag, 0, false, 0, 0, 0, 0, h.irq⟩ } }

def execFirmwareReload (h : Hdr) (image : W64) (bytes : Nat) (s : State) : Host.Outcome State Fault Refusal :=
  .next (decideCmd s h 0x71 (reloadOp h image bytes))

/-- No command other than DISPATCH, CANCEL and the reload itself is in progress: decided and not completed. -/
def reloadReady (s : State) : Bool := s.head.opened.all (fun o => !o.decided || [0x20, 0x21, 0x71].contains o.op) && s.head.resets.isEmpty

/-- Steps 6 and 7: queued completions and records follow the reload's own completion, in the order in which they fell due. -/
def reloadDone (s : State) : State :=
  let h := s.head
  let s := { s with head := { h with reload := 0, reloadCmd := none, reloadWait := [], telBuf := [], reloads := h.reloads + 1,
                                     tel := h.tel ++ h.telBuf,
                                     telPush := if getBits (rawReg s .hgTelCfg 0) 0 5 ≠ 0 then h.telPush ++ h.telBuf else h.telPush,
                                     cplDue := h.cplDue ++ (h.reloadCmd.map (fun c => { c with detail := BitVec.ofNat 64 s.boot.fwver })).toList ++ h.reloadWait } }
  setBoot s { s.boot with hgState := 2 }

/-- Steps 3 to 7: the first presentation begins the reload proper, the next ends it. Where step 5 fails the mask ROM waits for an
image as at boot (R357). -/
def reloadProperOp (s : State) : State :=
  if s.head.reload = 1 then
    (if reloadReady s then setBoot { s with head := { s.head with reload := 2 } } { s.boot with hgState := 3 } else s)
  else if s.head.reload ≠ 2 then s
  else if imageOk s s.head.reloadImage then reloadDone (startImage s s.head.reloadImage)
  else
    let b : Boot := { s.boot with hgState := 0, phase := 2, status := St.authFail.code, ready := false, failures := s.boot.failures + 1, b5At := hgNow s }
    setEvent (setBoot s b) .hgBootEvent 0 1

def execReloadProper (s : State) : Host.Outcome State Fault Refusal := .next (reloadProperOp s)

/-! ### CANCEL (R314, R352) -/

def cancelOp (h : Hdr) (target : W32) (s : State) : State :=
  match s.head.seqs.find? (fun e => e.2.ctx == (h.ctx : Nat) && e.2.tag == target) with
  | none => complete s h .ok 1
  | some e =>
    if e.2.st = .flight then complete (setSeq s e.1 { e.2 with cancel := true }) h .ok 0
    else complete (endSeq s e.1 .cancelled e.2.done) h .ok 0

def execCancel (h : Hdr) (target : W32) (s : State) : Host.Outcome State Fault Refusal := .next (decideCmd s h 0x21 (cancelOp h target))

end Sys2Proof.Machine
end

