-- ==== Sys2Proof/Machine/ImageCheck.lean ====
section
/-!
DEFINITION. What PROGRAM_LOAD verifies of a placement image (12_programs_partitions, R297-R299, R484): the byte layout of
Table PRG-8 and the rules that Table PRG-1 names for each section.
-/
namespace Sys2Proof.Machine

/-- The 32-byte tensor descriptor of Table PRG-7. -/
def tensorOfBytes (b : List Byte) : TensorDesc :=
  { index := bytesNat b 0 2, fmt := b.getD 2 0, flags := b.getD 3 0, k := bytesNat b 4 4, n := bytesNat b 8 4, ktile := bytesNat b 12 2,
    width := bytesNat b 14 1, left := bytesNat b 15 1, sfOffset := bytesNat b 16 8, entry := bytesNat b 24 4, rsvd := w32 (bytesNat b 28 4) }

/-- Records of n bytes of the section of a kind, 1-9: its count and content by Table PRG-8. -/
def sectionRecs (b : List Byte) (kind n : Nat) : List (List Byte) :=
  let o := 64 + 16 * (kind - 1)
  (List.range (bytesNat b (o + 4) 4)).map (fun i => ((b.drop (bytesNat b (o + 8) 4)).take (bytesNat b (o + 12) 4)).drop (n * i) |>.take n)

/-- The sections whose records this manual lays out hold the image's records: stages and windows by their number, pool ranges (Table BASIN-4)
and tensor descriptors (Table PRG-7) byte for byte (R484). -/
def recordsOk (b : List Byte) (img : Image) : Bool :=
  bytesNat b (64 + 16 * 1 + 4) 4 == img.stages.length && bytesNat b (64 + 16 * 4 + 4) 4 == img.windows.length &&
  bytesNat b (64 + 16 * 6 + 12) 4 == 16 * img.poolRanges.length && bytesNat b (64 + 16 * 7 + 12) 4 == 32 * img.tensors.length &&
  (sectionRecs b 7 16).map (fun r => BitVec.ofNat 128 (leNat r)) == img.poolRanges &&
  (sectionRecs b 8 32).map tensorOfBytes == img.tensors

/-- Header and directory of Table PRG-8 agree with their layout and with the records. -/
def layoutOk (b : List Byte) (img : Image) : Bool :=
  b.take 4 == [0x4E, 0x47, 0x50, 0x49] && bytesNat b 4 2 == 1 && img.version == 1 && bytesNat b 6 2 == img.lanes &&
  bytesNat b 8 2 == img.stages.length && decide (1 ≤ img.stages.length) && decide (img.stages.length ≤ 240) &&
  bytesNat b 10 1 == img.depths.length && decide (1 ≤ img.depths.length) && decide (img.depths.length ≤ 60) &&
  bytesNat b 11 1 == b2n img.checks + 2 * b2n img.trained && bytesNat b 12 2 == 9 && bytesNat b 14 2 == 0 &&
  bytesNat b 16 8 == b.length && bytesNat b 24 40 == 0 && recordsOk b img &&
  (List.range 9).all (fun i =>
    let o := 64 + 16 * i
    bytesNat b o 4 == i + 1 && bytesNat b (o + 8) 4 % 64 == 0 && decide (bytesNat b (o + 8) 4 + bytesNat b (o + 12) 4 ≤ b.length))

/-- Counter value of an event, and the events of a schedule in its order; those of one cycle keep the order of their records. -/
def evCyc : SchedEv → Nat
  | .load _ c _ _ _ _ _ | .swap _ _ c | .stepUnit _ c _ _ | .bankOpen _ _ c | .drainEnd _ _ c | .drain c _ _ | .vec _ c _ _ _
  | .access c _ _ _ | .transposed c _ _ _ | .maskSlot c _ _ | .dma c _ | .engine c _ _ | .rewrite c _ | .refresh c _ | .weights c _
  | .send c _ _ _ _ | .wait c _ _ _ _ | .boundary c => c
  | .static _ _ _ => 0

def evInsert (e : SchedEv) : List SchedEv → List SchedEv
  | [] => [e]
  | x :: xs => if evCyc e ≤ evCyc x then e :: x :: xs else x :: evInsert e xs

def evSort (es : List SchedEv) : List SchedEv := es.foldr evInsert []

/-! ### Array schedules (R62-R68, R83-R88, R101, R102) -/

/-- Presented widths that a stage is compiled for: of the whole array and of its left half. -/
structure Widths where
  all : Nat
  left : Nat

def Widths.of (w : Widths) : Half → Nat
  | .whole => w.all | .left => w.left | .right => w.all - w.left

/-- The half columns that an array or half uses. -/
def halfCols : Half → List Nat
  | .whole => [0, 1] | .left => [0] | .right => [1]

/-- A load of the shadow registers of some columns: its half, its issue cycle, the earliest swap after it, and the twins that have
swapped, with the latest swap's cycle. -/
structure LoadSt where
  half : Half
  cyc : Nat
  first : Nat
  swapped : List Nat
  last : Nat
deriving DecidableEq, Repr

/-- Loads and swaps in order, by half column: a load follows a swap of the load before it and is followed by at most one swap of each twin,
each late enough (R64, R101, R102). -/
def loadsOk (checks : Bool) : List SchedEv → (Nat → Option LoadSt) → Bool
  | [], _ => true
  | .load h c t f k w _ :: es, st =>
    let n := (fmtOfCode f).elim 0 (fun f => loadCycles h f k w checks)
    let l : LoadSt := ⟨h, c, c + n + (if t then 9 else 1), [], 0⟩
    (halfCols h).all (fun p => match st p with
      | none => true
      | some x => !x.swapped.isEmpty && decide (x.last < c)) &&
    loadsOk checks es (fun p => if (halfCols h).contains p then some l else st p)
  | .swap t h c :: es, st =>
    (halfCols h).all (fun p => match st p with
      | none => false
      | some x => x.half == h && decide (x.first ≤ c) && !x.swapped.contains t) &&
    loadsOk checks es (fun p => if (halfCols h).contains p then (st p).map (fun x => { x with swapped := t :: x.swapped, last := c }) else st p)
  | _ :: es, st => loadsOk checks es st

/-- A bank opens again on a half column only after its drain has ended there (R68). -/
def banksOk : List SchedEv → (Nat → Option Nat) → Bool
  | [], _ => true
  | .bankOpen b h c :: es, st =>
    (halfCols h).all (fun p => (st (2 * b + p)).any (fun x => decide (x ≤ c))) &&
    banksOk es (fun q => if (halfCols h).any (fun p => q == 2 * b + p) then none else st q)
  | .drainEnd b h c :: es, st => banksOk es (fun q => if (halfCols h).any (fun p => q == 2 * b + p) then some (c + 1) else st q)
  | _ :: es, st => banksOk es st

/-- Formats that a transposing load and a transposed read take (R67, R138). -/
def transFmt (code : Nat) : Bool := (fmtOfCode code).any transposable

/-- A load's tile is whole (R83, R94), and a transposing one is square (R67); a step unit's operands have a product (R43). -/
def evArrayOk (w : Widths) : SchedEv → Bool
  | .load h _ t f k n _ => (match fmtOfCode f with
      | none => false
      | some f => fmtArrayOk f && n == w.of h && (k == 128 || (k == 256 && fmtWidth f == 4)) &&
        (!t || (transposable f && k == 128 && n == 128 && h == .whole)))
  | .stepUnit _ _ a b => (match fmtOfCode a, fmtOfCode b with
      | some a, some b => (pairMode a b).isSome
      | _, _ => false)
  | _ => true

def unitCycles (es : List SchedEv) (h : Half) : List (Nat × Nat × Nat) :=
  es.filterMap (fun e => match e with
    | .stepUnit x c a b => if x = h then some (c, a, b) else none
    | _ => none)

/-- A right stream's units keep 33 slots from the unsplit units before them (R88); between unsplit units both halves have the same operand
formats (R84). -/
def splitOk (es : List SchedEv) : Bool :=
  let whole := (unitCycles es .whole).map Prod.fst
  let left := unitCycles es .left
  (unitCycles es .right).all (fun r => whole.all (fun u => decide (r.1 < u) || decide (u + 33 ≤ r.1)) &&
    left.all (fun l => l.2 == r.2 || whole.any (fun u => decide (min l.1 r.1 ≤ u) && decide (u ≤ max l.1 r.1))))

def arraysOk (checks : Bool) (w : Widths) (es : List SchedEv) : Bool :=
  es.all (evArrayOk w) && loadsOk checks es (fun _ => none) && banksOk es (fun _ => some 0) && splitOk es

/-! ### Conversions, vector instructions and mask slots (R33, R46, R52, R118-R120, R208) -/

/-- A control byte that R46 and R33 accept, for a run of elements that is a whole number of blocks (R52). -/
def ctlRunOk (ctl : Byte) (n : Nat) : Bool := (ctlOf ctl).any (fun c => fmtBlock c.fmt == 0 || n % fmtBlock c.fmt == 0)

/-- Control bytes and source formats of a schedule's conversions; a drained row may end in a short block (log entry 75). -/
def evCtlOk : SchedEv → Bool
  | .drain _ ctl _ => (ctlOf ctl).isSome
  | .vec (.convert ctl) _ _ _ _ => (ctlOf ctl).isSome
  | .vec (.cvtStore ctl n) _ _ _ _ => ctlRunOk ctl n
  | .vec (.cvtLoad f) _ _ _ _ => (fmtOfCode f).isSome
  | _ => true

/-- Issue slot of an instruction (R119). -/
def vecSlot : VKind → Nat
  | .load | .cvtLoad _ => 1
  | .store | .cvtStore _ _ => 2
  | .reduce => 3
  | _ => 0

/-- Latency of an instruction (Tables VEC-1 and VEC-2, R124). -/
def vecLatency : VKind → Nat
  | .farith | .intMul | .store => 4
  | .minMax | .compare | .int | .convert _ => 2
  | .fn f => (match f with
      | .exp2 | .log2 | .recip | .rsqrt | .sqrt => 12
      | _ => 16)
  | .permute => 3
  | .load | .cvtStore _ _ => 6
  | .cvtLoad _ | .reduce => 8

/-- Writes of a register, mask or accumulator: issue cycle, and cycle from which the result is readable. -/
def vecWrites (es : List SchedEv) (r : Nat) : List (Nat × Nat) :=
  es.filterMap (fun e => match e with
    | .vec k c _ ws _ => if ws.contains r then some (c, c + vecLatency k) else none
    | _ => none)

/-- An operand has a readable value (R118, R120): k0 always; an accumulator that a fold continues needs one on its way (R124); anything
else a result that has landed. -/
def vecReadOk (es : List SchedEv) (c : Nat) (fold : Bool) (ws : List Nat) (r : Nat) : Bool :=
  r == 32 || (vecWrites es r).any (fun w => if fold && ws.contains r then decide (w.1 < c) else decide (w.2 ≤ c))

def vecOk (es : List SchedEv) : Bool :=
  es.all (fun e => match e with
    | .vec _ c rs ws fold => (rs ++ (if fold then ws else [])).all (vecReadOk es c fold ws)
    | _ => true) &&
  (List.range 44).all (fun r => r == 32 || (let ls := (vecWrites es r).map Prod.snd; ls.eraseDups.length == ls.length)) &&
  (let slots := es.filterMap (fun e => match e with
    | .vec k c _ _ _ => some (vecSlot k, c)
    | _ => none)
   slots.eraseDups.length == slots.length)

def masksOk (es : List SchedEv) : Bool :=
  es.all (fun e => match e with
    | .maskSlot c q false => es.any (fun x => match x with
        | .maskSlot c' q' true => q' == q && decide (c' < c)
        | _ => false)
    | .maskSlot _ q _ => decide (q < 128)
    | _ => true)

/-! ### Scratchpad accesses (R122, R137-R141, R145, R185, R196, R201, R236) -/

/-- Granule offsets that an event touches, cycle by cycle from its own: a load of a tile in the core's scratchpad takes the read port for
64 granules a cycle (R201). -/
def evOffs : SchedEv → List (Nat × List Nat)
  | .access c off len _ => [(c, granOffs off len)]
  | .transposed c off p _ => [(c, (List.range 64).map (fun i => off / 64 * 64 + i * p))]
  | .load _ c _ f k w (some off) =>
    let gs := chunks 64 (granOffs off ((fmtOfCode f).elim 0 (fun f => elemBytes f (k * w))))
    (List.range gs.length).zip gs |>.map (fun g => (c + g.1, g.2))
  | _ => []

/-- Two accesses of a cycle, or an access and a scratchpad pass, never meet in a bank; a pass and a furrow request never overlap (R196). -/
def banksApart (td : List Range) (es : List SchedEv) : Bool :=
  let acc := es.flatMap evOffs
  let passes := es.filterMap (fun e => match e with
    | .engine a b f => some (a, b, f)
    | _ => none)
  (acc.zip (List.range acc.length)).all (fun x =>
    let bs := x.1.2.map (spadBank td)
    bs.eraseDups.length == bs.length &&
    (acc.drop (x.2 + 1)).all (fun y => y.1 ≠ x.1.1 || !(y.2.map (spadBank td)).any bs.contains) &&
    passes.all (fun q => q.2.2 || decide (x.1.1 < q.1) || decide (q.2.1 < x.1.1) || bs.all (fun k => k % 8 ≠ (x.1.1 - q.1) % 8))) &&
  passes.all (fun p => p.2.2 || passes.all (fun q => !q.2.2 || decide (p.2.1 < q.1) || decide (q.2.1 < p.1)))

/-- At most 8 2-D ranges, each of whole slabs (R137). -/
def twoDOk (td : List Range) : Bool :=
  decide (td.length ≤ 8) && td.all (fun r => r.off % 0x4000 == 0 && r.len % 0x4000 == 0)

def powTwo (n : Nat) : Bool := [512, 1024, 2048, 4096, 8192, 16384].contains n

/-- Table BASIN-1. -/
def transposedOk (td : List Range) (off p f : Nat) : Bool :=
  let two := td.any (fun r => decide (r.off ≤ off) && decide (off + 63 * p + 64 ≤ r.off + r.len))
  transFmt f && off % 64 == 0 && decide (off + 63 * p + 64 ≤ spadBytes) &&
  (([64, 128, 256].contains p && decide (off % (64 * p) < p)) || (two && powTwo p && decide (off % (64 * p) < p)) ||
   (two && p % 0x4000 == 0 && decide (1 ≤ p / 0x4000) && decide (p / 0x4000 ≤ 255) && p / 0x4000 % 8 ≠ 0))

/-- Spans of a core's windows and ranges that an image opens. -/
def windowSpans (ws : List WindowRec) (c : Nat) : List (Nat × Nat) :=
  (ws.filter (fun w => w.core == c)).map (fun w => let d := descSpan w.turnout w.desc; (d.1 * 64, (d.1 + d.2) * 64))

/-- Rows of a transfer in a core's own scratchpad, and the other places that its descriptor fixes: those that it reads, those that it
writes. An address that a DISPATCH supplies is not fixed. -/
def dmaFixed (s : State) (c : Nat) (d : DmaDesc) : List (Nat × Nat) × List (Nat × Nat) :=
  let rd := if d.flags.getLsbD 0 || (dmaFields d).op = 3 then [] else (List.range d.rows).map (fun r => (dmaSrc s c d r, dmaSrcBytes d))
  let sf := if dmaSrcBlocks d = 0 then [] else [(d.srcSf.toNat, d.rows * dmaSrcBlocks d)]
  let wr := if d.flags.getLsbD 1 || (dmaFields d).kind ≠ 0 then [] else
    (List.range d.rows).map (fun r => (dmaDst s c d + r * d.dstPitch, dmaRowBytes d)) ++
    (if dmaRowBlocks d = 0 then [] else [(d.dstSf.toNat, dmaRowBlocks d * d.rows)])
  (rd ++ sf, wr)

/-- The parts of some places that lie in a core's scratchpad, as spans of offsets. -/
def ownSpans (c : Nat) (xs : List (Nat × Nat)) : List (Nat × Nat) :=
  xs.filterMap (fun x => match placeOf x.1 with
    | .spad y o => if y = c then some (o, o + x.2) else none
    | _ => none)

/-- Spans of the core's scratchpad written before a cycle. -/
def writtenBefore (s : State) (c : Nat) (es : List SchedEv) (cyc : Nat) : List (Nat × Nat) :=
  es.flatMap (fun e => match e with
    | .access k off len true => if k < cyc then [(off, off + len)] else []
    | .dma k d => if k < cyc then ownSpans c (dmaFixed s c d).2 else []
    | _ => [])

/-- Every byte that a read needs is written before it, persistent, or in a window (R145). -/
def readsOk (s : State) (c : Nat) (persistent : List Range) (ws : List WindowRec) (es : List SchedEv) : Bool :=
  let base := persistent.map (fun r => (r.off, r.off + r.len)) ++ windowSpans ws c
  let need := fun (cyc off last : Nat) => ((base ++ writtenBefore s c es cyc).foldl spanMinus [(off, last)]).isEmpty
  es.all (fun e => match e with
    | .access cyc off len false => need cyc off (off + len)
    | .transposed cyc off p _ => (List.range 64).all (fun i => need cyc (off + i * p) (off + i * p + 64))
    | .load _ cyc _ f k w (some off) => need cyc off (off + (fmtOfCode f).elim 0 (fun f => elemBytes f (k * w)))
    | .dma cyc d => (ownSpans c (dmaFixed s c d).1).all (fun x => need cyc x.1 x.2)
    | _ => true)

def spadOk (reserve : Bool) (es : List SchedEv) : Bool :=
  let top := if reserve then reserveFrom else spadBytes
  es.all (fun e => match e with
    | .access _ off len _ => off % 64 == 0 && decide (off + len ≤ top)
    | .transposed _ off p _ => decide (off + 63 * p + 64 ≤ top)
    | _ => true)

/-! ### Other rules of a schedule -/

/-- Weights that the device rewrites are refreshed between the write and the read (R227). -/
def refreshOk (es : List SchedEv) : Bool :=
  es.all (fun e => match e with
    | .weights c t => es.all (fun x => match x with
        | .rewrite k u => u ≠ t || decide (c ≤ k) || es.any (fun y => match y with
            | .refresh j v => v == t && decide (k ≤ j) && decide (j ≤ c)
            | _ => false)
        | _ => true)
    | _ => true)

/-- Static addresses have their rights, and DMA descriptors are well formed, with rights to every place that they fix (R166, R308). -/
def staticOk (s : State) (p c : Nat) (es : List SchedEv) : Bool :=
  es.all (fun e => match e with
    | .static a n r => partAllows s p r a n
    | .dma _ d => dmaOk d && (dmaFixed s c d).1.all (fun x => partAllows s p .rd x.1 x.2) &&
      (dmaFixed s c d).2.all (fun x => partAllows s p .wr x.1 x.2)
    | _ => true)

/-- What a schedule is verified against: the partition, whether it has the check reserve and checks, the core and its presented widths. -/
structure SchedFor where
  part : Nat
  reserve : Bool
  checks : Bool
  core : Nat
  widths : Widths

def schedOk (s : State) (x : SchedFor) (st : StageRec) (ws : List WindowRec) (es : List SchedEv) : Bool :=
  let es := evSort es
  arraysOk x.checks x.widths es && es.all evCtlOk && vecOk es && masksOk es && spadOk x.reserve es && banksApart st.twoD es && refreshOk es &&
  staticOk s x.part x.core es && readsOk s x.core st.persistent ws es && es.all (fun e => match e with
    | .transposed _ off q f => transposedOk st.twoD off q f
    | _ => true)

/-- A commit range lies in the stage's scratchpad or in a pool range that the partition holds pinned (R292). -/
def commitOk (s : State) (p c : Nat) (r : Range) : Bool :=
  r.off % 64 == 0 && r.len % 64 == 0 && (match placeOf r.off with
    | .spad x o => x == c && decide (o + r.len ≤ spadBytes)
    | .pool _ _ => partAllows s p .rd r.off r.len
    | _ => false)

/-- The operand formats of a product: codes of Table FMT-1 that R43 pairs (R33). -/
def productOk (x : ProductRec) : Bool :=
  match fmtOfCode x.wfmt, fmtOfCode x.xfmt with
  | some f, some g => (pairMode f g).isSome
  | _, _ => false

/-- Schedules of a stage: its own, and its variants for the formats of its governed layer (R220). -/
def stageScheds (st : StageRec) : List (List SchedEv) := st.sched :: st.variants.map Prod.snd

/-- One stage record with its schedules and its relief placements (R83, R110, R112, R137, R145, R220, R259, R292, R299-R301). -/
def stageOk (s : State) (p : Nat) (reserve checks : Bool) (img : Image) (st : StageRec) : Bool :=
  decide (st.core < 240) && decide (st.pipe < img.depths.length) && decide (st.bytes ≤ 0x40000) &&
  decide (4096 ≤ st.waitLimit) && decide (st.waitLimit ≤ 2 ^ 28) && decide (st.commit.length ≤ 8) &&
  decide (st.persistent.length ≤ 16) && decide (st.reliefs.length ≤ 8) && decide (st.tokens ≤ 256) &&
  st.rings.all (fun n => decide (2 ≤ n) && decide (n ≤ 8)) && st.products.all productOk &&
  st.commit.all (commitOk s p st.core) && twoDOk st.twoD &&
  (st.persistent ++ st.twoD).all (fun r => r.off % 64 == 0 && decide (r.off + r.len ≤ spadBytes)) &&
  (match st.layer with
    | some l => decide (l < img.governed)
    | none => st.variants.isEmpty) &&
  [st.layer, st.layerIn].all (fun l => l.all (fun l => decide (l < img.governed))) &&
  st.scaleOff.all (fun o => o % 64 == 0 && decide (o + 512 ≤ if reserve then reserveFrom else spadBytes)) &&
  st.gscaleOff.all (fun o => o % 4 == 0 && decide (o + 4 ≤ if reserve then reserveFrom else spadBytes)) &&
  st.variants.all (fun v => decide (1 ≤ v.1) && decide (v.1 ≤ 3)) &&
  (stageScheds st).all (schedOk s ⟨p, reserve, checks, st.core, ⟨st.width, st.left⟩⟩ st img.windows) &&
  st.reliefs.all (fun r => decide (r.core < 240) && schedOk s ⟨p, reserve, checks, r.core, ⟨r.width, r.left⟩⟩ st r.windows r.sched &&
    r.windows.all (fun w => w.core ≠ r.core || (descOk w.turnout w.desc && decide (w.index < slotLimit w.turnout))))

/-! ### Tokens of a pipeline (R109, R110) -/

/-- Tokens of a schedule in order: sent (true) or awaited, and which. -/
def tokenEvs (es : List SchedEv) : List (Bool × Bool × Nat × Nat × Nat) :=
  (evSort es).filterMap (fun e => match e with
    | .send _ f c i b => some (true, f, c, i, b)
    | .wait _ f c i b => some (false, f, c, i, b)
    | _ => none)

/-- One stage after another goes on while its next token is there; true where every stage reaches its end. -/
def tokensRun : Nat → List (List (Bool × Bool × Nat × Nat × Nat)) → List (Bool × Nat × Nat × Nat) → Bool
  | 0, qs, _ => qs.all List.isEmpty
  | n + 1, qs, there =>
    match qs.findIdx? (fun q => match q with
        | [] => false
        | e :: _ => e.1 || there.contains e.2) with
    | none => qs.all List.isEmpty
    | some i =>
      match (qs.getD i []) with
      | [] => false
      | e :: rest => tokensRun n (qs.set i rest) (if e.1 then e.2 :: there else eraseFirst e.2 there)

/-- The tokens of a pipeline's stages form no cycle that its rings' initial credits leave unbroken (R110). A token that no stage of the
pipeline sends, and that is no initial credit, comes from outside it. -/
def tokensOk (scheds : List (List SchedEv)) : Bool :=
  let qs := scheds.map tokenEvs
  let all := qs.flatten
  let sent := (all.filter (·.1)).map Prod.snd
  let free := ((all.filter (fun e => !e.1 && e.2.1)).map Prod.snd).eraseDups
  let inner := qs.map (fun q => q.filter (fun e => e.1 || sent.contains e.2 || free.contains e.2))
  tokensRun all.length inner (free ++ (all.filter (fun e => !e.1 && e.2.1 && !sent.contains e.2)).map Prod.snd)

/-- Positions of a pipeline's stages run from 0, on distinct cores, and no token cycle stops them. -/
def pipesOk (img : Image) : Bool :=
  (List.range img.depths.length).all (fun i =>
    let all := img.stages.filter (fun x => x.pipe == i)
    !all.isEmpty && (pipeStages img i).length == all.length && (all.map (·.core)).eraseDups.length == all.length) &&
  img.depths.all (fun d => decide (1 ≤ d) && decide (d ≤ 32)) &&
  (List.range img.depths.length).all (fun i => tokensOk ((pipeStages img i).map (·.2.sched)))

/-- Bytes of a side-table entry (R225). -/
def entryBytes (f : Fmt) (ktile width : Nat) (split : Bool) : Nat :=
  (if split then 8 else 16) * ktile + (if fmtBlock f = 0 then 0 else ktile / fmtBlock f * width)

/-- The tensor descriptor of Table PRG-7 (R298). -/
def tensorOk (d : TensorDesc) : Bool :=
  match fmtOfCode (d.fmt.toNat % 16) with
  | none => false
  | some f =>
    let split := d.flags.getLsbD 2
    decide (d.fmt.toNat < 16) && decide (d.flags.toNat < 8) && d.rsvd == 0 && (d.ktile == 128 || (d.ktile == 256 && fmtWidth f == 4)) && decide (0 < d.k) && d.k % d.ktile == 0 &&
    (if split then decide (56 ≤ d.width) && decide (d.width ≤ 64) && d.left == d.width
     else decide (120 ≤ d.width) && decide (d.width ≤ 128) && decide (d.left ≤ 64) && decide (d.width - d.left ≤ 64)) &&
    d.width % 2 == 0 && d.left % 2 == 0 && d.n % d.width == 0 &&
    (if fmtBlock f = 0 then d.sfOffset == 0 else d.sfOffset % 64 == 0) && d.entry == entryBytes f d.ktile d.width split &&
    (!d.flags.getLsbD 0 || (transFmt (d.fmt.toNat % 16) && d.width == 128 && !split))

/-- Windows of an image: descriptors well formed and none overlapping another of its core (R160). -/
def windowsOk (img : Image) : Bool :=
  img.windows.all (fun w => descOk w.turnout w.desc && decide (w.index < slotLimit w.turnout) && decide (w.core < 240))

def windowsClash (img : Image) : Bool :=
  (img.windows.zip (List.range img.windows.length)).any (fun x =>
    (img.windows.drop (x.2 + 1)).any (fun y => y.core == x.1.core &&
      ((y.turnout == x.1.turnout && y.index == x.1.index) || spansMeet (descSpan x.1.turnout x.1.desc) (descSpan y.turnout y.desc))))

/-! ### Pool ranges (R147, R148, R152) -/

structure PoolDesc where
  field : Nat
  range : PoolRange
  rsvd : Bool
deriving DecidableEq, Repr

def poolDesc (d : BitVec 128) : PoolDesc :=
  ⟨fld d 32 4, ⟨fld d 0 12, fld d 12 12, fld d 24 2, fld d 26 6, fld d 40 32, fld d 72 32, none⟩, fld d 36 4 ≠ 0 || fld d 104 24 ≠ 0⟩

def poolDescBad (p : Nat) (x : PoolDesc) : Bool :=
  x.rsvd || x.range.mode == 3 || decide (11 < x.field) || x.range.part ≠ p || x.range.stripes == 0 ||
  decide (3072 < x.range.first + x.range.stripes) || (x.range.mode == 1 && (x.range.hbmFirst ≠ 0 || x.range.hbmLast ≠ 0)) ||
  (x.range.mode == 2 && decide (x.range.hbmLast < x.range.hbmFirst))

/-- A range that the partition holds already, which the descriptor changes. -/
def sameRange (s : State) (x : PoolDesc) : Option (Nat × PoolRange) :=
  (getField s x.field).ranges.find? (fun r => r.2.first == x.range.first && r.2.stripes == x.range.stripes && r.2.part == x.range.part)

def poolMeets (a b : PoolRange) : Bool := decide (a.first < b.first + b.stripes) && decide (b.first < a.first + a.stripes)

/-- Descriptors that ask for a range or name one that the field has; one of mode unused that names none asks for nothing. -/
def poolAsks (s : State) (xs : List PoolDesc) : List PoolDesc := xs.filter (fun x => x.range.mode ≠ 0 || (sameRange s x).isSome)

def poolClash (s : State) (xs : List PoolDesc) : Bool :=
  let xs := poolAsks s xs
  xs.any (fun x => (sameRange s x).isNone && (getField s x.field).ranges.any (fun r => poolMeets r.2 x.range)) ||
  (xs.zip (List.range xs.length)).any (fun x => (xs.drop (x.2 + 1)).any (fun y => y.field == x.1.field && poolMeets y.range x.1.range)) ||
  xs.any (fun x => (s.head.parts.filter (fun e => e.1 ≠ x.range.part)).any (fun e => e.2.segs.any (fun g =>
    meets g.span (poolBase x.field + x.range.first * stripeBytes, poolBase x.field + (x.range.first + x.range.stripes) * stripeBytes)))) ||
  xs.any (fun x => x.range.mode == 2 &&
    (let w := sharedWin s; meets (x.range.hbmFirst * 4096, (x.range.hbmLast + 1) * 4096) (w.1, w.1 + w.2)))

def poolFull (s : State) (xs : List PoolDesc) : Bool :=
  let xs := poolAsks s xs
  xs.any (fun x => (x.range.mode ≠ 0 && poolWithheld s x.field) ||
    decide (16 < (getField s x.field).ranges.length + (xs.filter (fun y => y.field == x.field && (sameRange s y).isNone)).length))

/-- Declare or change one range. -/
def putPool (s : State) (x : PoolDesc) : State :=
  let f := getField s x.field
  match sameRange s x with
  | some (i, r) =>
    if r.mode = x.range.mode ∧ r.hbmFirst = x.range.hbmFirst ∧ r.hbmLast = x.range.hbmLast then s
    else rangeChange (setField s x.field { f with ranges := tput f.ranges i { r with change := some (x.range.mode, x.range.hbmFirst, x.range.hbmLast) } }) x.field i
  | none =>
    match (if x.range.mode = 0 then none else tfree f.ranges 16) with
    | none => s
    | some i =>
      let s := setField s x.field { f with ranges := tput f.ranges i x.range }
      if x.range.mode = 1 then
        undefine s (poolBase x.field + x.range.first * stripeBytes) (poolBase x.field + (x.range.first + x.range.stripes) * stripeBytes)
      else s

end Sys2Proof.Machine
end

