-- ==== Sys2Proof/Machine/ProgramCmds.lean ====
section
/-!
DEFINITION. Mailbox commands, second part: programs, models, pinned weights, dispatch (12_programs_partitions, R297-R319;
07, R171-R174), securing and relief (14, R359-R373) and checkpoint export (R379).
-/
namespace Sys2Proof.Machine

/-- The headgate complex reads n bytes for a partition's command: companion memory, or a segment with rd. -/
def cmdReadable (s : State) (p : Nat) (a : W64) (n : Nat) : Bool :=
  a.toNat / 2 ^ 44 == 3 || partAllows s p .rd a.toNat n

/-! ### PROGRAM_LOAD (R299, R318) -/

/-- Stage cores of some pipelines of an image. -/
def pipesCores (img : Image) (n : Nat) : Nat := (img.stages.filter (fun x => decide (x.pipe < n))).length

/-- A named core conflicts: outside the partition, of another width, or fallow with no fitting relief (R299). -/
def coreClash (s : State) (p : Nat) (st : StageRec) : Bool :=
  corePart s st.core ≠ some p || st.reliefs.any (fun r => corePart s r.core ≠ some p) ||
  (if coreFallow s st.core || coreSuspect s st.core then (st.reliefs.find? (targetFree s)).isNone
   else let w := coreWidths s st.core; w.1 ≠ st.width || w.2.1 ≠ st.left)

/-- A persistent range overlaps one of another resident program on the same core. -/
def persistClash (s : State) (img : Image) : Bool :=
  img.stages.any (fun st => s.head.progs.any (fun g => g.2.img.stages.any (fun t => t.core == st.core &&
    anyMeet (st.persistent.map (fun r => (r.off, r.off + r.len))) (t.persistent.map (fun r => (r.off, r.off + r.len))))))

/-- A compiled window overlaps one that WINDOW_OPEN has left open on its core (R160): one that stands without the loaded pipelines there. -/
def windowsMeetOpen (s : State) (img : Image) : Bool :=
  img.windows.any (fun w =>
    let s' := (holders s w.core).foldl (fun s p => unloadPipe s p.1) s
    (openSpans (getCore s' w.core)).any (spansMeet (descSpan w.turnout w.desc)))

/-- A 2-D range of an image would take in a pinned matrix (R151). -/
def twoDMeetsPin (s : State) (img : Image) : Bool :=
  img.stages.any (fun st => s.head.pins.any (fun e => e.2.core == some st.core && st.twoD.any (fun r =>
    meets (spadBase st.core + r.off, spadBase st.core + r.off + r.len) (e.2.base, e.2.base + e.2.bytes))))

/-- Static writes of an image's senior-reserved pipelines into secured tensors (R366). -/
def securedStatic (s : State) (p : Nat) (img : Image) (reserved : Nat) (ts : List (Nat × Nat)) : Bool :=
  img.stages.any (fun st => decide (st.pipe < reserved) && st.sched.any (fun e => match e with
    | .static a n .wr | .static a n .add => ts.any (meets (a, a + n))
    | _ => false)) && (getPart s p).isSome

def tensorSpans (ts : List STensor) : List (Nat × Nat) := ts.map (fun t => (t.base, t.base + t.bytes))

/-- The senior reservation of R318 would be exceeded. -/
def overReserved (s : State) (p : Nat) (v : Partition) (img : Image) (reserved : Nat) : Bool :=
  let held := ((s.head.progs.filter (fun g => g.2.part == p)).map (fun g => pipesCores g.2.img g.2.reserved)).sum
  let cores := ((partCores s p).filter (corePresented s)).length
  decide (v.senior * cores / 100 < held + pipesCores img reserved)

/-- First place in a partition's image range that holds an image. -/
def imagePlace (s : State) (v : Partition) (n : Nat) : Option Nat :=
  let used := (s.head.progs.filter (fun g => v.imgBase ≤ g.2.base && g.2.base < v.imgBase + v.imgBytes)).map (fun g => (g.2.base, g.2.base + (g.2.bytes + 63) / 64 * 64))
  ((v.imgBase :: used.map Prod.snd).filter (fun a => decide (a + n ≤ v.imgBase + v.imgBytes) &&
    !used.any (meets (a, a + n)))).foldl (fun (b : Option Nat) a => match b with
      | none => some a
      | some x => some (min x a)) none

/-- Cores that the reserved pipelines need hold a stage of another reserved pipeline, or of one with a sequence in a slot. -/
def reservedNeeds (s : State) (img : Image) (reserved : Nat) (test : Pipe → Bool) : Bool :=
  (img.stages.filter (fun x => decide (x.pipe < reserved))).any (fun st =>
    match stageCore s st with
    | none => false
    | some c => (holders s c).any (fun p => test p.2))

/-- Load the reserved pipelines, with room made among the 60 loaded ones (R303, R318). -/
def loadReserved (s : State) (prog part : Nat) (img : Image) (reserved : Nat) : State :=
  (List.range (min reserved img.depths.length)).foldl (fun s i => match pipeCores s img i with
    | none => s
    | some cs => loadPipe ((roomForPipe s).getD s) (pipeKey prog i) part img cs true) s

/-- The reserved pipelines and the loaded ones that no load displaces would pass 60 (R303, R311). -/
def pipesFull (s : State) (reserved : Nat) : Bool :=
  decide (60 < reserved + (s.head.pipes.filter (fun p => p.2.reserved || !p.2.slots.isEmpty)).length)

def loadRefusal (s : State) (p : Nat) (v : Partition) (image : W64) (bytes reserved : Nat) (img : Image) : Option St :=
  let b := mreads s.mem image.toNat bytes
  let pools := img.poolRanges.map poolDesc
  if !argAddr image then some .badCommand
  else if !cmdReadable s p image bytes then some .windowViolation
  else if !layoutOk b img || img.lanes ≠ 512 || decide (img.depths.length < reserved) || !pipesOk img ||
      !img.stages.all (stageOk (pools.foldl putPool s) p (v.checks || v.sample ≠ 0xFF) v.checks img) || !windowsOk img || !img.tensors.all tensorOk ||
      pools.any (poolDescBad p) then some .badCommand
  else if img.stages.any (coreClash s p) || persistClash s img || windowsClash img || windowsMeetOpen s img || twoDMeetsPin s img || poolClash s pools ||
      securedStatic s p img reserved (((getSecure s p).map (fun c => tensorSpans c.tensors)).getD []) ||
      reservedNeeds s img reserved (·.reserved) then some .configConflict
  else if (tfree s.head.progs 1024).isNone || (imagePlace s v bytes).isNone || overReserved s p v img reserved || poolFull s pools ||
      reservedNeeds s img reserved (fun q => !q.slots.isEmpty) || (reserved ≠ 0 && pipesFull s reserved) ||
      (freeHandles s (if reserved = 0 then 0 else img.groups.length)).isNone then some .refusedCapacity
  else none

def programLoadOp (h : Hdr) (image : W64) (bytes reserved : Nat) (img : Image) (s : State) : State :=
  match getPart s h.part with
  | none => complete s h .badCommand
  | some v => match loadRefusal s h.part v image bytes reserved img, tfree s.head.progs 1024, imagePlace s v bytes with
    | none, some id, some base =>
      let s := hbmPut s base (mreads s.mem image.toNat bytes)
      let s := (img.poolRanges.map poolDesc).foldl putPool s
      let s := { s with head := { s.head with progs := tput s.head.progs id ⟨img, h.part, base, bytes, reserved, false⟩ } }
      complete (loadReserved s id h.part img reserved) h .ok id
    | r, _, _ => complete s h (r.getD .refusedCapacity)

def execProgramLoad (h : Hdr) (image : W64) (bytes reserved : Nat) (img : Image) (s : State) : Host.Outcome State Fault Refusal :=
  .next (decideCmd s h 0x10 (programLoadOp h image bytes reserved img))

/-! ### PROGRAM_UNLOAD, MODEL_ATTACH (R310, R312, R351) -/

/-- Sequences of a program that are in flight, and those that are not. -/
def progSeqs (s : State) (prog : Nat) (flight : Bool) : List Nat :=
  (s.head.seqs.filter (fun e => seqProg s e.2 == some prog && (e.2.st == .flight) == flight)).map Prod.fst

def unloadProg (s : State) (prog : Nat) : State :=
  let s := endAll s .cancelled (progSeqs s prog false)
  let s := ((s.head.pipes.filter (fun e => progOf e.1 == prog)).map Prod.fst).foldl unloadPipe s
  let h := s.head
  { s with head := { h with progs := tdel h.progs prog, models := h.models.filter (fun e => e.2.prog ≠ prog) } }

/-- The program takes no new work from now on; it goes once its sequences in flight have completed. -/
def programUnloadOp (h : Hdr) (program : Nat) (s : State) : State :=
  match tget s.head.progs program with
  | none => complete s h .badCommand
  | some g =>
    if g.part ≠ h.part then complete s h .badCommand
    else if (progSeqs s program true).isEmpty then complete (unloadProg s program) h .ok
    else { s with head := { s.head with progs := tput s.head.progs program { g with unloading := true } } }

def execProgramUnload (h : Hdr) (program : Nat) (s : State) : Host.Outcome State Fault Refusal :=
  .next (decideCmd s h 0x11 (programUnloadOp h program))

/-- Policy blocks of a MODEL_ATTACH, or the defaults of Table BWD-5 with none. -/
def attachPolicies (s : State) (a : W64) (n governed : Nat) : List (BitVec 64) :=
  if n = 0 then List.replicate governed polDefault
  else (List.range n).map (fun i => BitVec.ofNat 64 (mnat s.mem (a.toNat + 8 * i) 8))

/-- Governor of a layer before its first step: the pin, the widest format in the warm-up, or the narrowest; E_ref is left open. -/
def firstGov (p : BitVec 64) (draw : Nat) : Gov :=
  let f := if polPin p ≠ 0 then polPin p else if 0 < polWarm p then polWide p else polNarrow p
  let e : Int := ((Config.freeWord draw).toNat % 256 : Int) - 128
  ⟨p, f, e, scaleFor f e, 0, 0, 0, .zero, none⟩

def bindOf (b : List Byte) : TBind := ⟨bytesNat b 0 8, bytesNat b 8 8, bytesNat b 16 8, bytesNat b 24 4⟩

def modelAttachOp (h : Hdr) (program policies tensors : Nat) (table policyArray : W64) (s : State) : State :=
  match tget s.head.progs program with
  | none => complete s h .badCommand
  | some g =>
    let pol := attachPolicies s policyArray policies g.img.governed
    let ents := (List.range tensors).map (fun i => mreads s.mem (table.toNat + 32 * i) 32)
    if g.part ≠ h.part || g.unloading || !argAddr table || (policies ≠ 0 && !argAddr policyArray) || tensors ≠ g.img.tensors.length ||
        (policies ≠ 0 && policies ≠ g.img.governed) || ents.any (fun b => bytesNat b 28 4 ≠ 0) || !pol.all polOk then complete s h .badCommand
    else if !cmdReadable s h.part table (32 * tensors) || (policies ≠ 0 && !cmdReadable s h.part policyArray (8 * policies)) then
      complete s h .windowViolation
    else match tfree s.head.models 4096 with
      | none => complete s h .refusedCapacity
      | some id =>
        let d := s.fresh
        let govs : Tab Gov := (pol.zip (List.range pol.length)).map (fun x => (x.2, firstGov x.1 (d + x.2)))
        let s := { s with fresh := d + pol.length, head := { s.head with models := tput s.head.models id ⟨program, h.part, ents.map bindOf, govs⟩ } }
        complete s h .ok id

def execModelAttach (h : Hdr) (program policies tensors : Nat) (tensorTable policyArray : W64) (s : State) :
    Host.Outcome State Fault Refusal :=
  .next (decideCmd s h 0x12 (modelAttachOp h program policies tensors tensorTable policyArray))

/-! ### PIN_WEIGHTS, UNPIN_WEIGHTS (R171-R174) -/

/-- The destination lies where its kind says. -/
def destKindOk (kind a : Nat) : Bool :=
  match placeOf a with
  | .pool _ _ => kind == 0
  | .spad _ _ => kind == 1
  | _ => false

def pinOp (h : Hdr) (matrix side : W64) (n k fmt destKind : Nat) (dest : W64) (destBytes : Nat) (s : State) : State :=
  if !argAddr matrix || matrix.toNat / 2 ^ 44 ≠ 0 || !argAddr side || !argAddr dest || !destKindOk destKind dest.toNat then complete s h .badCommand
  else match pinMatrix s h.part matrix.toNat side.toNat n k fmt dest.toNat destBytes, tfree s.head.pins 65536 with
    | .error st, _ => complete s h st
    | .ok _, none => complete s h .refusedCapacity
    | .ok (p, used, s'), some id =>
      complete { s' with head := { s'.head with pins := tput s'.head.pins id p } } h .ok (id + 2 ^ 16 * p.segs + 2 ^ 24 * used) p.segOut

def execPinWeights (h : Hdr) (matrix side : W64) (n k fmt destKind : Nat) (dest : W64) (destBytes : Nat) (s : State) :
    Host.Outcome State Fault Refusal :=
  .next (decideCmd s h 0x13 (pinOp h matrix side n k fmt destKind dest destBytes))

/-- The matrix goes once no flume pass names it (R174). -/
def unpinOp (h : Hdr) (handle : Nat) (s : State) : State :=
  match tget s.head.pins handle with
  | none => complete s h .badCommand
  | some p =>
    if p.part ≠ h.part then complete s h .badCommand
    else complete (finishUnpin { s with head := { s.head with pins := tput s.head.pins handle { p with unpin := true } } } handle) h .ok

def execUnpinWeights (h : Hdr) (handle : Nat) (s : State) : Host.Outcome State Fault Refusal :=
  .next (decideCmd s h 0x14 (unpinOp h handle))

/-! ### DISPATCH (R97, R313, R314, R319, R351) -/

/-- Some run-time extent exceeds its plan bound (R97). -/
def exceedsPlan (img : Image) (shape : List Nat) : Bool :=
  img.stages.any (fun st => st.products.any (fun p => decide (p.mBound < extentOf shape p.m) || decide (p.kBound < extentOf shape p.k) ||
    decide (p.nBound < extentOf shape p.n)))

/-- Pipelines of a program by number. -/
def pipeNumbers (s : State) (prog : Nat) : List Nat :=
  match tget s.head.progs prog with
  | none => []
  | some g => List.range g.img.depths.length

/-- Queued sequences of a partition, and those of one class. -/
def queuedIn (s : State) (p : Nat) : List (Nat × Sequ) := s.head.seqs.filter (fun e => e.2.st == .queued && e.2.part == p)

/-- A class that becomes non-empty takes at least the least virtual time of the classes already waiting (R319). -/
def joinClass (s : State) (p cls : Nat) : State :=
  match getPart s p with
  | none => s
  | some v =>
    let waits := fun (c : Nat) => (queuedIn s p).any (fun e => e.2.cls == c)
    if waits cls then s
    else if cls = 1 ∧ waits 2 then setPart s p { v with vtStd := max v.vtStd v.vtJun }
    else if cls = 2 ∧ waits 1 then setPart s p { v with vtJun := max v.vtJun v.vtStd }
    else s

/-- Put a sequence where R319 admits it now: reserved pipelines first, then free slots, then a switch. -/
def tryAdmit (s : State) (prog q : Nat) : State :=
  let queued := fun (s : State) => match getSeq s q with
    | some r => r.st == .queued
    | none => false
  let ns := pipeNumbers s prog
  let s := ns.foldl (fun s i => if queued s && ((getPipe s (pipeKey prog i)).map (·.reserved)).getD false then fillPipe s (pipeKey prog i) else s) s
  let s := ns.foldl (fun s i => if queued s then fillPipe s (pipeKey prog i) else s) s
  ns.foldl (fun s i => if queued s && (switchable s prog i).isSome then fillPipe (switchOp s prog i) (pipeKey prog i) else s) s

/-- Rows 2 to 5 of Table PRG-4. -/
def dispatchRefusal (s : State) (h : Hdr) (prog : Nat) (img : Image) (limit : Nat) (shape : List Nat) : Option St :=
  if exceedsPlan img shape then some .shapeExceedsPlan
  else if clsShed s h.part h.cls then some .refusedAllotment
  else if !hasLivePipe s prog && !(pipeNumbers s prog).any (fun i => (switchable s prog i).isSome) then some .degraded
  else if limit ≤ (queuedIn s h.part).length then some .refusedCapacity
  else none

/-- The interim completion of R314: position in the class, and the retry hint, which the manual leaves to the device. -/
def deferredCpl (s : State) (h : Hdr) (q : Nat) : State :=
  if h.quiet then s
  else
    let pos := ((queuedIn s h.part).filter (fun e => e.2.cls == h.cls && decide (e.1 < q))).length
    let d := drawFresh s
    let s := { d.2 with head := { d.2.head with opened := d.2.head.opened.map (fun o => if o.ctx = (h.ctx : Nat) ∧ o.tag = h.tag then { o with deferred := true } else o) } }
    postCpl s ⟨h.ctx, h.tag, St.deferred.code, true, 0, w32 pos, Config.hint d.1, 0, false⟩

def dispatchOp (h : Hdr) (model steps : Nat) (seed input output : W64) (deadline : Nat) (shape : List Nat) (s : State) : State :=
  match tget s.head.models model with
  | none => complete s h .badCommand
  | some m => match tget s.head.progs m.prog, getPart s h.part with
    | some g, some v =>
      if m.part ≠ h.part || g.unloading || steps == 0 || decide (2 ^ 32 ≤ steps) || (deadline ≠ 0 && h.cls ≠ 2) || !argAddr input || !argAddr output then
        complete s h .badCommand
      else match dispatchRefusal s h m.prog g.img v.queueLimit shape with
        | some st => complete s h st
        | none =>
          let bell := tgetD s.head.bells h.ctx (hgNow s)
          let s := joinClass s h.part h.cls
          let q := s.head.nextSeq
          let r : Sequ := { ctx := h.ctx, tag := h.tag, irq := h.irq, part := h.part, cls := h.cls, model := model, shape := shape, steps := steps,
                            done := 0, seed := seed, input := input.toNat, output := output.toNat,
                            deadline := if deadline = 0 then none else some (bell + usCycles deadline), st := .queued, front := false, pipe := 0,
                            cancel := false, bell := bell, ackAt := hgNow s, startAt := 0, energy := 0, cyc := 0, held := [] }
          let s := setSeq { s with head := { s.head with nextSeq := q + 1 } } q r
          let s := tryAdmit s m.prog q
          match getSeq s q with
          | some r => if r.st = .queued then deferredCpl s h q else s
          | none => s
    | _, _ => complete s h .badCommand

def execDispatch (h : Hdr) (model steps : Nat) (seed input output : W64) (deadline : Nat) (shape : List Nat) (s : State) :
    Host.Outcome State Fault Refusal :=
  .next (decideCmd s h 0x20 (dispatchOp h model steps seed input output deadline shape))

/-! ### SECURE_CONFIG (R359-R366, R370) -/

def tensorEntry (b : List Byte) : STensor :=
  { base := bytesNat b 0 8, bytes := bytesNat b 8 8, method := bytesNat b 16 1, slot := bytesNat b 18 2, now := 0, highLast := false,
    lowRun := 0, was := 0, dirty := [], copy := [], delta := [] }

/-- A tensor lies where R359 lets it: in HBM under a segment with wr, or in a pinned pool range of the partition. -/
def tensorPlaced (s : State) (p : Nat) (t : STensor) : Bool :=
  match placeOf t.base with
  | .hbm _ | .pool _ _ => partAllows s p .wr t.base t.bytes
  | _ => false

def secureBlockBad (s : State) (p n : Nat) (b : List Byte) (bytes : Nat) (ts : List STensor) : Bool :=
  decide (n > 1024) || decide (48 < bytesNat b 3 1) || bytesNat b 28 4 ≠ 0 ||
  (n ≠ 0 && (ts.isEmpty || decide (256 < ts.length) || bytes ≠ 32 + 32 * ts.length || bytesNat b 8 8 % 4096 ≠ 0 || bytesNat b 16 8 % 4096 ≠ 0 ||
    (List.range ts.length).any (fun i => let e := b.drop (32 + 32 * i); bytesNat e 17 1 ≠ 0 || bytesNat e 20 12 ≠ 0) ||
    ts.any (fun t => decide (2 < t.method) || decide (255 < t.slot) || t.base % 4096 ≠ 0 || t.bytes % 64 ≠ 0 || t.bytes == 0 || !tensorPlaced s p t)))

def secureClash (s : State) (p : Nat) (ts : List STensor) : Bool :=
  (ts.zip (List.range ts.length)).any (fun x => (ts.drop (x.2 + 1)).any (fun y => meets (x.1.base, x.1.base + x.1.bytes) (y.base, y.base + y.bytes))) ||
  s.head.progs.any (fun g => g.2.part == p && securedStatic s p g.2.img g.2.reserved (tensorSpans ts))

/-- The secure area fails R361, or the device's tensors would pass 1,024 (R359). -/
def secureAreaBad (s : State) (p base area : Nat) (ts : List STensor) : Bool :=
  decide (hbmTop < base + area) || decide (deltaRoom area ts * 4 < (ts.map (·.bytes)).sum) ||
  s.head.parts.any (fun v => v.2.segs.any (fun g => (g.wr || g.add) && meets g.span (base, base + area))) ||
  decide (1024 < ts.length + ((s.head.secure.filter (fun e => e.1 ≠ p)).map (fun e => e.2.tensors.length)).sum)

def setDefer (s : State) (p hours : Nat) : State :=
  match getPart s p with
  | none => s
  | some v => setPart s p { v with deferH := if hours = 0 then 6 else hours }

def secureOp (h : Hdr) (n : Nat) (block : W64) (bytes : Nat) (s : State) : State :=
  let b := blockBytes s block bytes
  let ts := if n = 0 then [] else (List.range (bytesNat b 0 2)).map (fun i => tensorEntry (b.drop (32 + 32 * i)))
  let given := bytes ≠ 0
  if !argAddr block || (n ≠ 0 && !given) || (given && (decide (bytes < 32) || secureBlockBad s h.part n b bytes ts)) then complete s h .badCommand
  else if !cmdReadable s h.part block bytes then complete s h .windowViolation
  else if n = 0 then
    let s := if given then setDefer s h.part (bytesNat b 3 1) else s
    complete { s with head := { s.head with secure := tdel s.head.secure h.part } } h .ok 0
  else if secureClash s h.part ts then complete s h .configConflict
  else
    let base := bytesNat b 8 8
    let area := bytesNat b 16 8
    let d := drawFresh s
    let member := (s.head.ring.map (fun r => r.role == 1 && !r.reliefLost)).getD false
    if secureAreaBad s h.part base area ts || (member && !Config.reliefRoom d.1) then complete d.2 h .refusedCapacity
    else
      let dflt := fun (x y : Nat) => if x = 0 then y else x
      let step0 := bytesNat b 24 4
      let c : Secure := { n := n, rMax := dflt (bytesNat b 2 1) 64, defer := dflt (bytesNat b 3 1) 6, mirrorMax := dflt (bytesNat b 4 4) 256,
                          areaBase := base, areaBytes := area, step0 := step0, tensors := ts, epoch := 0, committed := 0, phase := 0,
                          capturedAt := 0, sentAt := 0, step := step0, hold := 0, dirtyBytes := 0, holdFrom := none, cur := step0, cstep := step0 }
      let s := undefine (setSecure (setDefer d.2 h.part (bytesNat b 3 1)) h.part c) base (base + area)
      let s := if member then ringSend s ((s.head.ring.map ringSize).getD 0) (.config ((List.range 16).map (fun p => (getPort s p).addr)) (ringPos s)
        (ts.map (fun t => (t.bytes, t.method)))) else s
      complete s h .ok (captureHold (ts.map (·.bytes)).sum)

def execSecureConfig (h : Hdr) (n : Nat) (block : W64) (bytes : Nat) (s : State) : Host.Outcome State Fault Refusal :=
  .next (decideCmd s h 0x40 (secureOp h n block bytes))

/-! ### RELIEF_ASSIGN (Table RES-4) -/

/-- The block's form: its length, reserved fields, ranges and action. -/
def reliefBad (role action : Nat) (b : List Byte) (bytes : Nat) : Bool :=
  let g := bytesNat b 2 1
  let idx := bytesNat b 3 1
  decide (2 < role) || decide (bytes < 32) || bytesNat b 4 1 ≠ action || bytesNat b 24 8 ≠ 0 ||
  (action == 0 && role ≠ 0 && (decide (g = 0) || decide (16 < g) || bytes ≠ 32 + 16 * (g + 1) ||
    (if role = 1 then decide (g ≤ idx) else idx ≠ 0xFF) ||
    (bytesNat b 6 2 ≠ 0 && (decide (bytesNat b 6 2 < 50) || decide (1000 < bytesNat b 6 2))) ||
    bytesNat b 8 8 % 4096 ≠ 0 || (role == 2 && decide (hbmTop < bytesNat b 8 8 + bytesNat b 16 8)) ||
    (List.range (g + 1)).any (fun i => bytesNat b (32 + 16 * i + 6) 10 ≠ 0)))

def ringOfBlock (s : State) (role : Nat) (b : List Byte) : Ring :=
  let g := bytesNat b 2 1
  { id := bytesNat b 0 2, role := role, index := if role = 2 then g else bytesNat b 3 1, beat := bytesNat b 6 2,
    reliefBase := bytesNat b 8 8, reliefBytes := bytesNat b 16 8,
    members := (List.range (g + 1)).map (fun i => ⟨w32 (bytesNat b (32 + 16 * i) 4), bytesNat b (32 + 16 * i + 4) 2, hgNow s, false, false⟩),
    fenced := false, reliefLost := false, beats := 0, restored := 0, takenOver := none, sent := [] }

def withRelief (h : Hdr) (role action : Nat) (block : W64) (bytes : Nat) (s : State) (f : List Byte → State) : State :=
  let b := blockBytes s block bytes
  if !argAddr block || reliefBad role action b bytes then complete s h .badCommand
  else if !cmdReadable s h.part block bytes then complete s h .windowViolation
  else f b

def reliefAssignOp (h : Hdr) (role : Nat) (block : W64) (bytes : Nat) (s : State) : State :=
  withRelief h role 0 block bytes s (fun b =>
    if role = 0 then complete { s with head := { s.head with ring := none } } h .ok
    else
      let r := ringOfBlock s role b
      let s := setRing s r
      let s := if role = 1 then
          ringSend s (ringSize r) (.config ((List.range 16).map (fun p => (getPort s p).addr)) (ringPos s)
            (s.head.secure.flatMap (fun e => e.2.tensors.map (fun t => (t.bytes, t.method)))))
        else if r.reliefBytes = 0 then s else undefine s r.reliefBase (r.reliefBase + r.reliefBytes)
      complete s h .ok)

def execReliefAssign (h : Hdr) (role : Nat) (block : W64) (bytes : Nat) (s : State) : Host.Outcome State Fault Refusal :=
  .next (decideCmd s h 0x41 (reliefAssignOp h role block bytes))

/-- A forced takeover: the target is ordered to fence itself, and its neighbours stop acknowledging it (R373). -/
def reliefTakeOverOp (h : Hdr) (role : Nat) (block : W64) (bytes : Nat) (s : State) : State :=
  withRelief h role 1 block bytes s (fun b =>
    let t := bytesNat b 5 1
    match s.head.ring with
    | none => complete s h .badCommand
    | some r =>
      match r.members[t]? with
      | none => complete s h .badCommand
      | some m =>
        if r.role ≠ 2 ∨ r.id ≠ bytesNat b 0 2 ∨ ringSize r ≤ t then complete s h .badCommand
        else
          let s := setRing s { r with members := r.members.set t { m with fenceOrdered := true } }
          let s := ringSend s t .fence
          complete ((ringNeighbours r t).foldl (fun s i => ringSend s i (.stopAck t)) s) h .ok)

def execReliefTakeOver (h : Hdr) (role : Nat) (block : W64) (bytes : Nat) (s : State) : Host.Outcome State Fault Refusal :=
  .next (decideCmd s h 0x41 (reliefTakeOverOp h role block bytes))

def reliefStandDownOp (h : Hdr) (role : Nat) (block : W64) (bytes : Nat) (s : State) : State :=
  withRelief h role 2 block bytes s (fun _ => complete { s with head := { s.head with ring := none } } h .ok)

def execReliefStandDown (h : Hdr) (role : Nat) (block : W64) (bytes : Nat) (s : State) : Host.Outcome State Fault Refusal :=
  .next (decideCmd s h 0x41 (reliefStandDownOp h role block bytes))

/-! ### CHECKPOINT_EXPORT (R293, R379) -/

/-- Granules read in order, and the number of the first that is silt. -/
def exportRead (s : State) (a n : Nat) : List Byte × Option Nat × State :=
  let x := fetchBytes s a n
  let g := beforeSilt x.bytes
  (g, if g.length < n then some (a / 64 + g.length / 64) else none, x.st)

def exportOp (h : Hdr) (src : W64) (bytes : Nat) (dest : W64) (path conn : Nat) (s : State) : State :=
  if !argAddr src || decide (1 < src.toNat / 2 ^ 44) || bytes % 64 ≠ 0 || !argAddr dest || decide (1 < path) ||
      (path == 0 && dest.toNat / 2 ^ 44 ≠ 3) || (path == 1 && (dest ≠ 0 || !connFree s conn h.part)) then complete s h .badCommand
  else if bytes ≠ 0 && !partAllows s h.part .exp src.toNat bytes then complete s h .windowViolation (src.toNat / 64)
  else
    let x := exportRead s src.toNat bytes
    let s := x.2.2
    let s := if path = 0 then cmdWrite s h dest x.1
      else (chunks 4096 x.1).foldl (fun s b => connSend s conn (connFor s conn h.part) none none b) s
    match x.2.1 with
    | some g => complete s h .poisonConsumed g
    | none => complete s h .ok bytes

def execCheckpointExport (h : Hdr) (src : W64) (bytes : Nat) (dest : W64) (path conn : Nat) (s : State) : Host.Outcome State Fault Refusal :=
  .next (decideCmd s h 0x42 (exportOp h src bytes dest path conn))

end Sys2Proof.Machine
end

