-- ==== Sys2Proof/Machine/Rings.lean ====
section
/-!
DEFINITION. Mailbox rings (13_brivlink_headgate, R343-R349): context registers, reads of commands, writes of completions and
interrupts, and the telemetry push ring (R354).
-/
namespace Sys2Proof.Machine

/-- Entries of a context's command ring (which = 1) or completion ring (which = 5), from its size field. -/
def ringEntries (s : State) (x which : Nat) : Nat := 2 ^ (min 12 (getBits (rawReg s .hgCtxCfg x) which 4) + 4)

def ctxEnabled (s : State) (x : Nat) : Bool := (rawReg s .hgCtxCfg x).getLsbD 0

/-- a − b modulo 2^32. -/
def sub32 (a b : W32) : Nat := (a - b).toNat

/-- R346: the producer stays within one ring of the commands read. -/
def doorbellOp (s : State) (x : Nat) (v : W32) : State :=
  if ringEntries s x 1 < sub32 v (rawReg s .hgCmdCons x) then setEvent s .hgCtxErr x 0
  else
    let s := setReg s .hgDbCmd x v
    { s with head := { s.head with bells := tput s.head.bells x (hgNow s) } }

def execCommandDoorbell (ctx : CtxId) (index : W32) (s : State) : Host.Outcome State Fault Refusal := .next (if s.boot.vaon then doorbellOp s ctx index else s)

def consumerOp (s : State) (x : Nat) (v : W32) : State := setReg s .hgDbCpl x v

def execCompletionConsumerWrite (ctx : CtxId) (index : W32) (s : State) : Host.Outcome State Fault Refusal := .next (if s.boot.vaon then consumerOp s ctx index else s)

/-- Contexts other than x with the senior bit set. -/
def seniorCount (s : State) (x : Nat) : Nat := ((List.range 4096).filter (fun y => y ≠ x && ctxSenior s y)).length

/-- A context may be enabled: management, or assigned to a partition (R344). -/
def mayEnable (s : State) (x : Nat) : Bool := decide (x < 4) || (ctxPart s x).isSome

/-- The four ring indices of a context start at 0. -/
def zeroIndices (s : State) (x : Nat) : State := [Reg.hgDbCmd, .hgDbCpl, .hgCmdCons, .hgCplProd].foldl (fun s r => setReg s r x 0) s

/-- Size and senior fields after a write of a disabled context: a size above 12 keeps the value in force, and a 65th senior
bit reads back 0 (R344). -/
def ctxFields (s : State) (x : Nat) (old v : W32) : W32 :=
  let a := if getBits v 1 4 ≤ 12 then putBits old 1 4 (getBits v 1 4) else old
  let b := if getBits v 5 4 ≤ 12 then putBits a 5 4 (getBits v 5 4) else a
  putBits b 10 1 (b2n (v.getLsbD 10 && decide (seniorCount s x < 64)))

/-- A write of hg_ctx_cfg (R344). A write that would change a locked field of an enabled context leaves it and sets bit 2 of hg_ctx_err. -/
def ctxCfgOp (s : State) (x : Nat) (v : W32) : State :=
  let old := rawReg s .hgCtxCfg x
  let on := ctxEnabled s x
  let a := if getBits v 18 8 = 0 then old else putBits old 18 8 (getBits v 18 8)
  let a := putBits a 9 1 (getBits v 9 1)
  let a := if on then a else ctxFields s x a v
  let enable := v.getLsbD 0 && (on || mayEnable s x)
  let a := putBits a 0 1 (b2n enable)
  let s := setEventIf (on && (getBits v 1 8 ≠ getBits old 1 8 || v.getLsbD 10 != old.getLsbD 10)) s .hgCtxErr x 2
  let s := setReg s .hgCtxCfg x a
  if enable && !on then
    zeroIndices { s with head := { s.head with resv := tdel s.head.resv x } } x
  else s

def execContextConfigWrite (ctx : CtxId) (value : W32) (s : State) : Host.Outcome State Fault Refusal := .next (if s.boot.vaon then ctxCfgOp s ctx value else s)

def ringBaseReg : Nat → Reg
  | 0 => .hgCmdBaseLo | 1 => .hgCmdBaseHi | 2 => .hgCplBaseLo | _ => .hgCplBaseHi

def ringBaseOp (s : State) (x which : Nat) (v : W32) : State :=
  let r := ringBaseReg which
  if ctxEnabled s x then setEvent s .hgCtxErr x 2 else setReg s r x (writeBits r (rawReg s r x) v)

def execContextRingBaseWrite (ctx : CtxId) (which : Fin 4) (value : W32) (s : State) : Host.Outcome State Fault Refusal :=
  .next (if s.boot.vaon then ringBaseOp s ctx which value else s)

/-! ### Reading commands -/

/-- Byte of a context's ring in companion memory. -/
def ringBase (s : State) (x : Nat) (lo hi : Reg) : Nat := (rawReg s lo x).toNat + 2 ^ 32 * (rawReg s hi x).toNat

/-- Opcodes of Table HGM-9. -/
def knownOp (op : Nat) : Bool :=
  [0x01, 0x02, 0x03, 0x04, 0x10, 0x11, 0x12, 0x13, 0x14, 0x20, 0x21, 0x30, 0x31, 0x32, 0x40, 0x41, 0x42, 0x50, 0x51, 0x60, 0x61,
   0x70, 0x71].contains op

/-- Completion entries that no command has reserved or used. -/
def cplRoom (s : State) (x : Nat) : Nat :=
  ringEntries s x 5 - sub32 (rawReg s .hgCplProd x) (rawReg s .hgDbCpl x) - tgetD s.head.resv x 0

def commandWaits (s : State) (x : Nat) : Bool := ctxEnabled s x && rawReg s .hgDbCmd x != rawReg s .hgCmdCons x

/-- Descriptor at the front of a command ring. -/
def frontDesc (s : State) (x : Nat) : List Byte :=
  mreads s.mem (3 * 2 ^ 44 + ringBase s x .hgCmdBaseLo .hgCmdBaseHi + 64 * ((rawReg s .hgCmdCons x).toNat % ringEntries s x 1)) 64

/-- The device reads a command once two completion entries can be reserved (R346). A context field that differs, or an unknown
opcode, is refused here (R349 checks 1 and 3); a second FIRMWARE_RELOAD is not read during a reload (R358). -/
def commandReadOp (s : State) (x : Nat) : State :=
  if s.boot.hgState ≠ 2 ∨ s.head.reload = 2 ∨ !commandWaits s x ∨ cplRoom s x < 2 then s
  else
    let d := frontDesc s x
    let op := bytesNat d 0 1
    if op = 0x71 ∧ s.head.reload ≠ 0 then s
    else
      let tag := w32 (bytesNat d 4 4)
      let h := s.head
      let early := !s.boot.ready && (!earlyOp op || decide (4 ≤ x))
      let refused := !knownOp op || (!early && bytesNat d 2 2 % 4096 ≠ x)
      let s := setReg { s with head := { h with resv := tput h.resv x (tgetD h.resv x 0 + 2), opened := h.opened ++ [⟨x, tag, op, false, refused⟩] } }
        .hgCmdCons x (rawReg s .hgCmdCons x + 1)
      let bad := fun (st : St) => postCpl s ⟨x, tag, st.code, false, 0, 0, 0, 0, (bytesNat d 1 1).testBit 0⟩
      if refused then bad (if early then .topologyMismatch else .badCommand) else s

def execCommandRead (ctx : CtxId) (s : State) : Host.Outcome State Fault Refusal := .next (commandReadOp s ctx)

def disableCtx (s : State) (x : Nat) : State := setReg s .hgCtxCfg x (putBits (rawReg s .hgCtxCfg x) 0 1 0)

def readFailOp (s : State) (x : Nat) : State := if commandWaits s x then setEvent (disableCtx s x) .hgCtxErr x 1 else s

def execDescriptorReadFail (ctx : CtxId) (s : State) : Host.Outcome State Fault Refusal := .next (readFailOp s ctx)

/-! ### Writing completions and interrupts -/

/-- The 32 bytes of Table HGM-8. -/
def cplBytes (c : Cpl) (phase : Nat) : List Byte :=
  leBytes 4 c.tag.toNat ++ [BitVec.ofNat 8 c.status, BitVec.ofNat 8 (phase + 2 * b2n c.interim)] ++ leBytes 2 c.ctx ++
  leBytes 8 c.detail.toNat ++ leBytes 4 c.pos.toNat ++ leBytes 4 c.hint.toNat ++ leBytes 8 c.energy.toNat

/-- Every write to space 3 that the command caused is acknowledged (R348). -/
def writesAcked (s : State) (c : Cpl) : Bool := !s.bv.writes.any (fun w => w.2.1 == c.ctx && w.2.2 == c.tag)

def nextCpl (s : State) (x : Nat) : Option Cpl := s.head.cplDue.find? (fun c => c.ctx == x && writesAcked s c)

/-- Reservations and the open command after a completion is written. -/
def settleCpl (s : State) (x : Nat) (c : Cpl) : State :=
  let h := s.head
  let was := (h.opened.find? (fun o => o.ctx == x && o.tag == c.tag)).map (·.deferred)
  let n := if c.interim then 1 else if was = some true then 1 else 2
  let h := { h with cplDue := eraseFirst c h.cplDue, resv := tput h.resv x (tgetD h.resv x 0 - n),
                    opened := if c.interim then h.opened else match h.opened.find? (fun o => o.ctx == x && o.tag == c.tag) with
                      | some o => eraseFirst o h.opened
                      | none => h.opened }
  { s with head := h }

def completionWriteOp (s : State) (x : Nat) (acked : Bool) : State :=
  match nextCpl s x with
  | none => s
  | some c =>
    if !ctxEnabled s x then settleCpl s x c
    else if !acked then setEvent (disableCtx (settleCpl s x c) x) .hgCtxErr x 3
    else
      let prod := (rawReg s .hgCplProd x).toNat
      let n := ringEntries s x 5
      let s := settleCpl s x c
      let s := compWrite s (ringBase s x .hgCplBaseLo .hgCplBaseHi + 32 * (prod % n)) (cplBytes c ((prod / n + 1) % 2)) 65535 0
      let s := setReg s .hgCplProd x (w32 (prod + 1))
      if !c.interim && c.irq && (rawReg s .hgCtxCfg x).getLsbD 9 then { s with head := { s.head with irqDue := s.head.irqDue ++ [x] } } else s

def execCompletionWrite (ctx : CtxId) (acked : Bool) (s : State) : Host.Outcome State Fault Refusal := .next (completionWriteOp s ctx acked)

/-- One interrupt of a context in any interval of hg_irq_mod (R347). -/
def interruptOp (s : State) (x : Nat) : State :=
  let spaced := match tget s.head.irqAt x with
    | none => true
    | some t => decide (t + usCycles (getBits (rawReg s .hgIrqMod 0) 0 8) ≤ hgNow s)
  if !s.head.irqDue.contains x || !spaced then s
  else
    let h := s.head
    let s := { s with head := { h with irqDue := h.irqDue.filter (· ≠ x), irqAt := tput h.irqAt x (hgNow s) } }
    compWrite s (ringBase s x .hgIrqLo .hgIrqHi) (leBytes 4 (rawReg s .hgIrqData x).toNat) 65535 0

def execInterruptWrite (ctx : CtxId) (s : State) : Host.Outcome State Fault Refusal := .next (interruptOp s ctx)

/-! ### The push ring (R354) -/

/-- Push one record: at the head of the ring, wrapping at its end, or counted as lost. -/
def pushRec (size base : Nat) (a : State × Bool) (r : TRec) : State × Bool :=
  let s := a.1
  let b := recBytes r
  let hd := (rawReg s .hgTelHead 0).toNat
  if size < sub32 (rawReg s .hgTelHead 0) (rawReg s .hgTelTail 0) + b.length then
    ({ s with head := { s.head with telLost := s.head.telLost + 1 } }, a.2)
  else
    let o := hd % size
    let s := compWrite s (base + o) (b.take (size - o)) 65535 0
    let s := compWrite s base (b.drop (size - o)) 65535 0
    (setReg s .hgTelHead 0 (w32 (hd + b.length)), true)

def telemetryPushOp (s : State) : State :=
  let n := getBits (rawReg s .hgTelCfg 0) 0 5
  if n = 0 then s
  else
    let lost := s.head.telLost
    let recs := s.head.telPush
    let s := { s with head := { s.head with telPush := [] } }
    let x := recs.foldl (pushRec (2 ^ n * 1024) (ringBase s 0 .hgTelLo .hgTelHi)) (s, false)
    if x.2 && lost ≠ 0 then report { x.1 with head := { x.1.head with telLost := x.1.head.telLost - lost } } 0x001D 0 none 0 lost else x.1

def execTelemetryPush (s : State) : Host.Outcome State Fault Refusal := .next (telemetryPushOp s)

end Sys2Proof.Machine
end

