-- ==== Sys2Proof/Machine/Power.lean ====
section
/-!
DEFINITION. Power and heat (16_power_thermal, R400-R431): feeds and the emergency allotment, samples, the control law, metering,
phase groups, setpoints and settings, thermal levels and the shedding of clusters and fields.
-/
namespace Sys2Proof.Machine

/-! ### Settings (R381, R409, R411) -/

/-- Device setting: 16 while an emergency allotment is in force. -/
def devSetting (s : State) : Nat := if s.pow.emergency then 16 else s.pow.dev.k

/-- Setting that a region is to run at (R411). A field that R266 keeps lit though it is to be shed is held at 16 (R426). -/
def settingOf (s : State) (r : Nat) : Nat :=
  let g := getRegion s r
  let own := max (devSetting s) (max g.thermal g.kMargin)
  if r < 60 then
    let p := (s.head.parts.find? (fun p => p.2.clusters.contains r)).map (fun p => p.2.pow.k)
    min 16 (max own (p.getD 0))
  else if r < 72 then (if (getField s (r - 60)).withheld then 16 else min 16 own)
  else 0

/-- One step of 25 MHz toward the setting, the voltage ahead of the frequency (R383, R409). A reload proper holds the clock (R358). -/
def settingOp (s : State) (r : Nat) : State :=
  let g := getRegion s r
  let want := settingOf s r
  if !g.locked || 72 ≤ r || s.head.reload = 2 then s
  else
    let k := if g.k < want then g.k + 1 else if want < g.k then g.k - 1 else g.k
    let s := setRegion s r { g with k := k, slewing := k != want }
    if k = g.k then s else checkRegion s r

def execSettingChange (region : RegionId) (s : State) : Host.Outcome State Fault Refusal := .next (settingOp s region)

/-- Hardware brings every running region of 0-71 up to a setting at once (R416, R417). -/
def forceSettings (s : State) (k : Nat) : State :=
  let up := fun (e : Nat × Region) => if e.1 < 72 ∧ e.2.running = true then (e.1, { e.2 with k := max e.2.k k }) else e
  checkCrossings { s with clk := { s.clk with regions := s.clk.regions.map up } } (fun r => decide (r < 72))

/-! ### Setpoints (R408, R410) -/

/-- Phase group of a region; the always-on domain has none. -/
def regionGroup (r : Nat) : Option Nat := if r < 72 then some r else if r < 79 then some 72 else none

/-- One raise of 5 mV, at most one per 100 µs, while a warning's margin is short; at 0.85 V the margin setting rises instead. -/
def setpointRaiseOp (s : State) (r : Nat) : State :=
  match regionGroup r with
  | none => s
  | some g =>
    let v := getVGroup s g
    let x := getRegion s r
    let now := hgNow s
    if s.head.reload = 2 then s
    else if 850 ≤ setpoint s g then
      (if x.margin < 12 ∧ x.least ≠ 0x7F ∧ x.lowSince + msCycles 1 ≤ now ∧ v.raisedAt + msCycles 1 ≤ now ∧ r < 72 then
        setRegion s r { x with kMargin := min 16 (x.kMargin + 1), lowSince := now }
      else s)
    else if !x.below3 || 16 ≤ x.margin || (v.raisedAt ≠ 0 && decide (now < v.raisedAt + usCycles 100)) then s
    else setEvent (setVGroup s g { v with raise := min (v.raise + 5) (850 - freeboard s g (groupSetting s g)), raisedAt := now }) .pwEvent 0 6

def execSetpointRaise (region : RegionId) (s : State) : Host.Outcome State Fault Refusal := .next (setpointRaiseOp s region)

/-- Every 10 s with the margin at 6 % or more: 5 mV of the raise goes, and the margin setting falls by one. -/
def setpointRelaxOp (s : State) (r : Nat) : State :=
  match regionGroup r with
  | none => s
  | some g =>
    let v := getVGroup s g
    let x := getRegion s r
    let now := hgNow s
    if s.head.reload = 2 || x.margin < 24 || now < x.highSince + secCycles 10 then s
    else
      let s := setRegion s r { x with kMargin := x.kMargin - 1, highSince := now }
      if now < v.loweredAt + secCycles 10 then s else setVGroup s g { v with raise := v.raise - 5, loweredAt := now }

def execSetpointRelax (region : RegionId) (s : State) : Host.Outcome State Fault Refusal := .next (setpointRelaxOp s region)

/-! ### Feeds and the emergency allotment (R400, R417, R418) -/

/-- Some cause of an emergency allotment: the power brake, or one feed alone. -/
def emergencyCause (s : State) : Bool := s.pow.brake || s.pow.presentA != s.pow.presentB

/-- Enter, keep or begin to leave the emergency allotment, as its causes stand. -/
def checkEmergency (s : State) : State :=
  let p := s.pow
  let s :=
    if !s.boot.vaon then s
    else if emergencyCause s then
      if p.emergency then setPow s { p with clearAt := none }
      else
        let e := getBits (rawReg s .pwEmerg 0) 0 14
        let s := setPow s { p with emergency := true, clearAt := none, savedAllot := (p.dev.allot.getD 8400, p.dev.window),
                                   dev := { p.dev with allot := some e, window := 500, k := 16, lastChange := hgNow s } }
        let s := setBoot (setEvent s .pwEvent 0 3) { s.boot with ibi := s.boot.ibi + 1 }
        forceSettings s 16
    else if p.emergency && p.clearAt.isNone then setPow s { p with clearAt := some (hgNow s) }
    else s
  setPins s

/-- The emergency ends 1 s after both causes have cleared; the allotment in force before it returns. -/
def emergencyEndOp (s : State) : State :=
  let p := s.pow
  match p.clearAt with
  | none => s
  | some t =>
    if !p.emergency || emergencyCause s || hgNow s < t + secCycles 1 || s.head.reload = 2 then s
    else setPins (setPow s { p with emergency := false, clearAt := none,
                                    dev := { p.dev with allot := some p.savedAllot.1, window := p.savedAllot.2, lastChange := hgNow s } })

def execEmergencyEnd (s : State) : Host.Outcome State Fault Refusal := .next (emergencyEndOp s)

/-- A feed's presence, voltage and disconnection. -/
def setFeed (s : State) (f : Feed) (present cut : Bool) (cv : Nat) : State :=
  match f with
  | .a => setPow s { s.pow with presentA := present, cutA := cut, cvA := cv }
  | .b => setPow s { s.pow with presentB := present, cutB := cut, cvB := cv }

def feedPresentIn (s : State) (f : Feed) : Bool :=
  match f with
  | .a => s.pow.presentA
  | .b => s.pow.presentB

/-- A present feed goes: the loss is an event and an in-band interrupt (Table PWR-6, R467). -/
def feedGone (s : State) (f : Feed) (cv : Nat) : State :=
  let was := feedPresentIn s f
  let s := setFeed s f false true cv
  if was then
    let s := setEvent s .pwEvent 0 4
    let s := setBoot s { s.boot with ibi := s.boot.ibi + 1 }
    if s.pow.presentA || s.pow.presentB then checkEmergency s else setPins s
  else s

/-- A feed counts as present from 38 V to 63 V, with its presence contact mated (R400, R462). -/
def feedPresentOp (s : State) (f : Feed) (cv : Nat) (mated : Bool) : State :=
  if 3800 ≤ cv && cv ≤ 6300 && mated then checkEmergency (setFeed s f true false cv)
  else if feedPresentIn s f then feedGone s f cv
  else setFeed s f false false cv

def execFeedPresent (feed : Feed) (centivolts : BitVec 16) (mated : Bool) (s : State) : Host.Outcome State Fault Refusal :=
  .next (feedPresentOp s feed centivolts.toNat mated)

/-- A feed above 63 V is disconnected by its own converters. -/
def feedOverOp (s : State) (f : Feed) (cv : Nat) : State := if cv ≤ 6300 then s else feedGone s f cv

def execFeedOvervoltage (feed : Feed) (centivolts : BitVec 16) (s : State) : Host.Outcome State Fault Refusal :=
  .next (feedOverOp s feed centivolts.toNat)

def execFeedLost (feed : Feed) (s : State) : Host.Outcome State Fault Refusal := .next (feedGone s feed 0)

/-- PWRBRK_N low. Pulses shorter than 1 µs are ignored (Table MOD-4). -/
def brakeOp (s : State) (ns : Nat) : State :=
  if ns < 1000 then s else checkEmergency (setPow s { s.pow with brake := true })

def execPowerBrakeAssert (lowNs : Nat) (s : State) : Host.Outcome State Fault Refusal := .next (brakeOp s lowNs)

def brakeOffOp (s : State) : State := checkEmergency (setPow s { s.pow with brake := false })

def execPowerBrakeRelease (s : State) : Host.Outcome State Fault Refusal := .next (brakeOffOp s)

/-! ### Samples (R407, R416) -/

/-- Board power of a sample, W: each feed's centivolts times milliamps. -/
def boardWatts (cvA cvB maA maB : Nat) : Nat := (cvA * maA + cvB * maB) / 100000

/-- Each domain's reading: domain, millivolts, milliamps; its power shows in steps of 0.25 W. -/
def domainSample (s : State) (ds : List (Nat × Nat × Nat)) : State :=
  ds.foldl (fun (s : State) d => if d.1 < 80 then
    modRegion s d.1 (fun g => { g with volts := d.2.1 % 4096, power := min 0xFFFF (d.2.1 * d.2.2 / 250000) }) else s) s

/-- A 100 µs sample. A board power above 9,000 W raises the device setting by 4 at once, in hardware. -/
def sampleOpP (s : State) (cvA cvB maA maB : Nat) (ds : List (Nat × Nat × Nat)) : State :=
  let w := boardWatts cvA cvB maA maB
  let s := domainSample (setPow s { s.pow with cvA := cvA % 65536, cvB := cvB % 65536, board := min 0xFFFF w }) ds
  if w ≤ 9000 then s
  else
    let k := min 16 (s.pow.dev.k + 4)
    let s := setPow s { s.pow with fast := true, dev := { s.pow.dev with k := k, lastChange := hgNow s } }
    forceSettings (setEvent s .pwEvent 0 2) k

def execPowerSample (feedA feedB amilliA amilliB : Nat) (domains : List (Nat × Nat × Nat)) (s : State) : Host.Outcome State Fault Refusal :=
  .next (sampleOpP s feedA feedB amilliA amilliB domains)

/-! ### The control law (R413-R415) -/

/-- What one millisecond of the control law does to a scope: the new scope, whether the setting rose, the class shed or restored
(1 junior, 2 standard) and whether it was restored. -/
structure CtlOut where
  sc : Scope
  up : Bool
  cls : Nat
  back : Bool
deriving DecidableEq, Repr

/-- control(scope) of R413, in its order. `hold` keeps the setting at 16 during an emergency. -/
def controlLaw (p : Scope) (a pms pwin now : Nat) (hold : Bool) : CtlOut :=
  let high := decide (99 * a < 100 * pwin) && decide (98 * a ≤ 100 * pms)
  let up := high && decide (p.k < 16)
  let p1 : Scope :=
    if high then
      (if p.k < 16 then { p with k := p.k + 1, lastChange := now } else { p with overs := p.overs + 1 })
    else
      let p := { p with overs := 0 }
      if !hold && decide (100 * pwin < 95 * a) && decide (100 * pms < 95 * a) && decide (p.lastChange + msCycles 10 ≤ now) && decide (0 < p.k) then
        { p with k := p.k - 1, lastChange := now }
      else p
  let shedJ := decide (50 ≤ p1.overs) && !p1.shedJ
  let shedS := !shedJ && decide (200 ≤ p1.overs) && !p1.shedS
  let p2 : Scope := if shedJ then { p1 with shedJ := true, overs := 0 } else if shedS then { p1 with shedS := true, overs := 0 } else p1
  let low : Nat := if 100 * pwin < 85 * a then p2.lowFor + 1 else 0
  let p3 : Scope := { p2 with lowFor := low, peak := max p2.peak pms }
  let back := decide (1000 ≤ low) && (p3.shedS || p3.shedJ)
  let p4 : Scope := if back then (if p3.shedS then { p3 with shedS := false } else { p3 with shedJ := false }) else p3
  ⟨p4, up, if shedJ then 1 else if shedS then 2 else if back then (if p3.shedS then 2 else 1) else 0, back && !shedJ && !shedS⟩

/-- A class has been shed: its sequences that have not started complete with REFUSED_ALLOTMENT; those in flight do so at their next step
boundary (R321). -/
def endShed (s : State) : State :=
  endAll s .refusedAllotment ((s.head.seqs.filter (fun e => e.2.st ≠ .flight && clsShed s e.2.part e.2.cls)).map Prod.fst)

/-- One run of the control law for the device or a partition, with its events. -/
def controlOp (s : State) (part : Option Nat) (pms pwin : Nat) : State :=
  let sc : Option Scope := match part with
    | none => some s.pow.dev
    | some p => (getPart s p).map (·.pow)
  match sc with
  | none => s
  | some sc =>
    let put := fun (s : State) (x : Scope) => match part with
      | none => setPow s { s.pow with dev := x, winMean := min 0xFFFF pwin }
      | some p => match getPart s p with
        | none => s
        | some v => setPart s p { v with pow := x }
    if s.head.reload = 2 then s
    else match sc.allot with
      | none => put s { sc with peak := max sc.peak pms }
      | some a =>
        let o := controlLaw sc a pms pwin (hgNow s) (part.isNone && s.pow.emergency)
        let s := put s o.sc
        let s := setEventIf o.up s .pwEvent 0 0
        let s := if o.cls = 0 then s
          else report (setEventIf (!o.back) s .pwEvent 0 1) 0x0008 0 part (if part.isNone then 0xFFFF else 0) (o.cls + 256 * b2n o.back)
        let s := if o.cls = 0 || o.back then s else endShed s
        if o.sc.shedJ && o.sc.shedS && decide (a < pwin) then setPow s { s.pow with overrun := (s.pow.overrun + 1) % 2 ^ 32 } else s

def execAllotmentControl (part : Option Nat) (meanMs meanWin : Nat) (s : State) : Host.Outcome State Fault Refusal :=
  .next (controlOp s part meanMs meanWin)

/-- The once-per-second report of an overrun with both other classes shed. -/
def overrunOp (s : State) (part : Option Nat) (mean : Nat) : State :=
  let sc : Option Scope := match part with
    | none => some s.pow.dev
    | some p => (getPart s p).map (·.pow)
  match sc.bind (fun x => x.allot.map (fun a => (x, a))) with
  | some (x, a) =>
    let spaced := x.overrunAt.all (fun t => decide (t + secCycles 1 ≤ hgNow s))
    if x.shedJ && x.shedS && decide (a < mean) && spaced then
      let x := { x with overrunAt := some (hgNow s) }
      let s : State := match part with
        | none => setPow s { s.pow with dev := x }
        | some p => match getPart s p with
          | none => s
          | some v => setPart s p { v with pow := x }
      report s 0x0009 0 part (if part.isNone then 0xFFFF else 0) (mean + 2 ^ 32 * a)
    else s
  | none => s

def execOverrunReport (part : Option Nat) (mean : Nat) (s : State) : Host.Outcome State Fault Refusal := .next (overrunOp s part mean)

/-! ### Metering (R419-R422, R430) -/

/-- Modelled energy of a scope in this window, in units of 2^-8 fJ. -/
def modelledUnits (s : State) (k : Nat) : Nat :=
  ((List.range 16).map (fun i => tgetD s.pow.events (k * 16 + i) 0 * (rawReg s .pwCoef 0 i).toNat)).sum

/-- Units of 2^-8 fJ as whole µJ under a factor. -/
def microJ (u : Nat) (f : Rat) : Nat := (f * (u : Rat) / 256000000000).floor.toNat

/-- Body of Table PWR-5. -/
def powerBody (s : State) (scope : Nat) (sc : Scope) (metered modelled : Nat) : List Byte :=
  [BitVec.ofNat 8 scope, BitVec.ofNat 8 sc.k, BitVec.ofNat 8 (b2n sc.shedJ + 2 * b2n sc.shedS + 4 * b2n s.pow.emergency), 0] ++
    leBytes 4 s.pow.dev.window ++ leBytes 8 metered ++ leBytes 8 modelled ++ leBytes 4 (s.pow.scale * 65536 + 1 / 2).floor.toNat ++ leBytes 4 sc.peak

/-- Share of the partition's remaining energy that falls to a sequence for its counted cycles (R422), in fJ. -/
def shareAll (s : State) : State :=
  let seqs : Tab Sequ := s.head.seqs.map (fun e => (e.1, { e.2 with energy := e.2.energy + seqShare s e.2, cyc := 0 }))
  let parts : Tab Partition := s.head.parts.map (fun e => (e.1, { e.2 with cyc := 0 }))
  { s with head := { s.head with seqs := seqs, parts := parts } }

/-- The end of the device window: the scale factor, the records of every scope, and the counts of the next window. -/
def windowEndOp (s : State) (input : Nat) : State :=
  let all := (List.range 61).map (fun k => (k, modelledUnits s k))
  let total := (all.map Prod.snd).sum
  let d := drawFresh s
  let raw : Rat := if total = 0 then 1 / 2 + ((Config.freeWord d.1).toNat % 98305 : Nat) / 65536 else (input : Rat) * 256000000000 / (total : Rat)
  let f := max (1 / 2) (min 2 raw)
  -- the largest 1 ms mean of the unowned energy is left open
  let s := d.2
  let peak := (Config.freeWord (d.1 + 1)).toNat
  let s : State := { s with fresh := s.fresh + 1 }
  let s := shareAll s
  let s := setPow s { s.pow with scale := f }
  let s := if raw = f then s else report s 0x000A 0 none 0 (min (2 ^ 32 - 1) (raw * 65536).floor.toNat)
  let s := s.head.parts.foldl (fun (s : State) e =>
    let u := ((all[e.1]?).map Prod.snd).getD 0
    telemeter s 0x13 78 (some e.1) (powerBody s e.1 e.2.pow (microJ u f) (microJ u 1))) s
  let u := ((all[60]?).map Prod.snd).getD 0
  let s := telemeter s 0x13 78 none (powerBody s 0xFE { Scope.partition with peak := peak } (microJ u f) (microJ u 1))
  let s := telemeter s 0x13 78 none (powerBody s 0xFF s.pow.dev (microJ total f) input)
  let parts : Tab Partition := s.head.parts.map (fun e => (e.1, { e.2 with pow := { e.2.pow with peak := 0 } }))
  let s : State := { s with head := { s.head with parts := parts } }
  setPow s { s.pow with events := [], fast := false, dev := { s.pow.dev with peak := 0 } }

def execAllotmentWindowEnd (inputUj : Nat) (s : State) : Host.Outcome State Fault Refusal := .next (windowEndOp s inputUj)

/-! ### A field's pool at a power-off (R426) -/

/-- Pinned ranges of a field are lost: each owning partition is told, and the matrices pinned there wait for the field. -/
def poolLost (s : State) (f : Nat) : State :=
  let s := (getField s f).ranges.foldl (fun (s : State) e =>
    if e.2.mode = 1 then report s 0x000D St.regionShed.code (some e.2.part) f (e.2.first + 4096 * e.2.stripes) else s) s
  let s := (s.passes.filter (fun p => p.2.field == some f)).foldl (fun (s : State) p => endTaskSeq s p.2.core .regionShed 0) s
  let pins : Tab Pin := s.head.pins.map (fun e => if e.2.field = some f then (e.1, { e.2 with lost := true }) else e)
  { s with head := { s.head with pins := pins } }

def setDark (s : State) (f : Nat) (d : Bool) : State := setField s f { getField s f with dark := d }

/-- A field returns: lit, routed, its matrices pinned again (R426, R404). -/
def fieldBack (s : State) (f : Nat) : State :=
  let s := recompute (setDark (domainOn s (60 + f)) f false) true
  repinAll s none (hgNow s) (fun p => p.lost && (p.field == some f || p.core.any (fun c => coreField c == f)))

/-! ### Phase groups (R403, R404) -/

/-- Latches of a group within 24 h of the always-on count, the new one among them. -/
def latchesNow (s : State) (g : Nat) : List Nat :=
  let now := (getRegion s 79).count
  ((getVGroup s g).latches.filter (fun t => decide (now < t + hourCycles 24))) ++ [now]

/-- A cluster or field group at its current limit latches off, and its domain loses power without a drain. -/
def domainLatch (s : State) (g : Nat) : State :=
  let ls := latchesNow s g
  let again := decide (2 ≤ ls.length)
  let s := setVGroup s g { getVGroup s g with off := true, offAt := hgNow s, latches := ls, stay := again }
  let s := setEvent s .pwEvent 0 7
  if g < 60 then
    let s := clusterOff s g
    let s := if again then appendEntries s ((clusterCores g).map (ledgerEntry 1 6)) else s
    report s 0x001B 0 none g ls.length
  else
    let f := g - 60
    let s := (fieldClusters f).foldl clusterOff s
    let s := fieldOff (poolLost s f) f
    let s := if again then appendEntries s [ledgerEntry 0xE 6 f] else s
    let s := recompute (setDark s f true) true
    report s 0x001B (if again && routeMissing s then St.topologyMismatch.code else 0) none g ls.length

/-- The domain of a latched group is powered again after 100 ms, a field before its clusters. -/
def repowerOp (s : State) (g : Nat) : State :=
  let v := getVGroup s g
  if !v.off || v.stay || 72 ≤ g || hgNow s < v.offAt + msCycles 100 || s.head.reload = 2 then s
  else
    let s := setVGroup s g { v with off := false }
    if g < 60 then (if (getRegion s (60 + g / 5)).powered then domainOn s g else s)
    else (fieldClusters (g - 60)).foldl (fun (s : State) c => if (getVGroup s c).stay || (getRegion s c).shed then s else domainOn s c) (fieldBack s (g - 60))

def execPhaseGroupRepower (group : GroupId) (s : State) : Host.Outcome State Fault Refusal := .next (repowerOp s group)

/-! ### Temperatures (R423-R425, Table PWR-4) -/

/-- Thresholds of a sensor, °C: warn, step, shed, trip. -/
def thresholds (i : Nat) : Nat × Nat × Nat × Nat := if i < 72 then (95, 100, 105, 115) else (85, 95, 100, 105)

/-- Since when a reading holds a level. -/
def holdSince (t : Int) (th now : Nat) (was : Option Nat) : Option Nat :=
  if (16 * th : Int) ≤ t then (match was with
    | some x => some x
    | none => some now) else none

/-- Since when a reading lies at least 3 °C below a level. -/
def coolSince (t : Int) (th now : Nat) (was : Option Nat) : Option Nat :=
  if t ≤ 16 * ((th : Int) - 3) then (match was with
    | some x => some x
    | none => some now) else none

/-- A level that has been cool for 1 s stops acting. -/
def stillActs (acts : Bool) (cool : Option Nat) (now : Nat) : Bool :=
  acts && (match cool with
    | some t => decide (now < t + secCycles 1)
    | none => true)

/-- One reading, in 1/16 °C. -/
def senseOne (x : Sensor) (i : Nat) (t : Int) (now : Nat) : Sensor :=
  let th := thresholds i
  let cw := coolSince t th.1 now x.coolWarn
  let ct := coolSince t th.2.1 now x.coolStep
  let cs := coolSince t th.2.2.1 now x.coolShed
  { t := t, high := max x.high (t / 16), warn := stillActs x.warn cw now, step := stillActs x.step ct now, shed := stillActs x.shed cs now,
    warnSince := holdSince t th.1 now x.warnSince, stepSince := holdSince t th.2.1 now x.stepSince,
    shedSince := holdSince t th.2.2.1 now x.shedSince, coolWarn := cw, coolStep := ct, coolShed := cs,
    below95 := if t < 16 * 95 then (match x.below95 with
      | some y => some y
      | none => some now) else none }

def temperatureOp (s : State) (rs : List (Nat × Int)) : State :=
  rs.foldl (fun (s : State) r => if r.1 < 96 then setSensor s r.1 (senseOne (getSensor s r.1) r.1 r.2 (hgNow s)) else s) s

def execTemperatureSample (readings : List (Nat × Int)) (s : State) : Host.Outcome State Fault Refusal := .next (temperatureOp s readings)

/-- A level is due: held for 1 ms and not yet acting. -/
def levelDue (acts : Bool) (since : Option Nat) (now : Nat) : Bool :=
  !acts && (match since with
    | some t => decide (t + msCycles 1 ≤ now)
    | none => false)

/-- The levels of a sensor that are due begin to act, each with its event record. -/
def levelOp (s : State) (i : Nat) : State :=
  if s.head.reload = 2 then s
  else
    let x := getSensor s i
    let now := hgNow s
    let w := levelDue x.warn x.warnSince now
    let t := levelDue x.step x.stepSince now
    let d := levelDue x.shed x.shedSince now
    let c := (x.t / 16 % 256).toNat
    let s := setSensor s i { x with warn := x.warn || w, step := x.step || t, shed := x.shed || d }
    ([(w, 1), (t, 2), (d, 3)] : List (Bool × Nat)).foldl (fun (s : State) (e : Bool × Nat) =>
      if e.1 then report s 0x000B 0 none i (e.2 + 256 * c) else s) s

def execThermalLevelAct (sensor : SensorId) (s : State) : Host.Outcome State Fault Refusal := .next (levelOp s sensor)

/-- A region is at the step level: its own sensor's, or for a cluster its field's basin sensor's. -/
def atStep (s : State) (r : Nat) : Bool := (getSensor s r).step || (decide (r < 60) && (getSensor s (60 + r / 5)).step)

/-- The thermal setting rises by one every 1 ms at the step level, and falls by one every 10 ms after. -/
def ladderOp (s : State) (r : Nat) : State :=
  let g := getRegion s r
  let now := hgNow s
  if 72 ≤ r || s.head.reload = 2 then s
  else if atStep s r then
    (if g.lastStep ≠ 0 ∧ now < g.lastStep + msCycles 1 then s else setRegion s r { g with thermal := min 16 (g.thermal + 1), lastStep := now })
  else if g.thermal = 0 ∨ now < g.lastStep + msCycles 10 then s
  else setRegion s r { g with thermal := g.thermal - 1, lastStep := now }

def execThermalLadderStep (region : RegionId) (s : State) : Host.Outcome State Fault Refusal := .next (ladderOp s region)

/-! ### Shedding (R426, R427) -/

/-- A sensor reads 110 °C or more, which acts at once (R426). -/
def reads110 (s : State) (i : Nat) : Bool := decide (1760 ≤ (getSensor s i).t)

/-- The cluster's own sensor, or its field's basin sensor, is at the shed level or reads 110 °C. -/
def shedCalled (s : State) (cl : Nat) : Bool := [cl, 60 + cl / 5].any (fun i => (getSensor s i).shed || reads110 s i)

/-- Pipelines that hold a stage on a cluster. -/
def clusterPipes (s : State) (cl : Nat) : List Nat := (s.head.pipes.filter (fun p => p.2.live && p.2.cores.any (fun c => coreCluster c == cl))).map Prod.fst

/-- Stages on a draining cluster that stand at a boundary move by relief placement; a pipeline with one that fits nowhere is held. -/
def drainStages (s : State) (cl : Nat) : State :=
  (clusterPipes s cl).foldl (fun (s : State) key =>
    moveWhere s key 2 (fun s c => coreCluster c == cl && coreDraining s c) (fun s => match getPipe s key with
      | some q => setPipe s key { q with held := true }
      | none => s)) s

/-- Begin or go on with the shed of one cluster: no work is admitted, stages leave, and the drained cluster powers off. A reset of its
cores completes first (Table BOOT-9). -/
def shedCluster (s : State) (cl : Nat) : State :=
  let g := getRegion s cl
  if !g.powered || s.head.reload = 2 || (clusterCores cl).any (fun c => (getCore s c).resetting) then s
  else
    let s := if g.draining.isNone then setRegion s cl { g with draining := some (hgNow s) } else s
    finishShed (drainStages s cl) cl

def clusterShedOp (s : State) (cl : Nat) : State := if shedCalled s cl then shedCluster s cl else s

def execClusterShed (cluster : ClusterId) (s : State) : Host.Outcome State Fault Refusal := .next (clusterShedOp s cluster)

/-- The field's clusters are off: its cache lines go, and the domain powers off, unless R266 forbids making it dark. -/
def shedFieldDomain (s : State) (f : Nat) : State :=
  let fl := getField s f
  let cache := (fl.ranges.filter (fun e => e.2.mode == 2)).map Prod.fst
  let s := setField s f { fl with lines := fl.lines.filter (fun l => !cache.contains l.range) }
  if routeMissing (setDark s f true) && !routeMissing s then setField s f { getField s f with withheld := true }
  else
    let s := fieldOff (poolLost s f) f
    let s := modRegion s (60 + f) (fun x => { x with shed := true })
    let s := recompute (setDark s f true) true
    report (setEvent s .pwEvent 0 5) 0x000C St.regionShed.code none (60 + f) 0 (60 + f)

/-- A field is shed one cluster after another, and then its domain. -/
def fieldShedOp (s : State) (f : Nat) : State :=
  let g := getRegion s (60 + f)
  if !((getSensor s (60 + f)).shed || reads110 s (60 + f)) || !g.powered || s.head.reload = 2 || (getField s f).withheld then s
  else
    let on := fun (s : State) => (fieldClusters f).find? (fun c => (getRegion s c).powered)
    let s := match on s with
      | some c => shedCluster s c
      | none => s
    if (on s).isNone then shedFieldDomain s f else s

def execFieldShed (field : FieldId) (s : State) : Host.Outcome State Fault Refusal := .next (fieldShedOp s field)

/-- The shed of a cluster can wait no longer for a pipeline: 10 ms have passed, or the shedding sensor reads 110 °C or more. -/
def shedPressing (s : State) (cl : Nat) : Bool :=
  match (getRegion s cl).draining with
  | none => false
  | some t => decide (t + msCycles 10 ≤ hgNow s) || reads110 s cl || reads110 s (60 + cl / 5)

/-- A pipeline that keeps a shed waiting halts with REGION_SHED; its stages there move or it goes down. -/
def shedHaltOp (s : State) (key : Nat) : State :=
  match getPipe s key with
  | none => s
  | some p =>
    let cls := (p.cores.map coreCluster).eraseDups.filter (shedPressing s)
    if cls.isEmpty || p.held || !p.live || s.head.reload = 2 then s
    else
      let s := haltPipe s key .regionShed
      let s := (List.range p.cores.length).foldl (fun (s : State) i => match getPipe s key with
        | none => s
        | some q => if q.live && cls.contains (coreCluster (q.cores.getD i 0)) then moveOrDown s key i 2 else s) s
      let s := match getPipe s key with
        | none => s
        | some q => setPipe s key { q with halted := false }
      cls.foldl finishShed s

def execShedHaltTimeout (program pipe : Nat) (s : State) : Host.Outcome State Fault Refusal := .next (shedHaltOp s (pipeKey program pipe))

/-- Held pipelines all of whose cores are powered again resume (R427). -/
def resumeHeld (s : State) : State :=
  s.head.pipes.foldl (fun (s : State) e =>
    if e.2.held && e.2.cores.all (fun c => (getRegion s (coreRegion c)).powered && (getRegion s (coreRegion c)).draining.isNone) then
      setPipe s e.1 { e.2 with held := false } else s) s

/-- The sensor has read below 95 °C for 1 s. -/
def coolEnough (s : State) (i : Nat) : Bool :=
  match (getSensor s i).below95 with
  | some t => decide (t + secCycles 1 ≤ hgNow s)
  | none => false

/-- A shed domain returns with a thermal setting of 4. A cluster waits for its field. -/
def shedReturnOp (s : State) (d : Nat) : State :=
  if !coolEnough s d || s.head.reload = 2 then s
  else if 60 ≤ d && (getField s (d - 60)).withheld then setField s (d - 60) { getField s (d - 60) with withheld := false }
  else if !(getRegion s d).shed || (d < 60 && !(getRegion s (60 + d / 5)).powered) || (d < 60 && (getSensor s (60 + d / 5)).shed) then s
  else
    let s := if d < 60 then domainOn s d else fieldBack s (d - 60)
    let s := modRegion s d (fun g => { g with thermal := 4, lastStep := hgNow s })
    let s := resumeHeld s
    report s 0x000C 0 none d 1 d

def execShedReturn (domain : Fin 72) (s : State) : Host.Outcome State Fault Refusal := .next (shedReturnOp s domain)

end Sys2Proof.Machine
end

