-- ==== Sys2Proof/Machine/Boot.lean ====
section
/-!
DEFINITION. Boot and resets (17_bringup, R432-R450, R454, R460): the phases of Table BOOT-1, device reset, the hardware trip and the loss
of power.
-/
namespace Sys2Proof.Machine

/-! ### Losing the domains (R418, R428, R448) -/

/-- Boot-block registers of the always-on domain that are stored words. -/
def alwaysOnRegs : List Reg := [.hgImgLo, .hgImgHi, .hgImgLen, .hgBlkLo, .hgBlkHi, .hgBootEvent]

/-- Undefined HBM and basin contents. -/
def memoryLost (s : State) : State :=
  undefine (undefine s 0 hbmTop) 0x100000000000 (0x100000000000 + 12 * 0x80000000)

/-- What an Ethernet port keeps without its domain: its identity address, and the boots at which each lane has failed. -/
def portOff (s : State) (p : Nat) : EthPort := { EthPort.reset with failedBoots := (getPort s p).failedBoots, addr := s.fuses.ethBase + p }

/-- Boot state as the domains other than the always-on domain go. -/
def bootOff (b : Boot) : Boot :=
  { b with rotated := [], fetched := [], block := [], verified := false, measure := 0, slot := 0, imgSvn := 0, fwver := 0, revoke := 0,
           commit := false, fuseDue := false, ready := false, decided := false, stacksOk := false, ethDone := [], surveyed := false,
           lanesDone := false, hbmDone := false, scrubbed := false, newEntries := [], ptr := 0, bvState := 0,
           bvWidth := 0, bvTries := 0, bvReversed := false, hgState := 0 }

/-- Every domain but the always-on domain goes off: fuses, the ledger, the companion's memory and the always-on state stand. -/
def dropDomains (s : State) : State :=
  let m := memoryLost s
  let p := s.pow
  let keep := alwaysOnRegs.map (fun r => r.addr 0 0)
  { State.reset with
    pending := s.pending, fresh := m.fresh, regs := s.regs.filter (fun e => keep.contains e.1), mem := m.mem,
    head := { Head.reset with ledger := s.head.ledger },
    clk := { Clocks.reset with refPresent := s.clk.refPresent, regions := s.clk.regions.filter (fun e => e.1 == 79) },
    pow := { Power.reset with
      presentA := p.presentA, presentB := p.presentB, cvA := p.cvA, cvB := p.cvB, brake := p.brake, cutA := p.cutA, cutB := p.cutB,
      tripSensor := p.tripSensor, tripped := p.tripped, tripC := p.tripC, trips := p.trips,
      sensors := p.sensors.map (fun e => (e.1, { Sensor.reset with t := e.2.t })), groups := p.groups.filter (fun e => e.1 == 72) },
    fuses := s.fuses, boot := bootOff s.boot, ports := (List.range 16).map (fun i => (i, portOff s i)) }

/-- Every sensor reads below 95 °C. -/
def allCool (s : State) : Bool := s.pow.sensors.all (fun e => decide (e.2.t < 16 * 95))

/-- A latched trip of a sensor clears, at the release of RESET_N where it is low (R428, R469); the state of group 72 ends only when both feeds are removed (R404). -/
def clearTrip (s : State) : State :=
  if s.pow.tripped && s.pow.tripSensor != 0x7E && allCool s then
    setPow s { s.pow with tripped := false, tripSensor := 0x7F, tripC := 0 } else s

/-- A device reset (R448, R450, Table BOOT-7): everything is dropped and the boot starts again from B2. -/
def deviceResetOp (s : State) : State :=
  if !s.boot.vaon then s
  else
    let s := setReg (dropDomains s) .hgBootEvent 0 0
    let s := setBoot s { s.boot with phase := 0, status := 0, outcome := 0, failures := 0, ms := 0, b5Ms := 0, strict := false, ledgerOk := false,
                                     presented := 0, appended := 0, partialResets := 0, deviceResets := s.boot.deviceResets + 1,
                                     startAt := (getRegion s 79).count,
                                     halted := s.pow.tripped && s.pow.tripSensor == 0x7E }
    setPins (if s.boot.resetLow then s else clearTrip s)

def execDeviceReset (s : State) : Host.Outcome State Fault Refusal := .next (deviceResetOp s)

/-- RESET_N low for 10 µs or more starts a device reset, and holds it at B2 (R469). -/
def resetLowOp (s : State) (ns : Nat) : State :=
  if ns < 10000 then s else deviceResetOp (setBoot s { s.boot with resetLow := true })

def execResetNAssert (lowNs : Nat) (s : State) : Host.Outcome State Fault Refusal := .next (resetLowOp s lowNs)

/-- RESET_N high again: with every sensor below 95 °C it also clears a latched trip. -/
def resetHighOp (s : State) : State :=
  if s.boot.resetLow then setPins (clearTrip (setBoot s { s.boot with resetLow := false })) else s

def execResetNRelease (s : State) : Host.Outcome State Fault Refusal := .next (resetHighOp s)

/-- Power is lost: only fuses, the ledger, the counts since manufacture and the companion's memory stand. -/
def powerLoss (s : State) : State :=
  let d := dropDomains s
  { d with regs := [], clk := { Clocks.reset with refPresent := s.clk.refPresent }, pow := { Power.reset with trips := s.pow.trips },
           boot := { Boot.reset with deviceResets := s.boot.deviceResets } }

/-- Both feeds absent for more than 50 µs: VCORE collapses, and nothing is saved (R418). -/
def bothLostOp (s : State) (ns : Nat) : State :=
  if s.pow.presentA || s.pow.presentB || ns ≤ 50000 then s else powerLoss s

def execBothFeedsLost (absentNs : Nat) (s : State) : Host.Outcome State Fault Refusal := .next (bothLostOp s absentNs)

/-- The waves in reverse order, VAON last (R406); the feeds stand. -/
def powerDownOp (s : State) : State :=
  if !s.boot.vaon then s
  else
    let d := powerLoss s
    let p := s.pow
    setPow d { d.pow with presentA := p.presentA, presentB := p.presentB, cvA := p.cvA, cvB := p.cvB, brake := p.brake,
                          cutA := p.cutA, cutB := p.cutB }

def execOrderlyPowerDown (s : State) : Host.Outcome State Fault Refusal := .next (powerDownOp s)

/-- A sensor at its trip level removes every rail but VAON, and the trip latches (R428). -/
def tripOp (s : State) (i celsius : Nat) : State :=
  if !s.boot.vaon || s.boot.halted || celsius < (thresholds i).2.2.2 then s
  else
    let s := dropDomains s
    let s := setPow s { s.pow with tripped := true, tripSensor := i, tripC := min 255 celsius, trips := min 0xFFFF (s.pow.trips + 1),
                                   sensors := tput s.pow.sensors i { Sensor.reset with t := 16 * celsius } }
    setPins (setBoot s { s.boot with halted := true, ibi := s.boot.ibi + 1 })

def execHardwareTrip (sensor : SensorId) (celsius : Nat) (s : State) : Host.Outcome State Fault Refusal := .next (tripOp s sensor celsius)

/-- A phase group at its current limit for 10 µs (R404). Group 72 brings the device down: to a device reset, and the second time
within 24 h to a hold at B1. -/
def latchOp (s : State) (g : Nat) : State :=
  if g < 72 then (if (getRegion s g).powered && !(getVGroup s g).off then domainLatch s g else s)
  else if !s.boot.vaon || s.boot.halted then s
  else
    let ls := latchesNow s 72
    let s := setVGroup s 72 { getVGroup s 72 with latches := ls, stay := decide (2 ≤ ls.length) }
    if ls.length < 2 then deviceResetOp s
    else
      let s := dropDomains s
      let s := setPow s { s.pow with tripped := true, tripSensor := 0x7E, tripC := 0 }
      setPins (setBoot s { s.boot with halted := true, ibi := s.boot.ibi + 1 })

def execPhaseGroupLatch (group : GroupId) (s : State) : Host.Outcome State Fault Refusal := .next (latchOp s group)

/-! ### B1 to B4 (R432, R405, R382) -/

/-- B1: VAON is good; REFSEL and the I3C address are sampled (R466, R467). -/
def vaonOp (s : State) (refsel addr1 addr0 : Bool) : State :=
  if s.boot.vaon || !(s.pow.presentA || s.pow.presentB) then s
  else
    let s := setRegion s 79 { Region.reset with powered := true, running := true, locked := s.clk.refPresent, out := true }
    let s := setBoot s { s.boot with vaon := true, refsel := refsel, addr := 0x30 + 2 * b2n addr1 + b2n addr0, startAt := 0 }
    checkEmergency s

def execVaonGood (refsel addr1 addr0 : Bool) (s : State) : Host.Outcome State Fault Refusal := .next (vaonOp s refsel addr1 addr0)

/-- B2: domain 78 is powered and its generator locks, unless RESET_N is low, a trip is latched on a hot device, or the device is held. -/
def headgateUpOp (s : State) : State :=
  if !s.boot.vaon || (getRegion s 78).powered || s.boot.resetLow || s.boot.halted || (s.pow.tripped && !allCool s) then s
  else checkEmergency (lockOp (domainOn s 78) 78)

def execHeadgatePowerUp (s : State) : Host.Outcome State Fault Refusal := .next (headgateUpOp s)

/-- Domains of a rotation wave, counted from 0 (Table PWR-2); a cluster whose four cores are all fallow is skipped (R406), and so is one
whose field is off (R29) and a field that stays off after a second latch (R404). -/
def waveDomains (s : State) (w : Nat) : List Nat :=
  match w with
  | 0 => [77]
  | 1 => [72, 73, 74, 75]
  | 2 => [76]
  | 3 => ((List.range 6).map (60 + ·)).filter (fun d => !(getVGroup s d).stay)
  | 4 => ((List.range 6).map (66 + ·)).filter (fun d => !(getVGroup s d).stay)
  | n => ((List.range 20).map ((n - 5) * 20 + ·)).filter (fun cl =>
      (getRegion s (60 + cl / 5)).powered && !(clusterCores cl).all (coreFallow s))

/-- The wave before has left reset, at least 1 ms after it started. -/
def waveReady (s : State) (w : Nat) : Bool :=
  w == 0 || ((waveDomains s (w - 1)).all (fun d => (getRegion s d).out) &&
    (match s.boot.rotated.getLast? with
      | some t => decide (t + msCycles 1 ≤ hgNow s)
      | none => false))

def waveOp (s : State) (w : Nat) : State :=
  if !(getRegion s 78).out || s.boot.rotated.length ≠ w || !waveReady s w then s
  else
    let s := setBoot s { s.boot with rotated := s.boot.rotated ++ [hgNow s] }
    (waveDomains s w).foldl domainOn s

def execRotationWave (wave : Fin 8) (s : State) : Host.Outcome State Fault Refusal := .next (waveOp s wave)

/-- The last wave has left reset. -/
def rotationDone (s : State) : Bool := s.boot.rotated.length == 8 && (List.range 8).all (fun w => (waveDomains s w).all (fun d => (getRegion s d).out))

def generatorLockOp (s : State) (r : Nat) : State :=
  let s := lockOp s r
  if s.boot.phase = 0 ∧ rotationDone s = true then setBoot s { s.boot with phase := 1 } else s

def execGeneratorLock (region : RegionId) (s : State) : Host.Outcome State Fault Refusal := .next (generatorLockOp s region)

/-- Width by the lanes that pass (R332): all 16, lanes 0-7, else 8-15. -/
def bvWidthOf (lanes : Nat) : Nat := if lanes = 0xFFFF then 3 else if lanes % 256 = 255 then 1 else if lanes / 256 = 255 then 2 else 0

/-- One training attempt of the Brivlink: Active at some width, or one attempt of three used up. -/
def trainBv (s : State) (lanes : Nat) (reversed : Bool) (inverted : Nat) : State :=
  let w := bvWidthOf lanes
  let tries := s.boot.bvTries + 1
  let s := setReg s .lkBvLanes 0 (w32 (lanes + 65536 * inverted))
  if w = 0 then setPins (setBoot s { s.boot with bvTries := min 3 tries, bvState := if 3 ≤ tries then 7 else 1, bvWidth := 0, bvReversed := reversed })
  else
    let narrowed := s.boot.decided && w != 3
    let first := !s.boot.decided && decide (s.boot.phase < 2)
    let s := setBoot s { s.boot with bvTries := min 3 tries, bvState := 5, bvWidth := w, bvReversed := reversed,
                                     phase := if first then 2 else s.boot.phase, b5At := if first then hgNow s else s.boot.b5At }
    setPins (if narrowed then report s 0x001A St.linkDegraded.code none 0 w else s)

/-- B4, and a training after the link was down with the reference (R385). -/
def bvTrainingOp (s : State) (lanes : Nat) (reversed : Bool) (inverted : Nat) : State :=
  if !(getRegion s 77).out || !s.clk.refPresent || companionUp s || 3 ≤ s.boot.bvTries then s
  else trainBv s lanes reversed inverted

def execBrivlinkTraining (lanes : BitVec 16) (reversed : Bool) (inverted : BitVec 16) (s : State) : Host.Outcome State Fault Refusal :=
  .next (bvTrainingOp s lanes.toNat reversed inverted.toNat)

/-! ### B5 and B6 (R433, R434, R453) -/

/-- The go bit: in B5 only. -/
def goOp (s : State) : State :=
  if s.boot.phase ≠ 2 || !companionUp s then s
  else setBoot s { s.boot with phase := 3, hgState := 1, fetched := [], block := [], verified := false,
                               b5Ms := s.boot.b5Ms + (hgNow s - s.boot.b5At) / msCycles 1 }

def execBootGo (s : State) : Host.Outcome State Fault Refusal := .next (goOp s)

def execBootCtlDeviceReset (s : State) : Host.Outcome State Fault Refusal := .next (deviceResetOp s)

/-- A failed verification returns to B5 with AUTH_FAIL. -/
def verifyFailed (s : State) : State :=
  setEvent (setBoot s { s.boot with phase := 2, hgState := 0, status := St.authFail.code, failures := s.boot.failures + 1, b5At := hgNow s,
                                    fetched := [], block := [] }) .hgBootEvent 0 1

/-- Companion address in a pair of registers. -/
def compAt (s : State) (lo hi : Reg) : Nat := (rawReg s lo 0).toNat + 2 ^ 32 * (rawReg s hi 0).toNat

/-- B6: the image and the boot block are read into the private memory. -/
def fetchOp (s : State) : State :=
  let n := (rawReg s .hgImgLen 0).toNat
  let blk := compAt s .hgBlkLo .hgBlkHi
  if s.boot.phase ≠ 3 || !companionUp s then s
  else if 0x1000000 < n then verifyFailed s
  else setBoot s { s.boot with fetched := mreads s.mem (3 * 2 ^ 44 + compAt s .hgImgLo .hgImgHi) n,
                               block := if blk = 0 then [] else mreads s.mem (3 * 2 ^ 44 + blk) 128 }

def execImageFetch (s : State) : Host.Outcome State Fault Refusal := .next (fetchOp s)

/-- B6: verification. An image that verifies after a reload whose step 5 failed completes that reload (R357). -/
def verifyOp (s : State) : State :=
  if s.boot.phase ≠ 3 || s.boot.hgState ≠ 1 then s
  else if !imageOk s s.boot.fetched then verifyFailed s
  else
    let t := startImage s s.boot.fetched
    if s.head.reload = 2 then
      reloadDone (setBoot t { t.boot with phase := 8, status := t.boot.outcome, verified := true, ready := t.boot.outcome != St.topologyMismatch.code })
    else setBoot t { t.boot with phase := 4, status := 0, verified := true }

def execImageVerify (s : State) : Host.Outcome State Fault Refusal := .next (verifyOp s)

/-! ### B7 to B12 (R435-R442) -/

/-- A boot block of version 1. -/
def blockGiven (b : List Byte) : Bool := b.length == 128 && bytesNat b 0 1 == 1

/-- A pattern-log entry from its bytes (Table CHK-5). -/
def plogOf (b : List Byte) : PEntry :=
  let w := bytesNat b 4 1
  { seq := bytesNat b 0 2, unit := bytesNat b 2 2 % 512, cls := w % 4, twin := w / 4 % 2, half := w / 8 % 4, mode := w / 32 % 4,
    located := w.testBit 7, wfmt := bytesNat b 5 1 % 16, xfmt := bytesNat b 5 1 / 16, cube := bytesNat b 6 1,
    row := bytesNat b 7 2 % 512, col := bytesNat b 7 2 / 512, pass := bytesNat b 9 2, region := bytesNat b 11 2, count := bytesNat b 13 6,
    entering := w32 (bytesNat b 19 4), observed := w32 (bytesNat b 23 4), expected := w32 (bytesNat b 27 4),
    acts := (b.drop 64).take 256, weights := (b.drop 320).take 512, blocks := (b.drop 832).take 64 }

/-- The pattern log as the companion's copy has it. -/
def plogCopy (s : State) (b : List Byte) : List PEntry :=
  let a := bytesNat b 8 8
  if a = 0 then [] else (List.range (min 64 (bytesNat b 16 1))).map (fun i => plogOf (mreads s.mem (3 * 2 ^ 44 + a + 2048 * i) 2048))

/-- The suspect counts as the companion's copy has them: 240 cores, then 384 blocks. -/
def suspectCopy (s : State) (b : List Byte) : Tab Nat :=
  let a := bytesNat b 24 8
  if a = 0 then []
  else ((mreads s.mem (3 * 2 ^ 44 + a) 624).zip (List.range 624)).filterMap (fun e =>
    if e.1 = 0 then none else some (if e.2 < 240 then e.2 else 256 + (e.2 - 240), min 3 e.1.toNat))

/-- B7: the firmware starts, takes the boot block's settings, and restores the pattern log and the suspect counts. -/
def firmwareStartOp (s : State) : State :=
  if s.boot.phase ≠ 4 || !s.boot.verified || s.boot.hgState ≠ 1 then s
  else
    let b := s.boot.block
    let given := blockGiven b
    let pl := if given then plogCopy s b else []
    let s := setBoot s { s.boot with hgState := 2, strict := given && (bytesNat b 1 1).testBit 0,
                                     expected := if given then bytesNat b 2 2 else 0xFFFF }
    { s with head := { s.head with plog := pl, plogNext := (pl.getLast?.map (fun e => e.seq + 1)).getD 0,
                                   suspects := if given then suspectCopy s b else [] } }

def execFirmwareStart (s : State) : Host.Outcome State Fault Refusal := .next (firmwareStartOp s)

/-- New entries of the start-up survey act at once and are programmed at B12. -/
def foundEntries (s : State) (es : List W32) : State := setBoot s { s.boot with newEntries := s.boot.newEntries ++ es }

/-- An Ethernet port is wholly fallow. -/
def portFallow (s : State) (p : Nat) : Bool := fallowLanes s p == 255

/-- B10 starts: every expected port negotiates, unless it is fallow. -/
def startPorts (s : State) : State :=
  (List.range 16).foldl (fun (s : State) p =>
    if s.boot.expected.testBit p then
      (if portFallow s p then setBoot (setPort s p { getPort s p with st := 5 }) { s.boot with ethDone := s.boot.ethDone ++ [p] }
       else setPort s p { getPort s p with st := 1 })
    else s) s

/-- B8: lanes are surveyed and the via tables computed. -/
def laneSurveyOp (s : State) (found : List W32) : State :=
  if s.boot.phase ≠ 4 || s.boot.hgState ≠ 2 || s.boot.lanesDone then s
  else
    let s := recompute (foundEntries s found) true
    startPorts (setBoot s { s.boot with lanesDone := true, phase := 5 })

def execLaneSurvey (found : List W32) (s : State) : Host.Outcome State Fault Refusal := .next (laneSurveyOp s found)

/-- B9: a stack is trained where none of its 32 channels failed and its side is up. -/
def hbmInitOp (s : State) (untrained : List (Nat × Nat)) (repaired : List W32) : State :=
  if !s.boot.lanesDone || s.boot.hbmDone then s
  else
    let ok := fun (k : Nat) => !untrained.any (fun u => u.1 == k) && (getRegion s (72 + k / 6)).out
    let up := (List.range 24).filter ok
    let s := foundEntries s repaired
    let s : State := { s with hbm := { s.hbm with trained := up } }
    setBoot s { s.boot with hbmDone := true, stacksOk := up.length == 24, phase := 6 }

def execHbmInitialisation (untrained : List (StackId × Fin 32)) (repaired : List W32) (s : State) : Host.Outcome State Fault Refusal :=
  .next (hbmInitOp s (untrained.map (fun u => ((u.1 : Nat), (u.2 : Nat)))) repaired)

/-- Cores that new entries make fallow under R82 and that none of them names as fallow. -/
def newlyFallow (before after : State) (found : List W32) : List Nat :=
  (List.range 240).filter (fun c => coreFallow after c && !coreFallow before c &&
    !found.any (fun e => (ledgerType e == 1 || ledgerType e == 0xC) && getBits e 0 8 == c))

/-- B11: the basin and the arrays are surveyed and the pattern log is replayed (R239, R436); a core that R82 makes fallow is appended
whole. -/
def startSurveyOp (s : State) (found : List W32) (replays : List (Nat × W32)) : State :=
  if !s.boot.hbmDone || s.boot.surveyed then s
  else
    let es := found ++ (List.range 240).flatMap (fun c => replayFinds s c replays)
    let t := foundEntries s es
    let t := foundEntries t ((newlyFallow s t es).map (ledgerEntry 1 2))
    setBoot t { t.boot with surveyed := true, phase := 7 }

def execStartUpSurvey (finds : Finds) (s : State) : Host.Outcome State Fault Refusal :=
  .next (startSurveyOp s finds.found finds.replays)

/-- B12: the next new entry is programmed. An entry of type 0x7 or 0x8 needs its continuation beside it; where too few remain
they are applied for this boot only (R439). -/
def programOp (s : State) (e : W32) : State :=
  match s.boot.newEntries with
  | [] => s
  | x :: rest =>
    if x ≠ e || !s.boot.surveyed then s
    else
      let pair := ledgerType e == 7 || ledgerType e == 8
      let n := if pair then 2 else 1
      if 4096 < s.head.ledger.length + n then
        let es := (x :: rest).take n
        let s := setBoot s { s.boot with newEntries := rest.drop (n - 1) }
        let s : State := { s with head := { s.head with ledgerNow := s.head.ledgerNow ++ es } }
        es.foldl (fun (s : State) y => report s 0x0003 0 none 0xFFFF (y.toNat * 2 ^ 32)) (setEvent s .hgBootEvent 0 3)
      else appendEntries (setBoot s { s.boot with newEntries := rest }) [e]

def execLedgerEntryProgram (entry : W32) (s : State) : Host.Outcome State Fault Refusal := .next (programOp s entry)

/-- Boot scrub (R460): HBM outside the headgate range, and every basin row, after the basin survey. -/
def bootScrubOp (s : State) : State :=
  if !s.boot.surveyed || s.boot.scrubbed then s
  else
    let s := scrub s 0 0xD7B0000000
    let s := (List.range 12).foldl (fun (s : State) f => scrub s (fieldBase f) (fieldBase f + 0x60000000)) s
    setBoot s { s.boot with scrubbed := true }

def execBootScrub (s : State) : Host.Outcome State Fault Refusal := .next (bootScrubOp s)

/-! ### B13 (R440-R443, R355) -/

/-- Outcome of a readiness check. -/
inductive Check where
  | pass | short | fail
deriving DecidableEq, Repr

/-- The ledger agrees with the companion's copy. -/
def ledgerAgrees (s : State) : Bool :=
  let b := s.boot.block
  if !blockGiven b then true
  else
    let n := bytesNat b 32 4
    n == 0 || (decide (n ≤ s.head.ledger.length) && hashBytes (ledgerHash (s.head.ledger.take n)) == (b.drop 64).take 64)

/-- The checks of Table BOOT-6. -/
def readyChecks (s : State) : List Check :=
  let n := presentedCount s
  let ports := (List.range 16).filter (fun p => s.boot.expected.testBit p)
  [if ledgerAgrees s then .pass else .fail,
   if n = s.fuses.grade then .pass else if s.fuses.grade ≤ n + 8 then .short else .fail,
   if (List.range 12).any (fun f => !fieldDark s f && ledgerHas s 0xD f 0xF) then .short else .pass,
   if s.boot.stacksOk then .pass else .fail,
   if s.boot.bvWidth = 3 then .pass else .short,
   if ports.all (fun p => (getPort s p).st == 3 && (getPort s p).width == 3) then .pass else .short,
   if routeMissing s then .fail else .pass]

/-- The readiness status: OK, READY_DEGRADED or TOPOLOGY_MISMATCH. -/
def readyStatus (cs : List Check) (strict : Bool) : St :=
  if cs.contains .fail then .topologyMismatch
  else if cs.contains .short then (if strict then .topologyMismatch else .readyDegraded)
  else .ok

/-- Partition 0 of Table HGM-11. -/
def partitionZero (s : State) : Partition :=
  { clusters := (List.range 60).filter (fun cl => (clusterCores cl).any (corePresented s)), senior := 10, standard := 60, junior := 30,
    checks := true, sample := 8, segs := [segOf (BitVec.ofNat 128 (0xD3AFFFF * 2 ^ 36 + 7 * 2 ^ 72))], ctxFirst := 4, ctxCount := 0,
    queueLimit := 4096, imgBase := 0xD3B0000000, imgBytes := 0x400000000, telFrom := s.head.telNext, pow := Scope.partition,
    vtStd := 0, vtJun := 0, vtCtx := [], sampleSkipped := 0, chkAt := hgNow s, deferH := 6, cyc := 0 }

/-- B13: B10, B11 and B12 have ended. -/
def decisionDue (s : State) : Bool :=
  s.boot.phase == 7 && !s.boot.decided && s.boot.newEntries.isEmpty &&
    (List.range 16).all (fun p => !s.boot.expected.testBit p || s.boot.ethDone.contains p)

def decideOp (s : State) : State :=
  if !decisionDue s then s
  else
    let st := readyStatus (readyChecks s) s.boot.strict
    let up := decide (st ≠ .topologyMismatch)
    let s := setBoot s { s.boot with phase := 8, decided := true, status := st.code, outcome := st.code, ready := up, presented := presentedCount s,
                                     ledgerOk := ledgerAgrees s,
                                     ms := ((getRegion s 79).count - s.boot.startAt) / msCycles 1 }
    let s := if up then addPart s 0 (partitionZero s) else s
    setPins s

def execReadinessDecision (s : State) : Host.Outcome State Fault Refusal := .next (decideOp s)

/-! ### Fuses (R454) -/

/-- After the decision, or after step 7 of a reload: the image's revocations, and its security version with the commit flag. -/
def fuseOp (s : State) : State :=
  let b := s.boot
  if !b.fuseDue || !b.decided || b.hgState ≠ 2 then s
  else
    let slots := (List.range 4).filter (fun i => b.revoke.testBit i && !s.fuses.revoked.contains i)
    setBoot { s with fuses := { s.fuses with revoked := s.fuses.revoked ++ slots,
                                             svn := if b.commit then max s.fuses.svn b.imgSvn else s.fuses.svn } } { b with fuseDue := false }

def execFuseUpdate (s : State) : Host.Outcome State Fault Refusal := .next (fuseOp s)

end Sys2Proof.Machine
end

