-- ==== Sys2Proof/Machine/RegAccess.lean ====
section
/-!
DEFINITION. The control space (13_brivlink_headgate, R341): writes of its registers with the effects that they have, reads that
latch, and the CTRL packets of the headgate complex.
-/
namespace Sys2Proof.Machine

/-! ### Writes -/

/-- hb_ilv governs the whole device: only the north block's copy takes writes, and none while locked (R276, R295). -/
def ilvOp (s : State) (side : Nat) (v : W32) : State :=
  if side ≠ 0 || regsLocked s then s else setReg s .hbIlv 0 (writeBits .hbIlv (rawReg s .hbIlv 0) v)

def execHbIlvWrite (side : SideId) (value : W32) (s : State) : Host.Outcome State Fault Refusal :=
  .next (if s.boot.vaon then ilvOp s side value else s)

/-- A legal setting of lk_bv_win (R335): at most 64 GiB, wholly below the headgate range. -/
def winOk (v : W32) : Bool := decide (getBits v 0 7 ≤ 64) && decide ((getBits v 8 10 + getBits v 0 7) * 2 ^ 30 ≤ 0xD7B0000000)

/-- A write of lk_bv_win before it locks; a setting that R335 does not allow is ignored (log entry 46). -/
def sharedWindowOp (s : State) (v : W32) : State :=
  if regsLocked s || !winOk v then s else setReg s .lkBvWin 0 (writeBits .lkBvWin (rawReg s .lkBvWin 0) v)

def execSharedWindowWrite (value : W32) (s : State) : Host.Outcome State Fault Refusal :=
  .next (if s.boot.vaon then sharedWindowOp s value else s)

/-- hb_scrub_cfg: a period out of its range is ignored and the other one taken (R295, log entry 17). -/
def scrubCfgOp (s : State) (side : Nat) (v : W32) : State :=
  if side ≠ 0 then s
  else
    let old := rawReg s .hbScrubCfg 0
    let h := getBits v 0 8
    let b := getBits v 8 12
    let x := if 1 ≤ h ∧ h ≤ 168 then putBits old 0 8 h else old
    let x := if 10 ≤ b ∧ b ≤ 3600 then putBits x 8 12 b else x
    setReg s .hbScrubCfg 0 x

def execScrubCfgWrite (side : SideId) (value : W32) (s : State) : Host.Outcome State Fault Refusal :=
  .next (if s.boot.vaon then scrubCfgOp s side value else s)

/-- hg_tel_cfg: 0, or 4 to 20; any other value is ignored (Table HGM-5). -/
def telCfgOp (s : State) (v : W32) : State :=
  let n := getBits v 0 5
  if n = 0 ∨ (4 ≤ n ∧ n ≤ 20) then setReg s .hgTelCfg 0 (w32 n) else s

def execTelemetryCfgWrite (value : W32) (s : State) : Host.Outcome State Fault Refusal :=
  .next (if s.boot.vaon then telCfgOp s value else s)

/-- pw_emerg: 2,000 to 9,000 W; a write outside is ignored (Table PWR-6). An emergency in force enforces the new value (R417). -/
def emergOp (s : State) (v : W32) : State :=
  let n := getBits v 0 14
  if 2000 ≤ n ∧ n ≤ 9000 then
    let s := if s.pow.emergency then setPow s { s.pow with dev := { s.pow.dev with allot := some n } } else s
    setReg s .pwEmerg 0 (w32 n)
  else s

def execEmergencyAllotmentWrite (value : W32) (s : State) : Host.Outcome State Fault Refusal :=
  .next (if s.boot.vaon then emergOp s value else s)

/-- Software's write of element `w` of register `r` of copy `u`. -/
def putRegister (s : State) (r : Reg) (u w : Nat) (v : W32) : State :=
  match r with
  | .hgDbCmd => doorbellOp s u v
  | .hgDbCpl => consumerOp s u v
  | .hgCtxCfg => ctxCfgOp s u v
  | .hgCmdBaseLo => ringBaseOp s u 0 v
  | .hgCmdBaseHi => ringBaseOp s u 1 v
  | .hgCplBaseLo => ringBaseOp s u 2 v
  | .hgCplBaseHi => ringBaseOp s u 3 v
  | .hbIlv => ilvOp s u v
  | .hbScrubCfg => scrubCfgOp s u v
  | .lkBvWin => sharedWindowOp s v
  | .hgTelCfg => telCfgOp s v
  | .pwEmerg => emergOp s v
  | .hgBootCtl => if v.getLsbD 1 then deviceResetOp s else if v.getLsbD 0 then goOp s else s
  | _ => setReg s r u (writeBits r (rawReg s r u w) v) w

/-- A control-space write of one word; `none` where it is refused. Writes to the identity window are ignored (R479). -/
def ctlWrite (s : State) (off : Nat) (v : W32) : Option State :=
  match Reg.ofAddr off with
  | some (r, u, w) => some (putRegister s r u w v)
  | none => if (ctlRead s off).isSome then some s else none

def execRegisterWrite (off : Nat) (value : W32) (s : State) : Host.Outcome State Fault Refusal :=
  .next (if s.boot.vaon then (ctlWrite s off value).getD s else s)

/-! ### Reads that latch (R399, R474) -/

def execHeadgateCountLoRead (s : State) : Host.Outcome State Fault Refusal := .next (ctlReadEffect s (Reg.ckHgCountLo.addr 0 0))

def execEthTsLoRead (port : PortId) (s : State) : Host.Outcome State Fault Refusal :=
  .next (ctlReadEffect s (Reg.lkEthTsLo.addr port 0))

/-! ### CTRL packets (Tables CAN-3 and CAN-4, R341) -/

/-- Reply to a CTRL request: the word read, in a flit; nothing for a write. -/
def ctrlReply (p : Packet) (data : List Byte) : Packet :=
  { mkPkt p.cls p.dst 393 p.part p.addr.toNat p.aux.toNat with len := if data.isEmpty then 0 else 1, data := data }

/-- A CTRL request of the headgate complex reaches the endpoint that holds the register; a reply reaches the headgate complex.
No other endpoint reaches the control space. -/
def ctrlArrives (s : State) (p : Packet) : State :=
  if badPacket .ctrl p then discardPkt s .ctrl p
  else if !mayArrive s .ctrl p then s
  else if !portLive s p.dst then s
  else
    let s := arrive s .ctrl p
    let off := p.addr.toNat
    if p.dst = 393 then s
    else if p.dst < 240 && sinkActive s p.dst then sinkAbsorb s p.dst .ctrl p
    else if p.src ≠ 393 || off % 4 ≠ 0 then sendError s p.dst p .badCommand
    else if p.aux.getLsbD 8 then
      match ctlWrite s off (w32 (leNat (p.data.take 4))) with
      | none => sendError s p.dst p .badCommand
      | some s => sendPkt s .ctrl (ctrlReply p [])
    else
      match ctlRead s off with
      | none => sendError s p.dst p .badCommand
      | some x => sendPkt (ctlReadEffect s off) .ctrl (ctrlReply p (leBytes 4 x.toNat))

def execCtrl (p : Packet) (s : State) : Host.Outcome State Fault Refusal := .next (ctrlArrives s p)

end Sys2Proof.Machine
end

