-- ==== Sys2Proof/Machine/Brivlink.lean ====
section
/-!
DEFINITION. The Brivlink (13_brivlink_headgate, R326-R341): flits, replays, recovery and retraining, the companion's messages,
the directory of the shared window, and the control window.
-/
namespace Sys2Proof.Machine

/-- The link carries messages. -/
def linkUp (s : State) : Bool := s.boot.bvState == 5

/-! ### The link layer (R327-R331) -/

/-- An ack frees the flits up to it. -/
def ackFlits (b : Bv) (ack : Nat) : Bv :=
  if b.kept.contains ack then { b with kept := (b.kept.dropWhile (· ≠ ack)).drop 1 } else b

/-- The kept flits are sent again in their order; a 16th replay in succession from one flit starts a recovery (R331). -/
def resend (s : State) : State :=
  match s.bv.kept with
  | [] => s
  | f :: _ =>
    let b := s.bv
    let n := if b.replays ≠ 0 && b.replayAt == f then b.replays + 1 else 1
    let s := setBv s { b with replays := n, replayAt := f, tx := b.tx ++ b.kept.map BvMsg.replay }
    let s := setEvent (bump s .lkBvReplay 0 b.kept.length) .lkBvEvent 0 0
    if 16 ≤ n then setBoot s { s.boot with bvState := 6 } else s

def replayOp (s : State) (ack : Nat) : State := resend (setBv s (ackFlits s.bv ack))

def execReplayRequest (ack : BitVec 10) (s : State) : Host.Outcome State Fault Refusal :=
  .next (if linkUp s then replayOp s ack.toNat else s)

/-- Discard flits from here on and ask for a replay. -/
def askReplay (s : State) : State :=
  bvSend (setBv s { s.bv with discarding := true }) (.replayReq s.bv.rxSeq)

/-- Types 0x00 and 0x0F-0x1F are reserved (Table HGM-2). -/
def reservedType (t : BitVec 5) : Bool := t == 0#5 || decide (0x0F ≤ t.toNat)

/-- Code of a flit's kind. -/
def kindCode : FlitKind → Nat
  | .payload => 0 | .idle => 1 | .replayRequest => 2 | .reserved => 3

/-- CRC-32 over the control word, then the header slots in their order, each from bit 0 (Table HGM-1; the bit order is that of R261,
log entry 9). -/
def crc32 (f : RxFlit) : Nat :=
  let control := f.fseq.toNat + 2 ^ 10 * f.ack.toNat + 2 ^ 20 * kindCode f.kind + 2 ^ 22 * f.first.toNat
  f.headers.foldl (fun c w => crcOf 32 0x1EDC6F41 c 64 w.toNat) (crcOf 32 0x1EDC6F41 0xFFFFFFFF 32 control)

/-- The message types of a flit's headers (R328). -/
def flitTypes (f : RxFlit) : List (BitVec 5) := f.headers.map (·.setWidth 5)

/-- A payload flit in order is taken; a repeated one is dropped, and any other is discarded for a replay (log entry 9). -/
def takePayload (s : State) (f : RxFlit) : State :=
  let b := s.bv
  if f.fseq.toNat = (b.rxSeq + 1) % 1024 then
    bump (setBv s { b with rxSeq := f.fseq.toNat, discarding := false }) .lkBvCrcErr 0 ((flitTypes f).filter reservedType).length
  else if b.discarding || decide ((b.rxSeq + 1024 - f.fseq.toNat) % 1024 < 512) then s
  else askReplay s

/-- A flit is received: FEC, then CRC, then its ack and its kind (R330). -/
def flitOp (s : State) (f : RxFlit) : State :=
  let s := if f.fec = .corrected then bump s .lkBvFecCorr 0 1 else s
  if f.fec = .failed || f.crc.toNat ≠ crc32 f then askReplay (bump s .lkBvCrcErr 0 1)
  else
    let s := setBv s (ackFlits s.bv f.ack.toNat)
    match f.kind with
    | .idle => s
    | .replayRequest => replayOp s f.ack.toNat
    | .reserved => bump s .lkBvCrcErr 0 1
    | .payload => takePayload s f

def execFlitReceive (f : RxFlit) (s : State) : Host.Outcome State Fault Refusal := .next (if linkUp s then flitOp s f else s)

def execIdleFlitSend (s : State) : Host.Outcome State Fault Refusal := .next (if linkUp s then bvSend s (.idle s.bv.rxSeq) else s)

/-- A recovery realigns the lanes and replays from the last ack; one that fails leaves the link to retrain in full (R331). -/
def recoveryOp (s : State) (ok : Bool) : State :=
  if s.boot.bvState ≠ 6 then s
  else
    let s := setEvent (bumpSat s .lkBvRecover 0 0 16) .lkBvEvent 0 1
    let s := setBv s { s.bv with replays := 0 }
    if ok then resend (setBoot s { s.boot with bvState := 5 }) else setPins (setBoot s { s.boot with bvState := 1, bvWidth := 0, bvTries := 0 })

def execLinkRecovery (realigned : Bool) (s : State) : Host.Outcome State Fault Refusal := .next (recoveryOp s realigned)

/-- An attempt of a full retraining after the link has been active; messages in flight are replayed once it is active again. -/
def retrainOp (s : State) (lanes : Nat) (reversed : Bool) (inverted : Nat) : State :=
  if s.boot.phase < 2 || !(getRegion s 77).out || !s.clk.refPresent || companionUp s || 3 ≤ s.boot.bvTries then s
  else
    let s := if s.boot.bvTries = 0 then setEvent (bumpSat s .lkBvRecover 0 16 16) .lkBvEvent 0 2 else s
    let s := trainBv s lanes reversed inverted
    if linkUp s then resend (setBv s { s.bv with replays := 0 }) else s

def execLinkRetrain (lanes : BitVec 16) (reversed : Bool) (inverted : BitVec 16) (s : State) : Host.Outcome State Fault Refusal :=
  .next (retrainOp s lanes.toNat reversed inverted.toNat)

/-! ### The companion's messages -/

/-- A message has been received: its credit returns at once (R329, log entry 9), and its bytes are metered. -/
def took (s : State) (ch n slots : Nat) : State :=
  meter (bvSend s (match ch with
    | 0 => .credit 1 0 0 0
    | 1 => .credit 0 1 0 0
    | 2 => .credit 0 0 1 0
    | _ => .credit 0 0 0 n)) none 13 (8 * slots)

/-- Answer a tag with a status. -/
def answer (s : State) (tag : Nat) (st : St) : State := if linkUp s then bvSend s (.cpl tag st.code) else s

/-- A word at its place in a line of zeros. -/
def wordLine (idx : Nat) (x : W32) : List Byte := List.replicate (4 * idx) 0 ++ leBytes 4 x.toNat ++ List.replicate (60 - 4 * idx) 0

/-- RD: a word of the control space, and nothing else (R340, R341). -/
def rdOp (s : State) (tag line idx : Nat) : State :=
  let s := took s 0 1 1
  if line / 2 ^ 38 ≠ 2 ∨ 15 < idx then answer s tag .badCommand
  else
    let off := line % 2 ^ 38 * 64 + 4 * idx
    match ctlRead s off with
    | none => answer s tag .badCommand
    | some x => bvSend (ctlReadEffect s off) (.cplData tag (wordLine idx x))

def execRd (tag : BitVec 11) (line : BitVec 42) (lines : Nat) (s : State) : Host.Outcome State Fault Refusal :=
  .next (if linkUp s then rdOp s tag.toNat line.toNat lines else s)

def snoopOf (s : State) (line : Nat) : Option Snoop := s.bv.snoops.find? (fun x => x.line == line)

def setDir (s : State) (line : Nat) (d : Option DirSt) : State :=
  setBv s { s.bv with dir := match d with
    | none => tdel s.bv.dir line
    | some x => tput s.bv.dir line x }

/-- RD_SHARED and RD_OWN of a line of the shared window (Table HGM-3, R339). A line with a snoop under way waits (R338). -/
def grantOp (s : State) (tag line : Nat) (own : Bool) : State :=
  if (snoopOf s line).isSome then s
  else
    let s := took s 0 1 1
    if !inShared s (line * 64) || dirOfLine s line == some .modified then answer s tag .badCommand
    else
      let r := fetchGranule s line
      let s := meter r.st none 10 1
      if isSilt r.bytes then answer s tag .poisonConsumed
      else bvSend (setDir s line (some (if own then .modified else .shared))) (.cplData tag r.bytes)

def execRdShared (tag : BitVec 11) (line : BitVec 42) (s : State) : Host.Outcome State Fault Refusal :=
  .next (if linkUp s then grantOp s tag.toNat line.toNat false else s)

def execRdOwn (tag : BitVec 11) (line : BitVec 42) (s : State) : Host.Outcome State Fault Refusal :=
  .next (if linkUp s then grantOp s tag.toNat line.toNat true else s)

def evictOp (s : State) (tag line : Nat) : State :=
  let s := took s 0 1 1
  if inShared s (line * 64) then answer (setDir s line none) tag .ok else answer s tag .badCommand

def execEvict (tag : BitVec 11) (line : BitVec 42) (s : State) : Host.Outcome State Fault Refusal :=
  .next (if linkUp s then evictOp s tag.toNat line.toNat else s)

/-- WRITEBACK: only of a line that the companion owns. -/
def writebackOp (s : State) (tag line : Nat) (data : List Byte) : State :=
  let s := took s 3 1 9
  if inShared s (line * 64) && data.length == 64 && dirOfLine s line == some .modified then
    answer (setDir (meter (hbmPut s (line * 64) data) none 11 1) line none) tag .ok
  else answer s tag .badCommand

def execWriteback (tag : BitVec 11) (line : BitVec 42) (data : List Byte) (s : State) : Host.Outcome State Fault Refusal :=
  .next (if linkUp s then writebackOp s tag.toNat line.toNat data else s)

/-! ### The companion's writes into scratchpads (R135, R159-R164, R340) -/

/-- The window or range of a core at a granule: kind of write, index, generation, the unit number and the granule that a write there
carries. The message names an address only, so the unit is the latest granted one of its slot (log entry 45). -/
def windowAt (s : State) (c gran : Nat) : Option (Nat × Nat × Nat × Nat × Nat) :=
  let k := getCore s c
  match k.wins.find? (fun e => e.2.isOpen && decide (e.2.base ≤ gran) && decide (gran < e.2.base + e.2.size)) with
  | some e => some (1, e.1, e.2.gen, 0, gran)
  | none =>
    match k.rngs.find? (fun e => e.2.isOpen && decide (e.2.base ≤ gran) && decide (gran < e.2.base + e.2.units * 2 ^ e.2.unitLog)) with
    | some e =>
      let slot := (gran - e.2.base) / 2 ^ e.2.unitLog
      let count := (e.2.granted + e.2.units - 1 - slot) / e.2.units
      some (2, e.1, e.2.gen, if count = 0 then e.2.granted else slot + (count - 1) * e.2.units, (gran - e.2.base) % 2 ^ e.2.unitLog)
    | none => none

/-- Place that n granules at a granule of a core's scratchpad have, and the core's tables after them. -/
def compAdmit (s : State) (c gran n : Nat) : Except St (Nat × Core) :=
  match windowAt s c gran with
  | none => .error .windowViolation
  | some (kind, index, gen, unit, g) => admitWrite s c .comp kind index gen unit g n false

/-- Ring buffers of the window that a companion write names (R161). -/
def compBuffer (s : State) (c gran : Nat) : Nat → Option (Nat × Nat) :=
  match windowAt s c gran with
  | some (kind, index, _) => bufferOf s c kind index
  | none => fun _ => none

/-- A packet that stands for a companion write at the sink (R31, R272). -/
def compPkt (s : State) (c gran : Nat) : Packet :=
  let k := getCore s c
  let p := mkPkt .standard 392 c 62 (spadBase c / 64 + gran) 0
  match k.wins.find? (fun e => decide (e.2.base ≤ gran) && decide (gran < e.2.base + e.2.size)) with
  | some e => { p with wkind := 1#2, index := e.1 }
  | none => match k.rngs.find? (fun e => decide (e.2.base ≤ gran) && decide (gran < e.2.base + e.2.units * 2 ^ e.2.unitLog)) with
    | some e => { p with wkind := 2#2, index := e.1 }
    | none => p

/-- Run a companion write of n granules into a scratchpad, or refuse it with a status. -/
def compInto (s : State) (tag c off n : Nat) (land : State → Nat → State × St) : State :=
  if sinkActive s c then answer (bump s .cnRtSink c 1) tag (sinkStatus s c (compPkt s c (off / 64)))
  else match compAdmit s c (off / 64) n with
    | .error st => answer (countRefused s c st) tag st
    | .ok (g, k) =>
      let r := land (setCore s c k) g
      answer r.1 tag r.2

/-- WR of whole lines: into a scratchpad only. -/
def wrOp (s : State) (tag line : Nat) (data : List Byte) : State :=
  let n := data.length / 64
  let s := took s 3 n (1 + 8 * n)
  match placeOf (line * 64) with
  | .spad c off =>
    if n = 0 ∨ 8 < n ∨ data.length % 64 ≠ 0 then answer s tag .badCommand
    else compInto s tag c off n (fun s g => (landBytes s c (g * 64) data (compBuffer s c (off / 64)), .ok))
  | _ => answer s tag .badCommand

def execWr (tag : BitVec 11) (line : BitVec 42) (data : List Byte) (s : State) : Host.Outcome State Fault Refusal :=
  .next (if linkUp s then wrOp s tag.toNat line.toNat data else s)

/-- A masked write reaches its bank, which reads the row, merges and later writes it (R135). A silted granule stays silt (R339). -/
def partLand (s : State) (c g : Nat) (mask : W64) (data : List Byte) : State × St :=
  let gr := spadBase c / 64 + g
  if isSilt (granuleBytes s gr) then (setEvent s .bsSpEvent c 3, .poisonConsumed)
  else
    let d : PartialWr := ⟨gr, mask, data, [], false⟩
    (readPartial (modCore s c (fun k => { k with partials := k.partials ++ [d] })) c d, .ok)

/-- Word index of a mask that selects exactly the four bytes of one aligned word (R341). -/
def maskWord (mask : W64) : Option Nat := (List.range 16).find? (fun i => mask.toNat == 15 * 2 ^ (4 * i))

/-- WR_PART: a masked write into a scratchpad, or one word of the control space. -/
def wrPartOp (s : State) (tag line : Nat) (mask : W64) (data : List Byte) : State :=
  let s := took s 3 1 10
  match placeOf (line * 64) with
  | .spad c off =>
    if mask = 0 ∨ data.length ≠ 64 then answer s tag .badCommand
    else compInto s tag c off 1 (fun s g => partLand s c g mask data)
  | .ctl off =>
    match maskWord mask with
    | none => answer s tag .badCommand
    | some w => match ctlWrite s (off + 4 * w) (w32 (leNat ((data.drop (4 * w)).take 4))) with
      | none => answer s tag .badCommand
      | some s => answer s tag .ok
  | _ => answer s tag .badCommand

def execWrPart (tag : BitVec 11) (line : BitVec 42) (mask : W64) (data : List Byte) (s : State) : Host.Outcome State Fault Refusal :=
  .next (if linkUp s then wrPartOp s tag.toNat line.toNat mask data else s)

/-! ### Snoop answers (R337, R338) -/

/-- What waited on a snoop goes on. -/
def snoopDone (s : State) (x : Snoop) : State :=
  let s := setBv s (bvAnswered { s.bv with snoops := s.bv.snoops.filter (fun y => y.tag ≠ x.tag) } x.tag)
  match x.what with
  | .read p => hbmServeRead s p
  | .write _ (some p) => hbmServeWrite s p
  | .write data none => hbmPut s (x.line * 64) data
  | .probe => tagAnswered s x.tag

/-- SNP_RSP: the companion holds the line no longer. -/
def snpRspOp (s : State) (tag : Nat) : State :=
  let s := took s 1 1 1
  match s.bv.snoops.find? (fun x => x.tag == tag) with
  | none => s
  | some x => snoopDone (setDir s x.line none) x

def execSnpRsp (tag : BitVec 11) (status : Byte) (s : State) : Host.Outcome State Fault Refusal :=
  .next (if linkUp s then snpRspOp s tag.toNat else s)

/-- SNP_RSP_DATA: for a read the data go to HBM and the line to S; for a write they are discarded and the line goes to I. -/
def snpDataOp (s : State) (tag : Nat) (data : List Byte) : State :=
  let s := took s 3 1 9
  match s.bv.snoops.find? (fun x => x.tag == tag) with
  | none => s
  | some x =>
    let inv : Bool := match x.what with
      | .write _ _ => true
      | _ => dirOfLine s x.line != some .modified
    if inv then snoopDone (setDir s x.line none) x
    else snoopDone (setDir (meter (hbmPut s (x.line * 64) (padTo 64 data)) none 11 1) x.line (some .shared)) x

def execSnpRspData (tag : BitVec 11) (data : List Byte) (s : State) : Host.Outcome State Fault Refusal :=
  .next (if linkUp s then snpDataOp s tag.toNat data else s)

/-- A snoop unanswered for 1 ms: the line goes to I and is silted, and what waited goes on (R338). -/
def snoopTimeoutOp (s : State) (line : Nat) : State :=
  match snoopOf s line with
  | none => s
  | some x =>
    if hgNow s < x.sent + msCycles 1 then s
    else
      let s := hbmPut (setDir s line none) (line * 64) siltBytes
      snoopDone (setEvent (report s 0x0014 0 none 0 line) .lkBvEvent 0 3) x

def execSnoopTimeout (line : BitVec 42) (s : State) : Host.Outcome State Fault Refusal := .next (snoopTimeoutOp s line.toNat)

/-! ### Completions and credits -/

/-- CPL: a device write is acknowledged (R348); for a device read it is an error, and completes the task that reads. -/
def cplOp (s : State) (tag status : Nat) : State :=
  let s := took s 1 1 1
  let rd := s.bv.reads.find? (fun r => r.1 == tag)
  let b := { s.bv with writes := s.bv.writes.filter (fun w => w.1 ≠ tag), reads := s.bv.reads.filter (fun r => r.1 ≠ tag) }
  let s := setBv s (bvAnswered b tag)
  match rd with
  | none => s
  | some r =>
    let s := modCore s r.2.1 (fun k => { k with dmaWait := k.dmaWait.filter (fun w => !w.2.contains tag) })
    taskRefused s r.2.1 (stOfCode status) (3 * 2 ^ 38 + r.2.2)

def execCpl (tag : BitVec 11) (status : Byte) (s : State) : Host.Outcome State Fault Refusal :=
  .next (if linkUp s then cplOp s tag.toNat status.toNat else s)

/-- CPL_DATA: the lines that a device read asked for. -/
def cplDataOp (s : State) (tag : Nat) (data : List Byte) : State :=
  let n := (data.length + 63) / 64
  let s := took s 3 n (1 + 8 * n)
  match s.bv.reads.find? (fun r => r.1 == tag) with
  | none => s
  | some r =>
    let s := setBv s (bvAnswered { s.bv with reads := s.bv.reads.filter (fun y => y.1 ≠ tag) } tag)
    tagAnswered { s with mem := mwrites s.mem (3 * 2 ^ 44 + 64 * r.2.2) data } tag

def execCplData (tag : BitVec 11) (data : List Byte) (s : State) : Host.Outcome State Fault Refusal :=
  .next (if linkUp s then cplDataOp s tag.toNat data else s)

/-- CREDIT: the companion returns credits, and messages that waited are sent (R329). -/
def creditOp (s : State) (req rsp snp dat : Nat) : State :=
  let b := s.bv
  setBv s (bvFlush { b with credReq := b.credReq + req, credRsp := b.credRsp + rsp, credSnp := b.credSnp + snp, credDat := b.credDat + dat })

def execCredit (req rsp snp : Byte) (dat : BitVec 12) (s : State) : Host.Outcome State Fault Refusal :=
  .next (if linkUp s then creditOp s req.toNat rsp.toNat snp.toNat dat.toNat else s)

end Sys2Proof.Machine
end

