-- ==== Sys2Proof/Machine/Ethernet.lean ====
section
/-!
DEFINITION. Ethernet ports and packets (19_module, R471-R474; R442): training, the loss of a port, and transport packets.
-/
namespace Sys2Proof.Machine

/-! ### Training (R442, R471, R472) -/

/-- Width of the lanes that pass: all 8, lanes 0-3, else 4-7 (Table MOD-5). -/
def ethWidthOf (lanes : Nat) : Nat := if lanes = 255 then 3 else if lanes % 16 = 15 then 1 else if lanes / 16 = 15 then 2 else 0

/-- Bits of a that are clear in b, of eight. -/
def lanesWithout (a b : Nat) : Nat := ((List.range 8).map (fun l => b2n (a.testBit l && !b.testBit l) * 2 ^ l)).sum

/-- Ledger entry of a lane that has failed at three successive boots. -/
def laneEntry (p l : Nat) : W32 := w32 (0xB2000000 + p + 16 * l)

/-- A boot's bring-up of a port ends: successive failures of each lane, and the entries that they make. -/
def bringUpEnded (s : State) (p lanes : Nat) : State :=
  if s.boot.decided then s
  else
    let v := getPort s p
    let fallow := fallowLanes s p
    let count := fun (l : Nat) => if lanes.testBit l then 0 else tgetD v.failedBoots l 0 + 1
    let live := (List.range 8).filter (fun l => !fallow.testBit l)
    let out := live.filter (fun l => decide (3 ≤ count l))
    let s := setPort s p { v with failedBoots := live.foldl (fun t l => tput t l (count l)) v.failedBoots }
    let s := foundEntries s (out.map (laneEntry p))
    setBoot s { s.boot with ethDone := if s.boot.ethDone.contains p then s.boot.ethDone else s.boot.ethDone ++ [p] }

/-- hg_ports bit 16 + p: the port trained at full width. -/
def markFull (b : Boot) (p : Nat) (full : Bool) : Nat :=
  ((List.range 16).map (fun i => b2n (if i = p then full else b.fullPorts.testBit i) * 2 ^ i)).sum

/-- A port comes up at a width; a narrow one is LINK_DEGRADED and reported. -/
def portTrained (s : State) (p w lanes : Nat) (kr : Bool) : State :=
  let v := getPort s p
  let s := setPort s p { v with st := 3, width := w, tries := v.tries + 1, kr := kr, degraded := w != 3, lanes := lanes,
                                since := v.since.or (some (getRegion s 76).count) }
  let s := setBoot s { s.boot with fullPorts := markFull s.boot p (w == 3) }
  let s := if w = 3 then s else report (setEvent s .lkEthEvent p 1) 0x0019 St.linkDegraded.code none p w
  let s := bringUpEnded s p lanes
  s.conns.foldl (fun s e => connFlush s e.1) s

/-- An attempt fails; after the fourth the port stays down and is reported. -/
def portFailed (s : State) (p lanes : Nat) (kr : Bool) : State :=
  let v := getPort s p
  let s := setPort s p { v with st := if v.tries = 3 then 4 else 1, width := 0, tries := v.tries + 1, kr := kr, degraded := false, lanes := lanes }
  if v.tries < 3 then s
  else bringUpEnded (report (setEvent s .hgBootEvent 0 2) 0x0019 0 none p 0) p lanes

/-- One training attempt of an expected port that is not up and not fallow: at most four in a bring-up. -/
def ethTrainOp (s : State) (p lanes : Nat) (kr : Bool) : State :=
  let v := getPort s p
  if !(getRegion s 76).out || !s.clk.refPresent || !s.boot.expected.testBit p || v.st = 0 || v.st = 3 || v.st = 5 || 4 ≤ v.tries then s
  else
    let good := lanesWithout lanes (fallowLanes s p)
    let w := ethWidthOf good
    if w = 0 then portFailed s p good kr else portTrained s p w good kr

def execEthernetPortTraining (port : PortId) (lanes : Byte) (kr : Bool) (s : State) : Host.Outcome State Fault Refusal :=
  .next (ethTrainOp s port lanes.toNat kr)

/-- Uncorrectable codewords within 1 ms: more than 16 take the port down, to train again (R472, R444). -/
def fecLimitOp (s : State) (p n : Nat) : State :=
  let v := getPort s p
  if v.st ≠ 3 then s
  else
    let s := bump s .lkEthFecUncorr p n
    if n ≤ 16 then s
    else
      let s := setPort s p { v with st := 4, width := 0, tries := 0, degraded := false, lanes := 0 }
      let s := setBoot s { s.boot with fullPorts := markFull s.boot p false }
      report (setEvent (setEvent s .lkEthEvent p 0) .lkEthEvent p 2) 0x0019 0 none p 0

def execEthFecLimit (port : PortId) (codewords : Nat) (s : State) : Host.Outcome State Fault Refusal := .next (fecLimitOp s port codewords)

/-! ### Packets -/

/-- The window or range of a core that a connection context writes: core, kind, index. -/
def connTarget (s : State) (n : Nat) : Option (Nat × Nat × Nat) :=
  s.cores.findSome? (fun e =>
    match e.2.wins.find? (fun w => w.2.isOpen && w.2.kind == 2 && w.2.srcId == n) with
    | some w => some (e.1, 1, w.1)
    | none => (e.2.rngs.find? (fun w => w.2.isOpen && w.2.kind == 2 && w.2.srcId == n)).map (fun w => (e.1, 2, w.1)))

/-- A packet that its target refuses is dropped and counted on its context (R164). -/
def connDrop (s : State) (n : Nat) (v : Conn) : State := setConn s n { v with dropped := v.dropped + 1 }

/-- A received packet of whole granules: the next unit of a turnout range, or the next granules of a sluice window, from its base
again where they would pass its end (log entry 47). -/
def connLand (s : State) (port n : Nat) (v : Conn) (c kind index : Nat) (data : List Byte) : State :=
  let k := getCore s c
  let g := data.length / 64
  let path := mkPkt .standard (388 + port / 4) c v.part 0 0
  let s := arrive s .write { path with len := (data.length + 511) / 512 }
  if sinkActive s c then connDrop (bump s .cnRtSink c 1) n v
  else
    let win := (tget k.wins index).map (fun w => (w.gen, if w.size < v.off + g then 0 else v.off, w.base))
    let rng := (tget k.rngs index).map (fun r => r.gen)
    let r := if kind = 1 then
        match win with
        | some (gen, o, b) => (admitWrite s c (.conn n) 1 index gen 0 (b + o) g false, o + g, v.unit)
        | none => (.error .windowViolation, v.off, v.unit)
      else match rng with
        | some gen => (admitWrite s c (.conn n) 2 index gen (v.unit % 65536) 0 g false, v.off, v.unit + 1)
        | none => (.error .windowViolation, v.off, v.unit)
    match r.1 with
    | .error st => connDrop (countRefused s c st) n v
    | .ok (gran, k) => setConn (landBytes (setCore s c k) c (gran * 64) data (bufferOf s c kind index)) n { v with off := r.2.1, unit := r.2.2 }

/-- ETH_PACKET_RECEIVE: stamped, metered to the context's partition, and delivered to the window or range that names it. -/
def ethReceiveOp (s : State) (port n : Nat) (data : List Byte) : State :=
  if !portUp s port || 8192 ≤ n then s
  else
    let t := connTarget s n
    let part := (t.bind (fun x => corePart s x.1)).getD 63
    let v := match getConn s n with
      | none => Conn.fresh part
      | some v => v
    let v : Conn := { v with rx := v.rx ++ [(port, ethCount s port)] }
    let s := meter s (if v.part < 60 then some v.part else none) 12 data.length
    match t with
    | none => connDrop s n v
    | some (c, kind, index) =>
      if !v.isOpen || data.isEmpty || data.length % 64 ≠ 0 || corePart s c ≠ some v.part then connDrop s n v
      else connLand s port n v c kind index data

def execEthPacketReceive (port : PortId) (conn : Nat) (data : List Byte) (s : State) : Host.Outcome State Fault Refusal :=
  .next (ethReceiveOp s port conn data)

/-- This device has fenced itself, and the context is one of its ring (R371). -/
def ringFenced (s : State) (n : Nat) : Bool :=
  match s.head.ring with
  | none => false
  | some r => r.fenced && r.members.any (fun m => m.conn == n)

/-- The core whose task sends from an address of its scratchpad; other sources belong to the context. -/
def sendCore (a : Nat) : Option Nat :=
  match placeOf a with
  | .spad c _ => some c
  | _ => none

/-- Partition that sends: the core's, else the context's, else the one whose segments grant the export. -/
def sendPart (s : State) (a n bytes : Nat) : Option Nat :=
  match sendCore a with
  | some c => corePart s c
  | none => match getConn s n with
    | some v => if v.isOpen then some v.part else none
    | none => (s.head.parts.find? (fun e => partAllows s e.1 .exp a bytes)).map Prod.fst

/-- A refusal completes the task of the core that sends. -/
def sendRefused (s : State) (a : Nat) (st : St) (detail : Nat) : State :=
  match sendCore a with
  | some c => taskRefused s c st detail
  | none => s

/-- ETH_PACKET_SEND: the export right, then silt, which withholds the packet (Table PRG-2, Table HBM-5). -/
def ethSendOp (s : State) (port n a bytes : Nat) : State :=
  if bytes = 0 || 8192 ≤ n || ringFenced s n || ((sendCore a).map (fun c => !coreRuns s c)).getD false then s
  else match sendPart s a n bytes with
    | none => sendRefused s a .windowViolation (a / 64)
    | some p =>
      if !partAllows s p .exp a bytes || !connFree s n p then sendRefused s a .windowViolation (a / 64)
      else
        let r := fetchBytes s a bytes
        let s := meterRows r.st (sendCore a) (some p) false a bytes
        if siltIn s a bytes then
          sendRefused s a .poisonConsumed (((List.range ((a + bytes - 1) / 64 - a / 64 + 1)).map (a / 64 + ·)
            |>.find? (fun g => isSilt (granuleBytes s g))).getD (a / 64))
        else connSend s n (connFor s n p) (some port) (sendCore a) r.bytes

def execEthPacketSend (port : PortId) (conn : Nat) (src : Addr) (bytes : Nat) (s : State) : Host.Outcome State Fault Refusal :=
  .next (ethSendOp s port conn src.toNat bytes)

end Sys2Proof.Machine
end

