-- ==== Sys2Proof/Machine/Mgmt.lean ====
section
/-!
DEFINITION. The I3C target, the always-on responder and the test access port (19_module, R467, R468, R470).
-/
namespace Sys2Proof.Machine

/-- Control-space offset that a pointer names: the identity window, or the power and clock block. -/
def i3cOffset (v : W32) : Nat := (if v.getLsbD 24 then 0x01400000 else 0) + getBits v 0 24

/-- A pointer of R467: word-aligned, bits 31:25 zero, within its window (log entry 51). -/
def i3cForm (v : W32) : Bool := getBits v 25 7 == 0 && decide (v.toNat % 4 = 0) && decide (getBits v 0 24 < 0x1000)

/-- Registers that the always-on responder serves (R468). -/
def responderServes (v : W32) : Bool :=
  let o := getBits v 0 24
  v.getLsbD 24 && (o == 0 || o == 4 || o == 0x24 || (decide (0xD00 ≤ o) && decide (o ≤ 0xD30)))

/-- The target answers in domain 77, for the words that the tables name; without it the responder does. -/
def i3cServes (s : State) (v : W32) : Bool :=
  i3cForm v && (if (getRegion s 77).out then (ctlRead s (i3cOffset v)).isSome else responderServes v)

def i3cNack (s : State) : State := setBoot s { s.boot with nacks := s.boot.nacks + 1 }

/-- A private write of 4 bytes: a pointer, or refused by NACK. -/
def i3cPointerOp (s : State) (v : W32) : State :=
  if !s.boot.vaon then s
  else if i3cServes s v then setBoot s { s.boot with ptr := v } else i3cNack s

def execI3cPointerWrite (value : W32) (s : State) : Host.Outcome State Fault Refusal := .next (i3cPointerOp s value)

/-- A private read of 4 bytes: the word at the pointer, which advances by 4. A read of a word that is not served is refused by NACK (log entry 51). -/
def i3cReadOp (s : State) : State :=
  let p := s.boot.ptr
  if !s.boot.vaon then s
  else if i3cServes s p then
    let t := ctlReadEffect s (i3cOffset p)
    setBoot t { t.boot with ptr := putBits p 0 24 (getBits p 0 24 + 4), i3cOut := t.boot.i3cOut ++ [(ctlRead s (i3cOffset p)).getD 0] }
  else i3cNack s

def execI3cPrivateRead (s : State) : Host.Outcome State Fault Refusal := .next (i3cReadOp s)

/-- SETDASA or ENTDAA. -/
def execI3cDynamicAddress (address : BitVec 7) (s : State) : Host.Outcome State Fault Refusal :=
  .next (if (getRegion s 77).out then setBoot s { s.boot with dynAddr := some address } else s)

/-! ### The test access port: instruction register 0 BYPASS, 1 IDCODE, 2 SAMPLE/PRELOAD, 3 EXTEST -/

/-- BYPASS: one bit, captured as 0; no cell drives a contact. -/
def bypassOp (s : State) : State :=
  setBoot s { s.boot with jtagInstr := 0, jtagDrive := [], jtagOut := s.boot.jtagOut ++ [[false]] }

def execJtagBypass (s : State) : Host.Outcome State Fault Refusal := .next (if s.boot.vaon then bypassOp s else s)

/-- IDCODE of R470. -/
def idcode : W32 := BitVec.ofNat 32 (1 * 2 ^ 28 + 0xA712 * 2 ^ 12 + Config.manufacturer.toNat * 2 + 1)

/-- Bits of a word, least significant first. -/
def wordBits (v : W32) : List Bool := (List.range 32).map (fun i => v.getLsbD i)

def execJtagIdcode (s : State) : Host.Outcome State Fault Refusal :=
  .next (if s.boot.vaon then
    setBoot s { s.boot with jtagInstr := 1, jtagDrive := [], jtagOut := s.boot.jtagOut ++ [wordBits idcode] } else s)

/-- SAMPLE/PRELOAD and EXTEST are accepted through phase 0x2. -/
def scanOpen (s : State) : Bool := decide (s.boot.phase ≤ 2)

/-- Values captured from n contacts, whose order in the chain the manual does not give: free bits. -/
def captured : Nat → State → List Bool × State
  | 0, s => ([], s)
  | n + 1, s =>
    let d := drawFresh s
    let r := captured n d.2
    ((Config.freeWord d.1).getLsbD 0 :: r.1, r.2)

/-- SAMPLE/PRELOAD: the contacts are captured, and the cells preloaded. -/
def preloadOp (s : State) (cells : List Bool) : State :=
  if !scanOpen s then bypassOp s
  else
    let r := captured cells.length s
    setBoot r.2 { r.2.boot with jtagInstr := 2, jtagDrive := [], jtagCells := cells, jtagOut := r.2.boot.jtagOut ++ [r.1] }

def execJtagSamplePreload (cells : List Bool) (s : State) : Host.Outcome State Fault Refusal :=
  .next (if s.boot.vaon then preloadOp s cells else s)

/-- EXTEST: the preloaded cells drive the contacts, and the contacts are captured. -/
def extestOp (s : State) : State :=
  if !scanOpen s then bypassOp s
  else
    let r := captured s.boot.jtagCells.length s
    setBoot r.2 { r.2.boot with jtagInstr := 3, jtagDrive := r.2.boot.jtagCells, jtagOut := r.2.boot.jtagOut ++ [r.1] }

def execJtagExtest (s : State) : Host.Outcome State Fault Refusal := .next (if s.boot.vaon then extestOp s else s)

end Sys2Proof.Machine
end

