-- ==== Sys2Proof/Machine/Dispatch.lean ====
section
/-!
DEFINITION. The dispatch of a command to its meaning: one arm per row of the table.
-/
namespace Sys2Proof.Machine

def exec (i : Instr) (s : State) : Host.Outcome State Fault Refusal :=
  match i with
  | .identify x0 x1 => Sys2Proof.Machine.execIdentify x0 x1 s
  | .partitionCreate x0 x1 => Sys2Proof.Machine.execPartitionCreate x0 x1 s
  | .partitionDestroy x0 => Sys2Proof.Machine.execPartitionDestroy x0 s
  | .partitionReset x0 => Sys2Proof.Machine.execPartitionReset x0 s
  | .clusterReset x0 x1 => Sys2Proof.Machine.execClusterReset x0 x1 s
  | .coreReset x0 x1 => Sys2Proof.Machine.execCoreReset x0 x1 s
  | .programLoad x0 x1 x2 x3 x4 => Sys2Proof.Machine.execProgramLoad x0 x1 x2 x3 x4 s
  | .programUnload x0 x1 => Sys2Proof.Machine.execProgramUnload x0 x1 s
  | .modelAttach x0 x1 x2 x3 x4 x5 => Sys2Proof.Machine.execModelAttach x0 x1 x2 x3 x4 x5 s
  | .pinWeights x0 x1 x2 x3 x4 x5 x6 x7 x8 => Sys2Proof.Machine.execPinWeights x0 x1 x2 x3 x4 x5 x6 x7 x8 s
  | .unpinWeights x0 x1 => Sys2Proof.Machine.execUnpinWeights x0 x1 s
  | .dispatch x0 x1 x2 x3 x4 x5 x6 x7 => Sys2Proof.Machine.execDispatch x0 x1 x2 x3 x4 x5 x6 x7 s
  | .cancel x0 x1 => Sys2Proof.Machine.execCancel x0 x1 s
  | .windowOpen x0 x1 x2 x3 x4 => Sys2Proof.Machine.execWindowOpen x0 x1 x2 x3 x4 s
  | .windowClose x0 x1 x2 x3 => Sys2Proof.Machine.execWindowClose x0 x1 x2 x3 s
  | .creditGrant x0 x1 x2 x3 => Sys2Proof.Machine.execCreditGrant x0 x1 x2 x3 s
  | .secureConfig x0 x1 x2 x3 => Sys2Proof.Machine.execSecureConfig x0 x1 x2 x3 s
  | .reliefAssign x0 x1 x2 x3 => Sys2Proof.Machine.execReliefAssign x0 x1 x2 x3 s
  | .reliefTakeOver x0 x1 x2 x3 => Sys2Proof.Machine.execReliefTakeOver x0 x1 x2 x3 s
  | .reliefStandDown x0 x1 x2 x3 => Sys2Proof.Machine.execReliefStandDown x0 x1 x2 x3 s
  | .checkpointExport x0 x1 x2 x3 x4 x5 => Sys2Proof.Machine.execCheckpointExport x0 x1 x2 x3 x4 x5 s
  | .allotmentSet x0 x1 x2 x3 x4 => Sys2Proof.Machine.execAllotmentSet x0 x1 x2 x3 x4 s
  | .telemetryRead x0 x1 x2 x3 => Sys2Proof.Machine.execTelemetryRead x0 x1 x2 x3 s
  | .surveyRun x0 x1 x2 x3 x4 => Sys2Proof.Machine.execSurveyRun x0 x1 x2 x3 x4 s
  | .fallowRead x0 x1 x2 x3 => Sys2Proof.Machine.execFallowRead x0 x1 x2 x3 s
  | .attest x0 x1 x2 x3 => Sys2Proof.Machine.execAttest x0 x1 x2 x3 s
  | .firmwareReload x0 x1 x2 => Sys2Proof.Machine.execFirmwareReload x0 x1 x2 s
  | .reloadProper => Sys2Proof.Machine.execReloadProper s
  | .commandDoorbell x0 x1 => Sys2Proof.Machine.execCommandDoorbell x0 x1 s
  | .completionConsumerWrite x0 x1 => Sys2Proof.Machine.execCompletionConsumerWrite x0 x1 s
  | .contextConfigWrite x0 x1 => Sys2Proof.Machine.execContextConfigWrite x0 x1 s
  | .contextRingBaseWrite x0 x1 x2 => Sys2Proof.Machine.execContextRingBaseWrite x0 x1 x2 s
  | .commandRead x0 => Sys2Proof.Machine.execCommandRead x0 s
  | .descriptorReadFail x0 => Sys2Proof.Machine.execDescriptorReadFail x0 s
  | .completionWrite x0 x1 => Sys2Proof.Machine.execCompletionWrite x0 x1 s
  | .interruptWrite x0 => Sys2Proof.Machine.execInterruptWrite x0 s
  | .telemetryPush => Sys2Proof.Machine.execTelemetryPush s
  | .bootGo => Sys2Proof.Machine.execBootGo s
  | .bootCtlDeviceReset => Sys2Proof.Machine.execBootCtlDeviceReset s
  | .hbIlvWrite x0 x1 => Sys2Proof.Machine.execHbIlvWrite x0 x1 s
  | .sharedWindowWrite x0 => Sys2Proof.Machine.execSharedWindowWrite x0 s
  | .scrubCfgWrite x0 x1 => Sys2Proof.Machine.execScrubCfgWrite x0 x1 s
  | .telemetryCfgWrite x0 => Sys2Proof.Machine.execTelemetryCfgWrite x0 s
  | .emergencyAllotmentWrite x0 => Sys2Proof.Machine.execEmergencyAllotmentWrite x0 s
  | .headgateCountLoRead => Sys2Proof.Machine.execHeadgateCountLoRead s
  | .ethTsLoRead x0 => Sys2Proof.Machine.execEthTsLoRead x0 s
  | .registerWrite x0 x1 => Sys2Proof.Machine.execRegisterWrite x0 x1 s
  | .i3cPointerWrite x0 => Sys2Proof.Machine.execI3cPointerWrite x0 s
  | .i3cPrivateRead => Sys2Proof.Machine.execI3cPrivateRead s
  | .i3cDynamicAddress x0 => Sys2Proof.Machine.execI3cDynamicAddress x0 s
  | .jtagBypass => Sys2Proof.Machine.execJtagBypass s
  | .jtagIdcode => Sys2Proof.Machine.execJtagIdcode s
  | .jtagSamplePreload x0 => Sys2Proof.Machine.execJtagSamplePreload x0 s
  | .jtagExtest => Sys2Proof.Machine.execJtagExtest s
  | .feedPresent x0 x1 x2 => Sys2Proof.Machine.execFeedPresent x0 x1 x2 s
  | .feedOvervoltage x0 x1 => Sys2Proof.Machine.execFeedOvervoltage x0 x1 s
  | .feedLost x0 => Sys2Proof.Machine.execFeedLost x0 s
  | .bothFeedsLost x0 => Sys2Proof.Machine.execBothFeedsLost x0 s
  | .resetNAssert x0 => Sys2Proof.Machine.execResetNAssert x0 s
  | .resetNRelease => Sys2Proof.Machine.execResetNRelease s
  | .powerBrakeAssert x0 => Sys2Proof.Machine.execPowerBrakeAssert x0 s
  | .emergencyEnd => Sys2Proof.Machine.execEmergencyEnd s
  | .deviceReset => Sys2Proof.Machine.execDeviceReset s
  | .vaonGood x0 x1 x2 => Sys2Proof.Machine.execVaonGood x0 x1 x2 s
  | .headgatePowerUp => Sys2Proof.Machine.execHeadgatePowerUp s
  | .rotationWave x0 => Sys2Proof.Machine.execRotationWave x0 s
  | .generatorLock x0 => Sys2Proof.Machine.execGeneratorLock x0 s
  | .brivlinkTraining x0 x1 x2 => Sys2Proof.Machine.execBrivlinkTraining x0 x1 x2 s
  | .imageFetch => Sys2Proof.Machine.execImageFetch s
  | .imageVerify => Sys2Proof.Machine.execImageVerify s
  | .firmwareStart => Sys2Proof.Machine.execFirmwareStart s
  | .laneSurvey x0 => Sys2Proof.Machine.execLaneSurvey x0 s
  | .hbmInitialisation x0 x1 => Sys2Proof.Machine.execHbmInitialisation x0 x1 s
  | .ethernetPortTraining x0 x1 x2 => Sys2Proof.Machine.execEthernetPortTraining x0 x1 x2 s
  | .startUpSurvey x0 => Sys2Proof.Machine.execStartUpSurvey x0 s
  | .ledgerEntryProgram x0 => Sys2Proof.Machine.execLedgerEntryProgram x0 s
  | .readinessDecision => Sys2Proof.Machine.execReadinessDecision s
  | .fuseUpdate => Sys2Proof.Machine.execFuseUpdate s
  | .bootScrub => Sys2Proof.Machine.execBootScrub s
  | .flitReceive x0 => Sys2Proof.Machine.execFlitReceive x0 s
  | .replayRequest x0 => Sys2Proof.Machine.execReplayRequest x0 s
  | .idleFlitSend => Sys2Proof.Machine.execIdleFlitSend s
  | .linkRecovery x0 => Sys2Proof.Machine.execLinkRecovery x0 s
  | .linkRetrain x0 x1 x2 => Sys2Proof.Machine.execLinkRetrain x0 x1 x2 s
  | .rd x0 x1 x2 => Sys2Proof.Machine.execRd x0 x1 x2 s
  | .rdShared x0 x1 => Sys2Proof.Machine.execRdShared x0 x1 s
  | .rdOwn x0 x1 => Sys2Proof.Machine.execRdOwn x0 x1 s
  | .evict x0 x1 => Sys2Proof.Machine.execEvict x0 x1 s
  | .wr x0 x1 x2 => Sys2Proof.Machine.execWr x0 x1 x2 s
  | .wrPart x0 x1 x2 x3 => Sys2Proof.Machine.execWrPart x0 x1 x2 x3 s
  | .writeback x0 x1 x2 => Sys2Proof.Machine.execWriteback x0 x1 x2 s
  | .snpRsp x0 x1 => Sys2Proof.Machine.execSnpRsp x0 x1 s
  | .snpRspData x0 x1 => Sys2Proof.Machine.execSnpRspData x0 x1 s
  | .cpl x0 x1 => Sys2Proof.Machine.execCpl x0 x1 s
  | .cplData x0 x1 => Sys2Proof.Machine.execCplData x0 x1 s
  | .credit x0 x1 x2 x3 => Sys2Proof.Machine.execCredit x0 x1 x2 x3 s
  | .snoopTimeout x0 => Sys2Proof.Machine.execSnoopTimeout x0 s
  | .write x0 => Sys2Proof.Machine.execWrite x0 s
  | .writeAdd x0 => Sys2Proof.Machine.execWriteAdd x0 s
  | .readReq x0 => Sys2Proof.Machine.execReadReq x0 s
  | .readReply x0 => Sys2Proof.Machine.execReadReply x0 s
  | .writeToken x0 => Sys2Proof.Machine.execWriteToken x0 s
  | .freeToken x0 => Sys2Proof.Machine.execFreeToken x0 s
  | .check x0 => Sys2Proof.Machine.execCheck x0 s
  | .engineReq x0 => Sys2Proof.Machine.execEngineReq x0 s
  | .ack x0 => Sys2Proof.Machine.execAck x0 s
  | .error x0 => Sys2Proof.Machine.execError x0 s
  | .ctrl x0 => Sys2Proof.Machine.execCtrl x0 s
  | .inval x0 => Sys2Proof.Machine.execInval x0 s
  | .flitCrcError x0 x1 => Sys2Proof.Machine.execFlitCrcError x0 x1 s
  | .creditWord x0 x1 x2 => Sys2Proof.Machine.execCreditWord x0 x1 x2 s
  | .canalLinkDown x0 x1 => Sys2Proof.Machine.execCanalLinkDown x0 x1 s
  | .routeRecompute => Sys2Proof.Machine.execRouteRecompute s
  | .taskStart x0 x1 => Sys2Proof.Machine.execTaskStart x0 x1 s
  | .weightLoadIssue x0 x1 => Sys2Proof.Machine.execWeightLoadIssue x0 x1 s
  | .transposingLoadIssue x0 x1 => Sys2Proof.Machine.execTransposingLoadIssue x0 x1 s
  | .stepUnitSlot x0 x1 => Sys2Proof.Machine.execStepUnitSlot x0 x1 s
  | .bankOpen x0 x1 x2 x3 x4 x5 => Sys2Proof.Machine.execBankOpen x0 x1 x2 x3 x4 x5 s
  | .markFinal x0 x1 x2 x3 => Sys2Proof.Machine.execMarkFinal x0 x1 x2 x3 s
  | .drainRead x0 x1 => Sys2Proof.Machine.execDrainRead x0 x1 s
  | .checksumVerdict x0 x1 x2 => Sys2Proof.Machine.execChecksumVerdict x0 x1 x2 s
  | .tileCommit x0 x1 x2 x3 => Sys2Proof.Machine.execTileCommit x0 x1 x2 x3 s
  | .repeatProcedure x0 x1 x2 x3 x4 x5 x6 x7 => Sys2Proof.Machine.execRepeatProcedure x0 x1 x2 x3 x4 x5 x6 x7 s
  | .repeatComplete x0 x1 x2 => Sys2Proof.Machine.execRepeatComplete x0 x1 x2 s
  | .vectorFloatArithmetic x0 x1 x2 x3 x4 x5 x6 x7 => Sys2Proof.Machine.execVectorFloatArithmetic x0 x1 x2 x3 x4 x5 x6 x7 s
  | .vectorMinMax x0 x1 x2 x3 x4 x5 x6 => Sys2Proof.Machine.execVectorMinMax x0 x1 x2 x3 x4 x5 x6 s
  | .vectorCompareSelect x0 x1 x2 x3 x4 x5 x6 x7 => Sys2Proof.Machine.execVectorCompareSelect x0 x1 x2 x3 x4 x5 x6 x7 s
  | .vectorInteger x0 x1 x2 x3 x4 x5 => Sys2Proof.Machine.execVectorInteger x0 x1 x2 x3 x4 x5 s
  | .vectorIntegerMultiply x0 x1 x2 x3 x4 => Sys2Proof.Machine.execVectorIntegerMultiply x0 x1 x2 x3 x4 s
  | .vectorRegisterConversion x0 x1 x2 x3 x4 x5 => Sys2Proof.Machine.execVectorRegisterConversion x0 x1 x2 x3 x4 x5 s
  | .vectorTranscendental x0 x1 x2 x3 x4 x5 x6 => Sys2Proof.Machine.execVectorTranscendental x0 x1 x2 x3 x4 x5 x6 s
  | .vectorPermute x0 x1 x2 x3 x4 x5 => Sys2Proof.Machine.execVectorPermute x0 x1 x2 x3 x4 x5 s
  | .vectorLoad x0 x1 x2 x3 => Sys2Proof.Machine.execVectorLoad x0 x1 x2 x3 s
  | .convertingLoad x0 x1 x2 x3 x4 x5 x6 x7 => Sys2Proof.Machine.execConvertingLoad x0 x1 x2 x3 x4 x5 x6 x7 s
  | .vectorStore x0 x1 x2 x3 => Sys2Proof.Machine.execVectorStore x0 x1 x2 x3 s
  | .convertingStore x0 x1 => Sys2Proof.Machine.execConvertingStore x0 x1 s
  | .reduceSum x0 x1 => Sys2Proof.Machine.execReduceSum x0 x1 s
  | .reduceSumOfSquares x0 x1 => Sys2Proof.Machine.execReduceSumOfSquares x0 x1 s
  | .reduceMax x0 x1 => Sys2Proof.Machine.execReduceMax x0 x1 s
  | .reduceMin x0 x1 => Sys2Proof.Machine.execReduceMin x0 x1 s
  | .reduceArgmax x0 x1 => Sys2Proof.Machine.execReduceArgmax x0 x1 s
  | .reduceLogSumExp x0 x1 => Sys2Proof.Machine.execReduceLogSumExp x0 x1 s
  | .transposedRead x0 x1 x2 x3 => Sys2Proof.Machine.execTransposedRead x0 x1 x2 x3 s
  | .dmaCopy x0 x1 => Sys2Proof.Machine.execDmaCopy x0 x1 s
  | .dmaConvertingCopy x0 x1 => Sys2Proof.Machine.execDmaConvertingCopy x0 x1 s
  | .dmaZeroFill x0 x1 => Sys2Proof.Machine.execDmaZeroFill x0 x1 s
  | .flumePassIssue x0 x1 => Sys2Proof.Machine.execFlumePassIssue x0 x1 s
  | .flumePassStart x0 => Sys2Proof.Machine.execFlumePassStart x0 s
  | .flumeInputFilled x0 => Sys2Proof.Machine.execFlumeInputFilled x0 s
  | .flumeVerdict x0 x1 => Sys2Proof.Machine.execFlumeVerdict x0 x1 s
  | .flumePassComplete x0 => Sys2Proof.Machine.execFlumePassComplete x0 s
  | .acc x0 x1 => Sys2Proof.Machine.execAcc x0 x1 s
  | .axpby x0 x1 => Sys2Proof.Machine.execAxpby x0 x1 s
  | .scatterAdd x0 x1 => Sys2Proof.Machine.execScatterAdd x0 x1 s
  | .momentum x0 x1 => Sys2Proof.Machine.execMomentum x0 x1 s
  | .adam x0 x1 => Sys2Proof.Machine.execAdam x0 x1 s
  | .furrowRowWrite x0 x1 x2 x3 => Sys2Proof.Machine.execFurrowRowWrite x0 x1 x2 x3 s
  | .furrowRequestComplete x0 => Sys2Proof.Machine.execFurrowRequestComplete x0 s
  | .tokenSend x0 x1 => Sys2Proof.Machine.execTokenSend x0 x1 s
  | .waitPoint x0 x1 => Sys2Proof.Machine.execWaitPoint x0 x1 s
  | .rowFence x0 x1 x2 => Sys2Proof.Machine.execRowFence x0 x1 x2 s
  | .stepBoundaryCheck x0 => Sys2Proof.Machine.execStepBoundaryCheck x0 s
  | .grantInstruction x0 x1 x2 => Sys2Proof.Machine.execGrantInstruction x0 x1 x2 s
  | .scheduleWindowOpen x0 x1 x2 x3 => Sys2Proof.Machine.execScheduleWindowOpen x0 x1 x2 x3 s
  | .scheduleWindowClose x0 x1 x2 => Sys2Proof.Machine.execScheduleWindowClose x0 x1 x2 s
  | .maskSlotSpill x0 x1 x2 => Sys2Proof.Machine.execMaskSlotSpill x0 x1 x2 s
  | .maskSlotFill x0 x1 x2 => Sys2Proof.Machine.execMaskSlotFill x0 x1 x2 s
  | .commitCheck x0 x1 => Sys2Proof.Machine.execCommitCheck x0 x1 s
  | .intakePass x0 x1 x2 x3 x4 x5 x6 => Sys2Proof.Machine.execIntakePass x0 x1 x2 x3 x4 x5 x6 s
  | .sideTableRefresh x0 x1 x2 x3 x4 x5 x6 x7 => Sys2Proof.Machine.execSideTableRefresh x0 x1 x2 x3 x4 x5 x6 x7 s
  | .eccHoldEnd x0 => Sys2Proof.Machine.execEccHoldEnd x0 s
  | .stallReport x0 => Sys2Proof.Machine.execStallReport x0 s
  | .deferredWriteLand x0 => Sys2Proof.Machine.execDeferredWriteLand x0 s
  | .partialWriteLand x0 => Sys2Proof.Machine.execPartialWriteLand x0 s
  | .correctionWriteBack x0 => Sys2Proof.Machine.execCorrectionWriteBack x0 s
  | .patrolScrub x0 x1 => Sys2Proof.Machine.execPatrolScrub x0 x1 s
  | .hbmRead x0 x1 x2 x3 => Sys2Proof.Machine.execHbmRead x0 x1 x2 x3 s
  | .hbmWrite x0 x1 x2 x3 => Sys2Proof.Machine.execHbmWrite x0 x1 x2 x3 s
  | .hbmRefresh x0 => Sys2Proof.Machine.execHbmRefresh x0 s
  | .poolRead x0 x1 x2 => Sys2Proof.Machine.execPoolRead x0 x1 x2 s
  | .cacheFillReturn x0 x1 => Sys2Proof.Machine.execCacheFillReturn x0 x1 s
  | .mergeTargetSplit x0 x1 x2 => Sys2Proof.Machine.execMergeTargetSplit x0 x1 x2 s
  | .poolRangeChange x0 x1 => Sys2Proof.Machine.execPoolRangeChange x0 x1 s
  | .admissionFillSlot x0 x1 => Sys2Proof.Machine.execAdmissionFillSlot x0 x1 s
  | .programSwitch x0 x1 => Sys2Proof.Machine.execProgramSwitch x0 x1 s
  | .juniorDeadlineExpiry x0 => Sys2Proof.Machine.execJuniorDeadlineExpiry x0 s
  | .stepBoundaryActions x0 x1 => Sys2Proof.Machine.execStepBoundaryActions x0 x1 s
  | .governorDecision x0 x1 x2 => Sys2Proof.Machine.execGovernorDecision x0 x1 x2 s
  | .bestEffortSample x0 x1 x2 x3 => Sys2Proof.Machine.execBestEffortSample x0 x1 x2 x3 s
  | .suspectEvent x0 x1 => Sys2Proof.Machine.execSuspectEvent x0 x1 s
  | .inFieldSurvey x0 x1 x2 x3 => Sys2Proof.Machine.execInFieldSurvey x0 x1 x2 x3 s
  | .coreSilenceTimeout x0 => Sys2Proof.Machine.execCoreSilenceTimeout x0 s
  | .stageLost x0 => Sys2Proof.Machine.execStageLost x0 s
  | .reliefPlacementApply x0 x1 x2 => Sys2Proof.Machine.execReliefPlacementApply x0 x1 x2 s
  | .surveyDue x0 => Sys2Proof.Machine.execSurveyDue x0 s
  | .surveyDeferralLimit x0 => Sys2Proof.Machine.execSurveyDeferralLimit x0 s
  | .surveyOverdueReport x0 => Sys2Proof.Machine.execSurveyOverdueReport x0 s
  | .checksDisabledReport x0 => Sys2Proof.Machine.execChecksDisabledReport x0 s
  | .powerSample x0 x1 x2 x3 x4 => Sys2Proof.Machine.execPowerSample x0 x1 x2 x3 x4 s
  | .allotmentControl x0 x1 x2 => Sys2Proof.Machine.execAllotmentControl x0 x1 x2 s
  | .allotmentWindowEnd x0 => Sys2Proof.Machine.execAllotmentWindowEnd x0 s
  | .overrunReport x0 x1 => Sys2Proof.Machine.execOverrunReport x0 x1 s
  | .phaseGroupLatch x0 => Sys2Proof.Machine.execPhaseGroupLatch x0 s
  | .phaseGroupRepower x0 => Sys2Proof.Machine.execPhaseGroupRepower x0 s
  | .setpointRaise x0 => Sys2Proof.Machine.execSetpointRaise x0 s
  | .setpointRelax x0 => Sys2Proof.Machine.execSetpointRelax x0 s
  | .settingChange x0 => Sys2Proof.Machine.execSettingChange x0 s
  | .temperatureSample x0 => Sys2Proof.Machine.execTemperatureSample x0 s
  | .thermalLevelAct x0 => Sys2Proof.Machine.execThermalLevelAct x0 s
  | .thermalLadderStep x0 => Sys2Proof.Machine.execThermalLadderStep x0 s
  | .clusterShed x0 => Sys2Proof.Machine.execClusterShed x0 s
  | .fieldShed x0 => Sys2Proof.Machine.execFieldShed x0 s
  | .shedHaltTimeout x0 x1 => Sys2Proof.Machine.execShedHaltTimeout x0 x1 s
  | .shedReturn x0 => Sys2Proof.Machine.execShedReturn x0 s
  | .hardwareTrip x0 x1 => Sys2Proof.Machine.execHardwareTrip x0 x1 s
  | .gaugeWarning x0 x1 => Sys2Proof.Machine.execGaugeWarning x0 x1 s
  | .spillRequest x0 x1 => Sys2Proof.Machine.execSpillRequest x0 x1 s
  | .spill x0 => Sys2Proof.Machine.execSpill x0 s
  | .lockLoss x0 => Sys2Proof.Machine.execLockLoss x0 s
  | .holdoverReport x0 => Sys2Proof.Machine.execHoldoverReport x0 s
  | .referenceLoss => Sys2Proof.Machine.execReferenceLoss s
  | .referenceReturn => Sys2Proof.Machine.execReferenceReturn s
  | .bypassReengage x0 => Sys2Proof.Machine.execBypassReengage x0 s
  | .correlationMark => Sys2Proof.Machine.execCorrelationMark s
  | .correlationRecord x0 => Sys2Proof.Machine.execCorrelationRecord x0 s
  | .securePointCapture x0 => Sys2Proof.Machine.execSecurePointCapture x0 s
  | .secureSend x0 => Sys2Proof.Machine.execSecureSend x0 s
  | .epochCommit x0 => Sys2Proof.Machine.execEpochCommit x0 s
  | .commitNotice x0 x1 => Sys2Proof.Machine.execCommitNotice x0 x1 s
  | .heartbeat => Sys2Proof.Machine.execHeartbeat s
  | .heartbeatReceive x0 x1 => Sys2Proof.Machine.execHeartbeatReceive x0 x1 s
  | .memberLost x0 => Sys2Proof.Machine.execMemberLost x0 s
  | .selfFence x0 => Sys2Proof.Machine.execSelfFence x0 s
  | .reliefDeviceSilent => Sys2Proof.Machine.execReliefDeviceSilent s
  | .takeover x0 x1 x2 x3 x4 => Sys2Proof.Machine.execTakeover x0 x1 x2 x3 x4 s
  | .rollbackNotice x0 => Sys2Proof.Machine.execRollbackNotice x0 s
  | .ethFecLimit x0 x1 => Sys2Proof.Machine.execEthFecLimit x0 x1 s
  | .ethPacketReceive x0 x1 x2 => Sys2Proof.Machine.execEthPacketReceive x0 x1 x2 s
  | .ethPacketSend x0 x1 x2 x3 => Sys2Proof.Machine.execEthPacketSend x0 x1 x2 x3 s
  | .generatorRelock x0 => Sys2Proof.Machine.execGeneratorRelock x0 s
  | .crossingSkewLeftWindow x0 => Sys2Proof.Machine.execCrossingSkewLeftWindow x0 s
  | .powerBrakeRelease => Sys2Proof.Machine.execPowerBrakeRelease s
  | .orderlyPowerDown => Sys2Proof.Machine.execOrderlyPowerDown s

end Sys2Proof.Machine
end

