-- ==== Sys2Proof/Machine/Tick.lean ====
section
/-!
DEFINITION. What one step does on an empty queue: one nominal cycle passes in every region (log entry 4).  Counters count, flits
cross the canal, banks serve their accesses, holds run down, vector results fall due, merges reply, partial resets end and powered cycles
are metered.
-/
namespace Sys2Proof.Machine

/-- Local counts of the regions that run out of reset (R395). -/
def tickRegions (s : State) : State :=
  let regions : Tab Region := s.clk.regions.map (fun e => (e.1, if e.2.out && e.2.running then { e.2 with count := e.2.count + 1 } else e.2))
  { s with clk := { s.clk with regions := regions } }

/-- A counted cycle of a core's task, for its sequence and its partition (R422). -/
def countCycle (s : State) (c : Nat) : State :=
  match (getCore s c).task with
  | none => s
  | some t =>
    let s := match getSeq s t.seq with
      | none => s
      | some q => setSeq s t.seq { q with cyc := q.cyc + 1 }
    match corePart s c with
    | none => s
    | some p => match getPart s p with
      | none => s
      | some v => setPart s p { v with cyc := v.cyc + 1 }

/-- A cycle of a scratchpad's banks, which its field's domain powers (R18, R140-R142). -/
def tickBanks (s : State) (c : Nat) : State :=
  if !(getRegion s (60 + coreField c)).powered then s
  else
    let r := nextCycle s (.spad c) (coreRuns s c)
    if r.2 then r.1 else bankConflict r.1 c

/-- One cycle of a core: a hold runs and is counted, an ECC hold before a credit hold (R108, R112); else the schedule counter of its task
advances (R106) and due results land. -/
def tickCore (s : State) (c : Nat) : State :=
  if !coreLive s c then s
  else
    let k := getCore s c
    let s := setCore s c { k with ecc := k.ecc - 1, credit := k.credit.map (fun h => { h with cycles := h.cycles + 1 }) }
    if k.ecc ≠ 0 then bump s .coSchHoldEcc c 1
    else if !k.credit.isEmpty then
      let s := bump s .coSchHoldCredit c 1
      if k.credit.any (·.cause = .repeatRun) then bump s .coChkRepeat c 1 else s
    else if k.task.isNone then s
    else landDue (countCycle (setSchedCount s c (schedCount s c + 1)) c) c

/-- Transfers of a core that wait for credits or data go on as these come (R107, R166). -/
def tickDma (s : State) (c : Nat) : State := if (getCore s c).dmaWait.isEmpty then s else dmaFlush s c

/-- A cycle of a field's pool: its banks, the replies that waited for a receive credit, and those of merged reads that are due (R154-R157). -/
def tickField (s : State) (f : Nat) : State :=
  if !(getRegion s (60 + f)).powered then s
  else
    let s := serveHeld (nextCycle s (.pool f) true).1 f
    let now := (getRegion s (60 + f)).count
    ((getField s f).merges.filter (fun m => !m.fill && decide (m.due ≤ now))).foldl (fun s m => mergeClose s f m) s

/-- Engine blocks with furrow parts that wait read the next one when their engines are free (R189, R196). -/
def tickEngines (s : State) : State := ((s.blocks.filter (fun b => !b.2.ops.isEmpty)).map Prod.fst).foldl engineRead s

/-- Powered cluster cycles (class 14): of the cluster's partition, charged in turn to the tasks that run on it. -/
def tickCluster (s : State) (cl : Nat) : State :=
  let g := getRegion s cl
  if !g.powered then s
  else
    let busy := (clusterCores cl).filter (fun c => (getCore s c).task.isSome)
    match busy[g.count % busy.length]? with
    | some c => meterCore s c 14 1
    | none => meter s ((s.head.parts.find? (fun p => p.2.clusters.contains cl)).map Prod.fst) 14 1

/-- Powered field cycles (class 15): of the owners of its clusters, in turn. -/
def tickFieldPower (s : State) (f : Nat) : State :=
  let g := getRegion s (60 + f)
  if !g.powered then s
  else
    let owners := (fieldClusters f).filterMap (fun cl => (s.head.parts.find? (fun p => p.2.clusters.contains cl)).map Prod.fst)
    meter s owners[g.count % owners.length]? 15 1

/-- Cycles since the last credit word of each link that owes credits (R262). -/
def tickLinks (s : State) : State :=
  let links : Tab CLink := s.links.map (fun e => (e.1, if creditsOwed e.2 then { e.2 with sinceWord := e.2.sinceWord + 1 } else e.2))
  { s with links := links }

def tick (s : State) : State :=
  let s := canalCycle (tickLinks (tickRegions s))
  let cores := s.cores.map Prod.fst
  let s := cores.foldl tickBanks s
  let s := cores.foldl tickDma (cores.foldl tickCore s)
  let s := tickEngines ((s.fields.map Prod.fst).foldl tickField s)
  let s := (List.range 60).foldl tickCluster s
  let s := (List.range 12).foldl tickFieldPower s
  endResets s

end Sys2Proof.Machine
end

