-- ==== Sys2Proof/Safety.lean ====
section
/-!
DEFINITION. The terms that claims are stated in: a command completes in a state, what a command leaves alone, the
completions that it posts, and the invariants of the device.
-/
namespace Sys2Proof

open Sys2Proof.Machine

/-- The command completes in a next state of which `P` holds. -/
def Completes (i : Instr) (s : State) (P : State → Prop) : Prop := ∃ t, exec i s = .next t ∧ P t

/-- Every byte of memory reads as before. -/
def MemSame (s t : State) : Prop := ∀ a, mread t.mem a = mread s.mem a

/-- Every byte outside `first`, inclusive, to `last`, exclusive, reads as before. -/
def MemOutside (s t : State) (first last : Nat) : Prop := ∀ a, a < first ∨ last ≤ a → mread t.mem a = mread s.mem a

/-- Bytes stand at an address, and every other byte reads as before. -/
def MemStored (s t : State) (a : Nat) (bs : List Byte) : Prop :=
  mreads t.mem a bs.length = bs ∧ MemOutside s t a (a + bs.length)

/-- Every stored register word but one reads as before. -/
def OnlyReg (s t : State) (r : Reg) (unit word : Nat) : Prop := ∀ a, a ≠ r.addr unit word → tget t.regs a = tget s.regs a

/-- Every scratchpad, register, lane, window and mask of the cores, and every field and engine, is as before. -/
def UnitsSame (s t : State) : Prop :=
  t.cores = s.cores ∧ t.fields = s.fields ∧ t.blocks = s.blocks ∧ t.passes = s.passes ∧ t.furrow = s.furrow ∧ t.links = s.links

/-- Every register word but those of the registers named, in any copy, reads as before. -/
def OnlyRegs (s t : State) (rs : List Reg) : Prop := ∀ a, (∀ r ∈ rs, ∀ u w, a ≠ r.addr u w) → tget t.regs a = tget s.regs a

/-- Every core but one is as before. -/
def OnlyCore (s t : State) (c : Nat) : Prop := ∀ d, d ≠ c → getCore t d = getCore s d

/-- Every engine block but one is as before. -/
def OnlyBlock (s t : State) (b : Nat) : Prop := ∀ d, d ≠ b → getBlock t d = getBlock s d

/-- Every field but one is as before. -/
def OnlyField (s t : State) (f : Nat) : Prop := ∀ d, d ≠ f → getField t d = getField s d

/-- Granules lie in banks of their own (R136, R137, R146). -/
def BanksApart (s : State) (gs : List Nat) : Prop := (gs.map (bankOf s)).Nodup

/-- No bank has a scheduled access in this cycle. -/
def NoneTouched (s : State) : Prop := ∀ u, (getBanks s u).touched = []

/-- Of the cores only the bank port of one has changed. -/
def OnlyPort (s t : State) (c : Nat) : Prop := getCore t c = { getCore s c with port := (getCore t c).port } ∧ OnlyCore s t c

/-- What the commands of cores, engines, canal and memories leave alone: clocks, power but for its counted events, fuses, boot,
ports and connections. -/
def Elsewhere (s t : State) : Prop :=
  t.clk = s.clk ∧ t.pow = { s.pow with events := t.pow.events } ∧ t.fuses = s.fuses ∧ t.boot = s.boot ∧ t.ports = s.ports ∧
  t.conns = s.conns

/-- As `Elsewhere`, for a command whose packets enter or leave the canal: a crossing's fill may change too (R389). -/
def ElsewhereSent (s t : State) : Prop :=
  t.clk = { s.clk with crossings := t.clk.crossings } ∧ (∀ x, getCrossing t x = { getCrossing s x with fill := (getCrossing t x).fill }) ∧
  t.pow = { s.pow with events := t.pow.events } ∧ t.fuses = s.fuses ∧ t.boot = s.boot ∧ t.ports = s.ports ∧ t.conns = s.conns

/-- Pools, engines and their requests are as before. -/
def EnginesSame (s t : State) : Prop :=
  t.fields = s.fields ∧ t.blocks = s.blocks ∧ t.passes = s.passes ∧ t.furrow = s.furrow

/-- A packet has left the canal, and others have entered it behind the rest. -/
def Carried (s t : State) (ty : PType) (p : Packet) (out : List (PType × Packet)) : Prop :=
  t.canal = eraseFirst (ty, p) s.canal ++ out

/-- Every sequence is as before but for the energy charged to it (R422). -/
def EnergyOnly (s t : State) : Prop :=
  ∀ q, (getSeq t q).map (fun r => { r with energy := 0 }) = (getSeq s q).map (fun r => { r with energy := 0 })

/-- The headgate complex is as before but for the energy charged to its sequences. -/
def Charged (s t : State) : Prop := EnergyOnly s t ∧ t.head = { s.head with seqs := t.head.seqs }

/-- What the passage of a packet changes beside its target: the routers' counters and calendars, the links, crossings and output ports,
the metered events and the energy charged for them. -/
def Passed (s t : State) (rs : List Reg) : Prop :=
  ElsewhereSent s t ∧ OnlyRegs s t ([.cnRtDataFlits, .cnRtCtlFlits] ++ rs) ∧ EnergyOnly s t ∧
  t.head = { s.head with secure := t.head.secure, seqs := t.head.seqs }

/-- The ERROR that refuses a request (R164). -/
def refusal (fromE : Nat) (p : Packet) (st : St) : PType × Packet :=
  (.error, { mkPkt p.cls fromE p.src p.part p.addr.toNat st.code with index := p.index, gen := p.gen })

/-- The ACK of n granules of a request. -/
def ackFor (fromE : Nat) (p : Packet) (n : Nat) : PType × Packet := (.ack, mkPkt .standard fromE p.src p.part p.addr.toNat n)

/-- Results of a vector instruction have been put in flight, to land `lat` counts after its issue (R120); what it counts beside
them stands in registers, metered events and sequence energies. -/
def VecDue (s t : State) (c lat : Nat) (ws : List VWrite) : Prop :=
  getCore t c = { getCore s c with vec := { (getCore s c).vec with
    due := (getCore s c).vec.due ++ ws.map (fun w => (schedCount s c + lat, w)) } } ∧
  OnlyCore s t c ∧ t.mem = s.mem ∧ t.canal = s.canal ∧ EnginesSame s t ∧ Elsewhere s t ∧
  OnlyRegs s t [.coVecIssued, .coRedIssued, .coVecEvent]

/-- An accumulator as a fold sees it: the newest result in flight for it, else what it holds (R124). -/
def accNow (k : Core) (a : Nat) : W32 × W32 × Bool :=
  k.vec.due.foldl (fun x d => match d.2 with
    | .acc b lo hi sl => if b = a then (lo, hi, sl) else x
    | _ => x) (tgetD k.vec.accs a (0, 0, false))

/-- A Brivlink message may leave now: its channel has the credit, its answers have room, and none of its channel waits before it (R329). -/
def bvReady (b : Bv) (m : BvMsg) : Prop :=
  ∀ ch n, bvCost m = some (ch, n) → n ≤ bvCredit b ch ∧ bvRoom b m = true ∧ ∀ w ∈ b.wait, (bvCost w).map Prod.fst ≠ some ch

/-- A received message has its credit returned and is answered, once the answer may leave. -/
def Answered (s t : State) (credit m : BvMsg) : Prop :=
  (bvReady s.bv m → t.bv.tx = s.bv.tx ++ [credit, m] ∧ t.bv.wait = s.bv.wait) ∧
  (¬ bvReady s.bv m → t.bv.tx = s.bv.tx ++ [credit] ∧ t.bv.wait = s.bv.wait ++ [m])

/-- No transfer of a core waits on a tag of the Brivlink. -/
def NoWaiter (s : State) (tag : Nat) : Prop := ∀ e ∈ s.cores, (getCore s e.1).dmaWait.any (fun w => w.2.contains tag) = false

/-- The final completion of a mailbox command (Table HGM-8). -/
def finalCpl (h : Hdr) (st : St) (detail detail2 : Nat) : Cpl :=
  ⟨h.ctx, h.tag, st.code, false, BitVec.ofNat 64 detail, BitVec.ofNat 32 detail2, BitVec.ofNat 32 (detail2 / 2 ^ 32), 0, h.irq⟩

/-- A completion is the newest of those that are due. -/
def Posted (t : State) (c : Cpl) : Prop := ∃ l, t.head.cplDue = l ++ [c]

/-- A core runs a task of a sequence, outside a reload proper. -/
def TaskRuns (s : State) (c : Nat) (k : Task) (q : Sequ) : Prop :=
  (getCore s c).task = some k ∧ getSeq s k.seq = some q ∧ s.head.reload ≠ 2

/-- The sequence of a core's task has had its final completion, and the task has ended (R294, R308). -/
def TaskEnds (t : State) (c : Nat) (k : Task) (q : Sequ) (st : St) (detail : Nat) : Prop :=
  getSeq t k.seq = none ∧ (getCore t c).task = none ∧
  ∃ e, Posted t ⟨q.ctx, q.tag, st.code, false, BitVec.ofNat 64 detail, 0, 0, e, q.irq⟩

/-- The body of an event record (R482). -/
def eventBody (code status : Nat) (part : Option Nat) (unit detail : Nat) : List Byte :=
  [BitVec.ofNat 8 status, BitVec.ofNat 8 (part.getD 0xFF)] ++ leBytes 2 unit ++ leBytes 2 code ++ leBytes 2 0 ++ leBytes 8 detail

/-- The newest telemetry record is of a kind, for a partition or none, with a body. -/
def Recorded (t : State) (kind : Nat) (part : Option Nat) (body : List Byte) : Prop :=
  ∃ r, t.head.tel.getLast? = some r ∧ r.kind = kind ∧ r.part = part ∧ r.body = body

/-- The newest telemetry record is an event record. -/
def Reported (t : State) (code status : Nat) (part : Option Nat) (unit detail : Nat) : Prop :=
  Recorded t 3 part (eventBody code status part unit detail)

/-- `h` with the telemetry of `g`: a record may have been added. -/
def withTel (h g : Head) : Head :=
  { h with tel := g.tel, telNext := g.telNext, telLost := g.telLost, telGone := g.telGone, telPush := g.telPush, telBuf := g.telBuf }

/-- Companion memory reads as before. -/
def CompSame (s t : State) : Prop := ∀ a, 3 * 2 ^ 44 ≤ a → mread t.mem a = mread s.mem a

/-- What a device reset leaves: nothing of the cores, fields, links, queues and partitions, no memory of the device known, the
fuses, the ledger, the waiting commands and the companion's memory as they were. -/
def Dropped (s t : State) : Prop :=
  t.cores = [] ∧ t.fields = [] ∧ t.blocks = [] ∧ t.passes = [] ∧ t.links = [] ∧ t.canal = [] ∧ t.conns = [] ∧ t.bv = Bv.reset ∧
  t.head = { Head.reset with ledger := s.head.ledger } ∧ t.fuses = s.fuses ∧ t.pending = s.pending ∧ CompSame s t

/-- The firmware decides the command now, and its header passes every check. -/
def Accepts (s : State) (h : Hdr) (op : Nat) : Prop := decides s h op = true ∧ headCheck s h op = none

/-- Header and opcode of a mailbox command (Table HGM-9). -/
def mailboxOf : Instr → Option (Hdr × Nat)
  | .identify h _ => some (h, 0x01)
  | .partitionCreate h _ => some (h, 0x02)
  | .partitionDestroy h => some (h, 0x03)
  | .partitionReset h => some (h, 0x04)
  | .clusterReset h _ => some (h, 0x04)
  | .coreReset h _ => some (h, 0x04)
  | .programLoad h _ _ _ _ => some (h, 0x10)
  | .programUnload h _ => some (h, 0x11)
  | .modelAttach h _ _ _ _ _ => some (h, 0x12)
  | .pinWeights h _ _ _ _ _ _ _ _ => some (h, 0x13)
  | .unpinWeights h _ => some (h, 0x14)
  | .dispatch h _ _ _ _ _ _ _ => some (h, 0x20)
  | .cancel h _ => some (h, 0x21)
  | .windowOpen h _ _ _ _ => some (h, 0x30)
  | .windowClose h _ _ _ => some (h, 0x31)
  | .creditGrant h _ _ _ => some (h, 0x32)
  | .secureConfig h _ _ _ => some (h, 0x40)
  | .reliefAssign h _ _ _ => some (h, 0x41)
  | .reliefTakeOver h _ _ _ => some (h, 0x41)
  | .reliefStandDown h _ _ _ => some (h, 0x41)
  | .checkpointExport h _ _ _ _ _ => some (h, 0x42)
  | .allotmentSet h _ _ _ _ => some (h, 0x50)
  | .telemetryRead h _ _ _ => some (h, 0x51)
  | .surveyRun h _ _ _ _ => some (h, 0x60)
  | .fallowRead h _ _ _ => some (h, 0x61)
  | .attest h _ _ _ => some (h, 0x70)
  | .firmwareReload h _ _ => some (h, 0x71)
  | _ => none

/-- What no command takes back (R3, R408, R419, R439): fused and one-time memory keeps its serial number, grade, keys and
certificate, its security version does not fall, a revoked key slot stays revoked, and the fallow ledger only grows. -/
def Kept (s t : State) : Prop :=
  t.fuses.serial = s.fuses.serial ∧ t.fuses.grade = s.fuses.grade ∧ t.fuses.keyHash = s.fuses.keyHash ∧
  t.fuses.cert = s.fuses.cert ∧ t.fuses.ethBase = s.fuses.ethBase ∧ t.fuses.vmin = s.fuses.vmin ∧ s.fuses.svn ≤ t.fuses.svn ∧
  (∀ k ∈ s.fuses.revoked, k ∈ t.fuses.revoked) ∧ s.head.ledger <+: t.head.ledger

/-- The invariant of the device: memory stands in its canonical form, and the Brivlink holds at most 512 flits for a
replay (R330). -/
def Inv (s : State) : Prop := s.mem.wf = true ∧ s.bv.kept.length ≤ 512

end Sys2Proof
end

