-- ==== Sys2Proof/Certificates/Slice0/Obligations.lean ====
section
/-!
DEFINITION. The statements about the device, for every state and every operand.
-/
open Sys2Proof
open Sys2Proof.Machine

/-- The block's own rule: a step takes the command at the front of the queue and runs it on the queue's rest. Model's choice (log
entry 4): on an empty queue one cycle passes. -/
def Obligations.StepRunsFront : Prop :=
  (∀ (s : State) (c : Instr) (rest : List Instr), s.pending = c :: rest → step s = exec c { s with pending := rest }) ∧
  (∀ s : State, s.pending = [] → step s = .next (tick s))

/-- No command takes from the queue or puts into it; one step only takes its front. -/
def Obligations.ExecKeepsQueue : Prop :=
  ∀ (i : Instr) (s t : State), exec i s = .next t → t.pending = s.pending

/-- Every command answers a next state: nothing of the device's own work is a fault or a refusal of the model. Model's choices in
it: log entry 3. -/
def Obligations.EveryCommandAnswers : Prop :=
  ∀ (i : Instr) (s : State), ∃ t, exec i s = .next t

/-- Memory keeps its canonical form and the replay buffer its bound over every step, from every state. -/
def Obligations.StepKeepsInvariant : Prop :=
  ∀ s t : State, Inv s → step s = .next t → Inv t

/-- Fused memory and the fallow ledger lose nothing over any step. -/
def Obligations.StepKeepsFuses : Prop :=
  ∀ s t : State, step s = .next t → Kept s t

/-- What the manual gives as the state after reset: no register word differs from its table's reset value, no command waits, no
memory byte is listed, no partition, program or pipeline exists, and the boot stands before phase 1. The invariant holds right
after reset. Model's choices in it: log entries 5, 6. -/
def Obligations.ResetState : Prop :=
  (State.reset.pending = [] ∧ (∀ (r : Reg) (u w : Nat), rawReg State.reset r u w = r.resetAt u w) ∧
   (∀ a, mread State.reset.mem a = 0) ∧ State.reset.head.parts = [] ∧ State.reset.head.progs = [] ∧ State.reset.head.pipes = [] ∧
   State.reset.boot.phase = 0 ∧ State.reset.boot.ready = false ∧ State.reset.boot.vaon = false ∧
   (∀ r, (getRegion State.reset r).powered = false) ∧ State.reset.pow.dev.allot = some 8400 ∧ State.reset.pow.dev.window = 2000) ∧
  (Inv State.reset)

/-- R348, R349: a command that the firmware does not decide now waits; one whose header fails a check is refused with that check's
status, and beside its mark as decided nothing else of the device changes. IDENTIFY, TELEMETRY_READ, FALLOW_READ and ATTEST write
their bytes to the companion's memory and to no other byte, and complete with status OK and the results of Table HGM-9. Model's
choices in it: log entries 1, 3, 12, 53. -/
def Obligations.MailboxDecidesAndRecords : Prop :=
  (∀ (i : Instr) (h : Hdr) (op : Nat) (s : State), mailboxOf i = some (h, op) →
     (decides s h op = false → exec i s = .next s) ∧
     (∀ st, decides s h op = true → headCheck s h op = some st →
       Completes i s fun t => t = markDecided h { s with head := { s.head with cplDue := s.head.cplDue ++ [finalCpl h st 0 0] } })) ∧
  ((∀ (h : Hdr) (dest : W64) (s : State), Accepts s h 0x01 → compAddr dest = true →
     Completes (.identify h dest) s fun t =>
       MemStored s t dest.toNat (identWindow s) ∧ UnitsSame s t ∧ t.regs = s.regs ∧
       Posted t (finalCpl h .ok (s.boot.status + 256 * s.boot.presented) 0)) ∧
   (∀ (h : Hdr) (buf : W64) (bytes first : Nat) (s : State), Accepts s h 0x51 → compAddr buf = true →
     let x := takeRecs s h (s.head.tel.filter (fun r => seqFrom r.seq first)) bytes (first % 2 ^ 32)
     Completes (.telemetryRead h buf bytes first) s fun t =>
       MemStored s t buf.toNat x.1 ∧ UnitsSame s t ∧ t.regs = s.regs ∧
       Posted t (finalCpl h .ok (x.2.1 + 2 ^ 32 * x.2.2)
         (s.head.telGone.filter (fun g => seqFrom g.1 first && mayRead s h g.2 g.1)).length)) ∧
   (∀ (h : Hdr) (buf : W64) (first count : Nat) (s : State), Accepts s h 0x61 → compAddr buf = true →
     Completes (.fallowRead h buf first count) s fun t =>
       MemStored s t buf.toNat ((((s.head.ledger ++ List.replicate (4096 - s.head.ledger.length) 0).drop first).take count).flatMap (fun (e : W32) => leBytes 4 e.toNat)) ∧
       UnitsSame s t ∧ t.regs = s.regs ∧ Posted t (finalCpl h .ok s.head.ledger.length 0)) ∧
   (∀ (h : Hdr) (buf : W64) (bytes : Nat) (nonce : BitVec 256) (s : State), Accepts s h 0x70 → compAddr buf = true →
     512 + s.fuses.cert.length ≤ bytes →
     let b := attestBody s h nonce
     Completes (.attest h buf bytes nonce) s fun t =>
       MemStored s t buf.toNat (b ++ Config.ecdsaSign (Config.sha512 b) ++ s.fuses.cert) ∧ UnitsSame s t ∧ t.regs = s.regs ∧
       Posted t (finalCpl h .ok (512 + s.fuses.cert.length) 0)))

/-- PARTITION_CREATE takes the least free number, assigns its contexts and changes no other partition and no memory.
PARTITION_DESTROY frees the number and the contexts, and leaves the partition's scratchpads zero (R459). The three reset commands,
where no reset under way covers their cores, put those cores into reset with neither task nor fault, and answer once the bound of
Table BOOT-7 has passed. Model's choices in it: log entries 36, 49. -/
def Obligations.PartitionsComeAndGo : Prop :=
  (∀ (h : Hdr) (block : W64) (id : Nat) (s : State), Accepts s h 0x02 → compAddr block = true →
     let b := blockBytes s block (64 + 16 * bytesNat (blockBytes s block 64) 13 1)
     let n := partOfBlock s b
     blockBad b n = false → partClash s n = false → tfree s.head.parts 60 = some id →
     Completes (.partitionCreate h block) s fun t =>
       getPart t id = some n ∧ (∀ p, p ≠ id → getPart t p = getPart s p) ∧
       (∀ i < n.ctxCount, ctxPart t (n.ctxFirst + i) = some id) ∧ MemSame s t ∧ UnitsSame s t ∧
       Posted t (finalCpl h .ok id 0)) ∧
  (∀ (h : Hdr) (v : Partition) (s : State), Accepts s h 0x03 → getPart s h.part = some v →
     Completes (.partitionDestroy h) s fun t =>
       getPart t h.part = none ∧ (∀ i < v.ctxCount, ctxPart t (v.ctxFirst + i) = none) ∧
       (∀ c ∈ v.clusters.flatMap clusterCores, ∀ o < spadBytes, mread t.mem (spadBase c + o) = 0) ∧
       Posted t (finalCpl h .ok 0 0)) ∧
  (∀ (h : Hdr) (s : State) (i : Instr) (level : Nat) (cores : List Nat), Accepts s h 0x04 →
     (i = .partitionReset h ∧ level = 0 ∧ cores = partCores s h.part ∨
       (∃ cl v, i = .clusterReset h cl ∧ level = 1 ∧ cores = clusterCores cl ∧ getPart s h.part = some v ∧ v.clusters.contains cl = true) ∨
       (∃ c, i = .coreReset h c ∧ level = 2 ∧ cores = [c] ∧ c < 240 ∧ corePart s c = some h.part)) →
     s.head.resets.find? (fun r => decide (r.level ≤ level) && r.cores.any cores.contains) = none →
     Completes i s fun t =>
       (∀ c ∈ cores, (getCore t c).resetting = true ∧ (getCore t c).task = none ∧ (getCore t c).faulted = false) ∧
       (∃ l all cs, t.head.resets = l ++ [⟨level, some h.part, all, hgNow t + resetBound level, cs ++ [resetCpl h]⟩] ∧
         ∀ c ∈ cores, c ∈ all) ∧
       t.boot.partialResets = s.boot.partialResets + 1)

/-- PROGRAM_LOAD that nothing refuses places the image in the partition's image range and enters its records under the least free
program number. PROGRAM_UNLOAD removes an idle program with its models; a program with a sequence in flight only stops taking
work. MODEL_ATTACH binds the tensors of its table and gives each governed layer its policy and its first format. PIN_WEIGHTS
enters the pinned matrix under the least free handle; UNPIN_WEIGHTS of a matrix that no pass names removes it (R174). Model's
choices in it: log entries 8, 10, 24, 42, 49. -/
def Obligations.ProgramsAndModels : Prop :=
  (∀ (h : Hdr) (image : W64) (bytes reserved : Nat) (img : Image) (v : Partition) (id base : Nat) (s : State),
     Accepts s h 0x10 → getPart s h.part = some v → loadRefusal s h.part v image bytes reserved img = none →
     tfree s.head.progs 1024 = some id → imagePlace s v bytes = some base → base % 64 = 0 → base + bytes ≤ hbmTop →
     Completes (.programLoad h image bytes reserved img) s fun t =>
       tget t.head.progs id = some ⟨img, h.part, base, bytes, reserved, false⟩ ∧
       mreads t.mem base bytes = mreads s.mem image.toNat bytes ∧ Posted t (finalCpl h .ok id 0)) ∧
  (∀ (h : Hdr) (program : Nat) (g : Program) (s : State), Accepts s h 0x11 → tget s.head.progs program = some g → g.part = h.part →
     ((progSeqs s program true = [] → Completes (.programUnload h program) s fun t =>
         tget t.head.progs program = none ∧ (∀ e ∈ t.head.models, e.2.prog ≠ program) ∧ MemSame s t ∧
         Posted t (finalCpl h .ok 0 0)) ∧
      (progSeqs s program true ≠ [] → Completes (.programUnload h program) s fun t =>
         t = markDecided h { s with head := { s.head with progs := tput s.head.progs program { g with unloading := true } } }))) ∧
  (∀ (h : Hdr) (program policies tensors id : Nat) (table policyArray : W64) (g : Program) (s : State),
     Accepts s h 0x12 → tget s.head.progs program = some g → g.part = h.part → g.unloading = false →
     argAddr table = true → (policies = 0 ∨ argAddr policyArray = true ∧ policies = g.img.governed) → tensors = g.img.tensors.length →
     let pol := attachPolicies s policyArray policies g.img.governed
     let ents := (List.range tensors).map (fun i => mreads s.mem (table.toNat + 32 * i) 32)
     (∀ b ∈ ents, bytesNat b 28 4 = 0) → pol.all polOk = true → cmdReadable s h.part table (32 * tensors) = true →
     (policies = 0 ∨ cmdReadable s h.part policyArray (8 * policies) = true) → tfree s.head.models 4096 = some id →
     Completes (.modelAttach h program policies tensors table policyArray) s fun t =>
       (∃ m, tget t.head.models id = some m ∧ m.prog = program ∧ m.part = h.part ∧ m.tensors = ents.map bindOf ∧
         ∀ l p, pol[l]? = some p → (tget m.govs l).map (fun g => (g.policy, g.fmt)) = some (p, (firstGov p 0).fmt)) ∧
       (∀ k, k ≠ id → tget t.head.models k = tget s.head.models k) ∧
       t = markDecided h { s with fresh := s.fresh + pol.length, head := { s.head with models := t.head.models, cplDue := t.head.cplDue } } ∧
       Posted t (finalCpl h .ok id 0)) ∧
  ((∀ (h : Hdr) (matrix side dest : W64) (n k fmt kind bytes used id : Nat) (p : Pin) (s s' : State), Accepts s h 0x13 →
     argAddr matrix = true → matrix.toNat / 2 ^ 44 = 0 → argAddr side = true → argAddr dest = true → destKindOk kind dest.toNat = true →
     pinMatrix s h.part matrix.toNat side.toNat n k fmt dest.toNat bytes = .ok (p, used, s') → tfree s.head.pins 65536 = some id →
     Completes (.pinWeights h matrix side n k fmt kind dest bytes) s fun t =>
       tget t.head.pins id = some p ∧ (∀ j, j ≠ id → tget t.head.pins j = tget s.head.pins j) ∧
       Posted t (finalCpl h .ok (id + 2 ^ 16 * p.segs + 2 ^ 24 * used) p.segOut)) ∧
   (∀ (h : Hdr) (handle : Nat) (p : Pin) (s : State), Accepts s h 0x14 → tget s.head.pins handle = some p → p.part = h.part →
     Completes (.unpinWeights h handle) s fun t =>
       (s.passes.any (fun e => fld e.2.desc 0 16 == handle) = false → tget t.head.pins handle = none) ∧
       (∀ j, j ≠ handle → tget t.head.pins j = tget s.head.pins j) ∧ MemOutside s t p.base (p.base + p.bytes) ∧ UnitsSame s t ∧
       Posted t (finalCpl h .ok 0 0)))

/-- DISPATCH that no row of Table PRG-4 refuses enters a sequence with its operands under the next number. Table PRG-4: a DISPATCH
that one of its rows refuses is refused with that row's status, and nothing else changes. CANCEL: nothing to cancel; a sequence in
flight is marked; another ends at once with CANCELLED before the command's own completion. Model's choices in it: log entries 1,
8. -/
def Obligations.DispatchAndCancel : Prop :=
  (∀ (h : Hdr) (model steps deadline : Nat) (seed input output : W64) (shape : List Nat) (m : Model) (g : Program) (v : Partition)
     (s : State), Accepts s h 0x20 → tget s.head.models model = some m → tget s.head.progs m.prog = some g →
     getPart s h.part = some v → m.part = h.part → g.unloading = false → 0 < steps → steps < 2 ^ 32 →
     (deadline = 0 ∨ h.cls = 2) → argAddr input = true → argAddr output = true →
     dispatchRefusal s h m.prog g.img v.queueLimit shape = none →
     Completes (.dispatch h model steps seed input output deadline shape) s fun t =>
       (∃ r, getSeq t s.head.nextSeq = some r ∧ r.ctx = h.ctx ∧ r.tag = h.tag ∧ r.irq = h.irq ∧ r.part = h.part ∧ r.cls = h.cls ∧
         r.model = model ∧ r.shape = shape ∧ r.steps = steps ∧ r.done = 0 ∧ r.seed = seed ∧ r.input = input.toNat ∧
         r.output = output.toNat ∧ r.cancel = false) ∧
       t.head.nextSeq = s.head.nextSeq + 1 ∧ MemSame s t) ∧
  (∀ (h : Hdr) (model steps deadline : Nat) (seed input output : W64) (shape : List Nat) (m : Model) (g : Program) (v : Partition)
     (st : St) (s : State), Accepts s h 0x20 → tget s.head.models model = some m → tget s.head.progs m.prog = some g →
     getPart s h.part = some v → m.part = h.part → g.unloading = false → 0 < steps → steps < 2 ^ 32 →
     (deadline = 0 ∨ h.cls = 2) → argAddr input = true → argAddr output = true →
     dispatchRefusal s h m.prog g.img v.queueLimit shape = some st →
     Completes (.dispatch h model steps seed input output deadline shape) s fun t =>
       t = markDecided h { s with head := { s.head with cplDue := s.head.cplDue ++ [finalCpl h st 0 0] } }) ∧
  (∀ (h : Hdr) (target : W32) (s : State), Accepts s h 0x21 →
     (s.head.seqs.find? (fun e => e.2.ctx == (h.ctx : Nat) && e.2.tag == target) = none → Completes (.cancel h target) s fun t =>
       t = markDecided h { s with head := { s.head with cplDue := s.head.cplDue ++ [finalCpl h .ok 1 0] } }) ∧
     (∀ e, s.head.seqs.find? (fun e => e.2.ctx == (h.ctx : Nat) && e.2.tag == target) = some e → e.2.st = .flight →
       Completes (.cancel h target) s fun t => getSeq t e.1 = some { e.2 with cancel := true } ∧
         t = markDecided h { s with head := { s.head with seqs := t.head.seqs, cplDue := s.head.cplDue ++ [finalCpl h .ok 0 0] } }) ∧
     (∀ e, s.head.seqs.find? (fun e => e.2.ctx == (h.ctx : Nat) && e.2.tag == target) = some e → e.2.st ≠ .flight →
       getSeq s e.1 = some e.2 → Completes (.cancel h target) s fun t => getSeq t e.1 = none ∧ MemSame s t ∧
         ∃ c, t.head.cplDue = s.head.cplDue ++ [c, finalCpl h .ok 0 0] ∧ c.ctx = e.2.ctx ∧ c.tag = e.2.tag ∧
           c.status = St.cancelled.code ∧ c.interim = false ∧ c.detail = BitVec.ofNat 64 e.2.done))

/-- Windows and turnout-credit ranges, by mailbox command and by the schedule (R160-R163): an open slot takes the descriptor under
the generation that the rule gives, a closed one counts its generation up, a grant adds its units; no other core and no byte of
memory changes. Model's choices in it: log entries 1, 38. -/
def Obligations.WindowsOpenCloseGrant : Prop :=
  (∀ (h : Hdr) (core kind index : Nat) (desc : BitVec 128) (s : State), Accepts s h 0x30 →
    windowArgsOk s h core kind index = true → descOk (kind == 1) desc = true → slotOpen (getCore s core) (kind == 1) index = false →
    (openSpans (getCore s core)).any (spansMeet (descSpan (kind == 1) desc)) = false →
    Completes (.windowOpen h core kind index desc) s fun t =>
      getCore t core = openSlot (getCore s core) (kind == 1) index desc (slotGen (getCore s core) (kind == 1) index) ∧
      (∀ d, d ≠ core → getCore t d = getCore s d) ∧ MemSame s t ∧ t.regs = s.regs ∧
      Posted t (finalCpl h .ok (slotGen (getCore s core) (kind == 1) index) 0)) ∧
  (∀ (h : Hdr) (core kind index : Nat) (s : State), Accepts s h 0x31 → windowArgsOk s h core kind index = true →
    Completes (.windowClose h core kind index) s fun t =>
      getCore t core = closeSlot (getCore s core) (kind == 1) index false ∧ slotOpen (getCore t core) (kind == 1) index = false ∧
      (∀ d, d ≠ core → getCore t d = getCore s d) ∧ MemSame s t ∧ t.regs = s.regs ∧
      Posted t (finalCpl h .ok (slotGen (getCore t core) (kind == 1) index) 0)) ∧
  (∀ (h : Hdr) (core index units : Nat) (r : CRange) (s : State), Accepts s h 0x32 → windowArgsOk s h core 1 index = true →
    tget (getCore s core).rngs index = some r → r.isOpen = true → r.granted + units - r.admitted ≤ r.units →
    Completes (.creditGrant h core index units) s fun t =>
      tget (getCore t core).rngs index = some { r with granted := r.granted + units } ∧
      (∀ d, d ≠ core → getCore t d = getCore s d) ∧ MemSame s t ∧ t.regs = s.regs ∧
      Posted t (finalCpl h .ok ((r.granted + units) % 65536) 0)) ∧
  (∀ (core : CoreId) (turnout : Bool) (index : Nat) (desc : BitVec 128) (s : State), coreRuns s core = true →
    index < slotLimit turnout → descOk turnout desc = true → slotOpen (getCore s core) turnout index = false →
    (openSpans (getCore s core)).any (spansMeet (descSpan turnout desc)) = false →
    Completes (.scheduleWindowOpen core turnout index desc) s fun t =>
      getCore t core = openSlot (getCore s core) turnout index desc (fld desc 64 8) ∧ t = { s with cores := t.cores } ∧
      ∀ d, d ≠ (core : Nat) → getCore t d = getCore s d) ∧
  (∀ (core : CoreId) (turnout : Bool) (index : Nat) (s : State), coreRuns s core = true →
    Completes (.scheduleWindowClose core turnout index) s fun t =>
      getCore t core = closeSlot (getCore s core) turnout index false ∧ slotOpen (getCore t core) turnout index = false ∧
      t = { s with cores := t.cores } ∧ ∀ d, d ≠ (core : Nat) → getCore t d = getCore s d) ∧
  (∀ (core : CoreId) (index units : Nat) (r : CRange) (s : State), coreRuns s core = true →
    tget (getCore s core).rngs index = some r → r.isOpen = true → r.granted + units - r.admitted ≤ r.units →
    Completes (.grantInstruction core index units) s fun t =>
      tget (getCore t core).rngs index = some { r with granted := r.granted + units } ∧ t = { s with cores := t.cores } ∧
      ∀ d, d ≠ (core : Nat) → getCore t d = getCore s d)

/-- SECURE_CONFIG: with n zero securing ends; otherwise the tensors of the block are secured, under the block's figures or their
defaults, from epoch 0, the block's deferral of surveys is the partition's, and the contents of the secure area are undefined.
RELIEF_ASSIGN: role 0 ends the ring, role 2 makes this device the relief device of the block's members, and role 1 a protected
member, which sends the relief device its port addresses, its position and its tensors. A forced takeover orders the named member
to fence itself and its neighbours to stop acknowledging it; standing down ends the ring. CHECKPOINT_EXPORT (R293, R379): bytes
read without silt are written to companion memory, or sent on a connection in messages of 4,096 bytes, and the command completes
with OK; a silted granule ends the copy before it and names the granule. Model's choices in it: log entries 38, 43, 44. -/
def Obligations.SecuringCommands : Prop :=
  ((∀ (h : Hdr) (block : W64) (bytes : Nat) (s : State), Accepts s h 0x40 → argAddr block = true →
     (bytes = 0 ∨ 32 ≤ bytes ∧ secureBlockBad s h.part 0 (blockBytes s block bytes) bytes [] = false) →
     cmdReadable s h.part block bytes = true →
     Completes (.secureConfig h 0 block bytes) s fun t => getSecure t h.part = none ∧ (∀ p, p ≠ h.part → getSecure t p = getSecure s p) ∧
       MemSame s t ∧ UnitsSame s t ∧ t.regs = s.regs ∧ Posted t (finalCpl h .ok 0 0)) ∧
   (∀ (h : Hdr) (n : Nat) (block : W64) (bytes : Nat) (s : State), Accepts s h 0x40 → n ≠ 0 → 32 ≤ bytes → argAddr block = true →
     let b := blockBytes s block bytes
     let ts := (List.range (bytesNat b 0 2)).map (fun i => tensorEntry (b.drop (32 + 32 * i)))
     let dflt := fun (x y : Nat) => if x = 0 then y else x
     secureBlockBad s h.part n b bytes ts = false → cmdReadable s h.part block bytes = true → secureClash s h.part ts = false →
     secureAreaBad s h.part (bytesNat b 8 8) (bytesNat b 16 8) ts = false →
     (∀ r, s.head.ring = some r → r.role = 1 → r.reliefLost = false → Config.reliefRoom s.fresh = true) →
     Completes (.secureConfig h n block bytes) s fun t =>
       (∃ c, getSecure t h.part = some c ∧ c.n = n ∧ c.tensors = ts ∧ c.areaBase = bytesNat b 8 8 ∧ c.areaBytes = bytesNat b 16 8 ∧
         c.step0 = bytesNat b 24 4 ∧ c.epoch = 0 ∧ c.committed = 0 ∧ c.phase = 0 ∧
         c.rMax = dflt (bytesNat b 2 1) 64 ∧ c.defer = dflt (bytesNat b 3 1) 6 ∧ c.mirrorMax = dflt (bytesNat b 4 4) 256) ∧
       (∀ v, getPart s h.part = some v → getPart t h.part = some { v with deferH := dflt (bytesNat b 3 1) 6 }) ∧
       MemOutside s t (bytesNat b 8 8) (bytesNat b 8 8 + bytesNat b 16 8) ∧ UnitsSame s t ∧ t.regs = s.regs ∧
       Posted t (finalCpl h .ok (captureHold (ts.map (·.bytes)).sum) 0))) ∧
  ((∀ (h : Hdr) (role : Nat) (block : W64) (bytes : Nat) (s : State), Accepts s h 0x41 → argAddr block = true →
     let b := blockBytes s block bytes
     let r := ringOfBlock s role b
     reliefBad role 0 b bytes = false → cmdReadable s h.part block bytes = true →
     Completes (.reliefAssign h role block bytes) s fun t =>
       (role = 0 → t.head.ring = none) ∧
       (role = 2 → t.head.ring = some r ∧ MemOutside s t r.reliefBase (r.reliefBase + r.reliefBytes)) ∧
       (role = 1 → t.head.ring = some { r with sent := [(ringSize r, RingMsg.config ((List.range 16).map (fun p => (getPort s p).addr))
         ((r.members[r.index]?.map (·.pos)).getD 0) (s.head.secure.flatMap (fun e => e.2.tensors.map (fun x => (x.bytes, x.method)))))] }) ∧
       (role ≠ 2 → MemSame s t) ∧ UnitsSame s t ∧ t.regs = s.regs ∧ Posted t (finalCpl h .ok 0 0)) ∧
   (∀ (h : Hdr) (role : Nat) (block : W64) (bytes : Nat) (r : Ring) (m : Member) (s : State), Accepts s h 0x41 → argAddr block = true →
     let b := blockBytes s block bytes
     reliefBad role 1 b bytes = false → cmdReadable s h.part block bytes = true → s.head.ring = some r → r.role = 2 → r.fenced = false →
     r.id = bytesNat b 0 2 → bytesNat b 5 1 < ringSize r → r.members[bytesNat b 5 1]? = some m →
     Completes (.reliefTakeOver h role block bytes) s fun t =>
       t.head.ring = some { r with
         members := r.members.set (bytesNat b 5 1) { m with fenceOrdered := true },
         sent := r.sent ++ (bytesNat b 5 1, RingMsg.fence) :: (ringNeighbours r (bytesNat b 5 1)).map (fun i => (i, RingMsg.stopAck (bytesNat b 5 1))) } ∧
       MemSame s t ∧ UnitsSame s t ∧ t.regs = s.regs ∧ Posted t (finalCpl h .ok 0 0)) ∧
   (∀ (h : Hdr) (role : Nat) (block : W64) (bytes : Nat) (s : State), Accepts s h 0x41 → argAddr block = true →
     reliefBad role 2 (blockBytes s block bytes) bytes = false → cmdReadable s h.part block bytes = true →
     Completes (.reliefStandDown h role block bytes) s fun t =>
       t = markDecided h { s with head := { s.head with ring := none, cplDue := s.head.cplDue ++ [finalCpl h .ok 0 0] } })) ∧
  ((∀ (h : Hdr) (src : W64) (bytes : Nat) (dest : W64) (conn : Nat) (s : State), Accepts s h 0x42 → argAddr src = true →
     src.toNat / 2 ^ 44 ≤ 1 → bytes % 64 = 0 → compAddr dest = true → (bytes = 0 ∨ partAllows s h.part .exp src.toNat bytes = true) →
     let x := fetchBytes s src.toNat bytes
     let g := beforeSilt x.bytes
     Completes (.checkpointExport h src bytes dest 0 conn) s fun t =>
       mreads t.mem dest.toNat g.length = g ∧
       (g.length = bytes → Posted t (finalCpl h .ok bytes 0)) ∧
       (g.length < bytes → Posted t (finalCpl h .poisonConsumed (src.toNat / 64 + g.length / 64) 0))) ∧
   (∀ (h : Hdr) (src : W64) (bytes conn : Nat) (s : State), Accepts s h 0x42 → argAddr src = true → src.toNat / 2 ^ 44 ≤ 1 →
     bytes % 64 = 0 → connFree s conn h.part = true → (bytes = 0 ∨ partAllows s h.part .exp src.toNat bytes = true) →
     let x := fetchBytes s src.toNat bytes
     let g := beforeSilt x.bytes
     let v := connFor s conn h.part
     let up := v.ports.any (portUp s)
     Completes (.checkpointExport h src bytes 0 1 conn) s fun t =>
       (g ≠ [] → ∃ w, getConn t conn = some w ∧
         (up = true → w.tx.map (·.2.2) = v.tx.map (·.2.2) ++ chunks 4096 g ∧ w.held = v.held) ∧
         (up = false → w.held = v.held ++ (chunks 4096 g).map (fun b => (none, b)) ∧ w.tx = v.tx)) ∧
       (g.length = bytes → Posted t (finalCpl h .ok bytes 0)) ∧
       (g.length < bytes → Posted t (finalCpl h .poisonConsumed (src.toNat / 64 + g.length / 64) 0))))

/-- R412: ALLOTMENT_SET takes an allotment and a window in their ranges, for the device (the saved one during an emergency) and
for a partition, with its ceiling from a management context and under it from a tenant's; outside the ranges it is BAD_COMMAND. -/
def Obligations.AllotmentSets : Prop :=
  (∀ (h : Hdr) (allot window : Nat) (s : State), Accepts s h 0x50 → (h.ctx : Nat) < 4 → 500 ≤ window → window ≤ 10000 →
    2000 ≤ allot → allot ≤ 9000 → Completes (.allotmentSet h 0 allot window 0) s fun t =>
      (s.pow.emergency = false → t.pow.dev.allot = some allot ∧ t.pow.dev.window = window) ∧
      (s.pow.emergency = true → t.pow.savedAllot = (allot, window) ∧ t.pow.dev = s.pow.dev) ∧
      t = markDecided h { s with pow := t.pow, head := { s.head with cplDue := s.head.cplDue ++ [finalCpl h .ok allot 0] } }) ∧
  (∀ (h : Hdr) (allot window ceiling : Nat) (v : Partition) (s : State), Accepts s h 0x50 → (h.ctx : Nat) < 4 → getPart s h.part = some v →
    500 ≤ window → window ≤ 10000 → 100 ≤ allot → allot ≤ 9000 → (ceiling = 0 ∨ allot ≤ ceiling ∧ ceiling ≤ 9000) →
    Completes (.allotmentSet h 1 allot window ceiling) s fun t =>
      let c := if ceiling = 0 then allot else ceiling
      getPart t h.part = some { v with pow := { v.pow with allot := some allot, window := window, ceiling := c } } ∧
      t = markDecided h { s with head := { s.head with parts := t.head.parts, cplDue := s.head.cplDue ++ [finalCpl h .ok (allot + 2 ^ 32 * c) 0] } }) ∧
  (∀ (h : Hdr) (allot window : Nat) (v : Partition) (s : State), Accepts s h 0x50 → 4 ≤ (h.ctx : Nat) → getPart s h.part = some v →
    500 ≤ window → window ≤ 10000 → 100 ≤ allot → allot ≤ 9000 → Completes (.allotmentSet h 1 allot window 0) s fun t =>
      (allot ≤ v.pow.ceiling → getPart t h.part = some { v with pow := { v.pow with allot := some allot, window := window } } ∧
        Posted t (finalCpl h .ok (allot + 2 ^ 32 * v.pow.ceiling) 0)) ∧
      (v.pow.ceiling < allot → t = markDecided h { s with head := { s.head with cplDue := s.head.cplDue ++ [finalCpl h .refusedAllotment 0 0] } })) ∧
  (∀ (h : Hdr) (allot window ceiling : Nat) (s : State), Accepts s h 0x50 →
    (window < 500 ∨ 10000 < window ∨ allot < 2000 ∨ 9000 < allot) → Completes (.allotmentSet h 0 allot window ceiling) s fun t =>
      t = markDecided h { s with head := { s.head with cplDue := s.head.cplDue ++ [finalCpl h .badCommand 0 0] } }) ∧
  (∀ (h : Hdr) (allot window ceiling : Nat) (s : State), Accepts s h 0x50 →
    (window < 500 ∨ 10000 < window ∨ allot < 100 ∨ 9000 < allot) → Completes (.allotmentSet h 1 allot window ceiling) s fun t =>
      t = markDecided h { s with head := { s.head with cplDue := s.head.cplDue ++ [finalCpl h .badCommand 0 0] } })

/-- SURVEY_RUN of a target none of whose stages is in use: the ledger grows by what was found, and the command answers with the
number of new entries (R436, R439). FIRMWARE_RELOAD with an image that the seven checks of R453 accept begins to drain the queues;
the reload proper begins once no other command is in progress, and ends with the queued completions in order (R356-R358). Model's
choices in it: log entries 2, 50. -/
def Obligations.SurveyAndReload : Prop :=
  (∀ (h : Hdr) (scope target : Nat) (kinds : Byte) (found : List W32) (replays : List (Nat × W32)) (cs : List Nat) (s : State), Accepts s h 0x60 →
     surveyTargets scope target = some cs → kinds.toNat < 16 → s.head.pipes = [] → s.head.seqs = [] →
     Completes (.surveyRun h scope target kinds ⟨found, replays⟩) s fun t =>
       s.head.ledger <+: t.head.ledger ∧ Posted t (finalCpl h .ok (t.head.ledger.length - s.head.ledger.length) 0) ∧
       ∀ c ∈ cs, corePresented s c = true → (surveyOf t c).due = false) ∧
  ((∀ (h : Hdr) (image : W64) (bytes : Nat) (s : State), Accepts s h 0x71 → compAddr image = true → bytes ≤ 0x1000000 →
     Completes (.firmwareReload h image bytes) s fun t =>
       (imageOk s (mreads s.mem image.toNat bytes) = true →
         t = markDecided h { s with head := { s.head with
           reload := 1, reloadImage := mreads s.mem image.toNat bytes,
           reloadCmd := some ⟨h.ctx, h.tag, 0, false, 0, 0, 0, 0, h.irq⟩ } }) ∧
       (imageOk s (mreads s.mem image.toNat bytes) = false →
         t = markDecided h { s with head := { s.head with cplDue := s.head.cplDue ++ [finalCpl h .authFail 0 0] } })) ∧
   (∀ s : State, s.head.reload = 1 → reloadReady s = true → Completes .reloadProper s fun t =>
       t = { s with head := { s.head with reload := 2 }, boot := { s.boot with hgState := 3 } }) ∧
   (∀ s : State, s.head.reload = 2 → Completes .reloadProper s fun t => imageOk s s.head.reloadImage = true →
       t.head.reload = 0 ∧ t.head.reloads = s.head.reloads + 1 ∧ t.boot.hgState = 2 ∧ t.boot.measure = Config.sha512 s.head.reloadImage ∧
       t.head.tel = s.head.tel ++ s.head.telBuf ∧
       (∀ c, s.head.reloadCmd = some c → t.head.cplDue =
         s.head.cplDue ++ { c with detail := BitVec.ofNat 64 (imgFwver s.head.reloadImage) } :: s.head.reloadWait) ∧
       MemSame s t ∧ UnitsSame s t ∧ t.regs = s.regs))

/-- R346: a doorbell within one ring of the commands read is taken and dated; one beyond it only sets bit 0 of hg_ctx_err. The
consumer index is taken as written. R346: a waiting command is read once two completion entries can be reserved; a descriptor read
that fails disables its context with bit 1 of hg_ctx_err. R345-R347: the next due completion, its writes acknowledged, is written
at its ring's producer index with the ring's phase, and the index counts up; a write that is not acknowledged disables the
context; a due interrupt writes its 4 data bytes. R354: a record that is to be pushed and fits is written at the head of the push
ring, its tail wrapping to the ring's start, and the head counts its bytes. Model's choices in it: log entries 12, 52. -/
def Obligations.RingsServed : Prop :=
  ((∀ (x : CtxId) (v : W32) (s : State), s.boot.vaon = true → sub32 v (rawReg s .hgCmdCons x) ≤ ringEntries s x 1 →
     Completes (.commandDoorbell x v) s fun t =>
       rawReg t .hgDbCmd x = v ∧ OnlyReg s t .hgDbCmd x 0 ∧ tget t.head.bells x = some (hgNow s) ∧
       t = { s with regs := t.regs, head := { s.head with bells := t.head.bells } }) ∧
   (∀ (x : CtxId) (v : W32) (s : State), s.boot.vaon = true → ringEntries s x 1 < sub32 v (rawReg s .hgCmdCons x) →
     Completes (.commandDoorbell x v) s fun t =>
       rawReg t .hgCtxErr x = (rawReg s .hgCtxErr x ||| 1) ∧ OnlyReg s t .hgCtxErr x 0 ∧ t = { s with regs := t.regs }) ∧
   (∀ (x : CtxId) (v : W32) (s : State), s.boot.vaon = true → Completes (.completionConsumerWrite x v) s fun t =>
       rawReg t .hgDbCpl x = v ∧ OnlyReg s t .hgDbCpl x 0 ∧ t = { s with regs := t.regs })) ∧
  ((∀ (x : CtxId) (s : State), s.boot.hgState = 2 → s.boot.ready = true → s.head.reload = 0 → commandWaits s x = true →
     2 ≤ cplRoom s x → knownOp (bytesNat (frontDesc s x) 0 1) = true → bytesNat (frontDesc s x) 2 2 % 4096 = x →
     Completes (.commandRead x) s fun t =>
       rawReg t .hgCmdCons x = rawReg s .hgCmdCons x + 1 ∧ OnlyReg s t .hgCmdCons x 0 ∧
       tgetD t.head.resv x 0 = tgetD s.head.resv x 0 + 2 ∧
       t.head.opened = s.head.opened ++ [⟨x, w32 (bytesNat (frontDesc s x) 4 4), bytesNat (frontDesc s x) 0 1, false, false⟩] ∧
       t = { s with regs := t.regs, head := { s.head with resv := t.head.resv, opened := t.head.opened } }) ∧
   (∀ (x : CtxId) (s : State), commandWaits s x = true → Completes (.descriptorReadFail x) s fun t =>
       ctxEnabled t x = false ∧ (rawReg t .hgCtxErr x).getLsbD 1 = true ∧ t = { s with regs := t.regs })) ∧
  ((∀ (x : CtxId) (c : Cpl) (s : State), nextCpl s x = some c → ctxEnabled s x = true → Completes (.completionWrite x true) s fun t =>
       let n := ringEntries s x 5
       let p := (rawReg s .hgCplProd x).toNat
       MemStored s t (3 * 2 ^ 44 + (ringBase s x .hgCplBaseLo .hgCplBaseHi + 32 * (p % n))) (cplBytes c ((p / n + 1) % 2)) ∧
       rawReg t .hgCplProd x = rawReg s .hgCplProd x + 1 ∧ OnlyReg s t .hgCplProd x 0 ∧ t.head.cplDue = eraseFirst c s.head.cplDue ∧
       (c.interim = false → c.irq = true → (rawReg s .hgCtxCfg x).getLsbD 9 = true → t.head.irqDue = s.head.irqDue ++ [(x : Nat)]) ∧
       UnitsSame s t) ∧
   (∀ (x : CtxId) (c : Cpl) (s : State), nextCpl s x = some c → ctxEnabled s x = true → Completes (.completionWrite x false) s fun t =>
       ctxEnabled t x = false ∧ (rawReg t .hgCtxErr x).getLsbD 3 = true ∧ t.head.cplDue = eraseFirst c s.head.cplDue ∧
       MemSame s t ∧ UnitsSame s t) ∧
   (∀ (x : CtxId) (s : State), s.head.irqDue.contains (x : Nat) = true →
     (∀ u, tget s.head.irqAt x = some u → u + usCycles (getBits (rawReg s .hgIrqMod 0) 0 8) ≤ hgNow s) →
     Completes (.interruptWrite x) s fun t =>
       MemStored s t (3 * 2 ^ 44 + ringBase s x .hgIrqLo .hgIrqHi) (leBytes 4 (rawReg s .hgIrqData x).toNat) ∧
       t.head.irqDue = s.head.irqDue.filter (· ≠ (x : Nat)) ∧ tget t.head.irqAt x = some (hgNow s) ∧ t.regs = s.regs ∧ UnitsSame s t)) ∧
  (∀ (r : TRec) (s : State), s.head.telPush = [r] → s.head.telLost = 0 →
     let n := getBits (rawReg s .hgTelCfg 0) 0 5
     let size := 2 ^ n * 1024
     let hd := (rawReg s .hgTelHead 0).toNat
     let base := 3 * 2 ^ 44 + ringBase s 0 .hgTelLo .hgTelHi
     n ≠ 0 → sub32 (rawReg s .hgTelHead 0) (rawReg s .hgTelTail 0) + (recBytes r).length ≤ size →
     Completes .telemetryPush s fun t =>
       mreads t.mem (base + hd % size) (min (recBytes r).length (size - hd % size)) = (recBytes r).take (size - hd % size) ∧
       mreads t.mem base ((recBytes r).length - (size - hd % size)) = (recBytes r).drop (size - hd % size) ∧
       MemOutside s t base (base + size) ∧ rawReg t .hgTelHead 0 = w32 (hd + (recBytes r).length) ∧ OnlyReg s t .hgTelHead 0 0 ∧
       t.head.telPush = [] ∧ UnitsSame s t)

/-- R344: enabling a disabled context that may be enabled clears its ring indices and reservations; an enabled context keeps its
sizes and senior bit, whose attempted change sets bit 2 of hg_ctx_err; a ring base is written only while disabled. Model's choices
in it: log entry 16. -/
def Obligations.ContextConfigured : Prop :=
  (∀ (x : CtxId) (v : W32) (s : State), s.boot.vaon = true → ctxEnabled s x = false → mayEnable s x = true → v.getLsbD 0 = true →
    Completes (.contextConfigWrite x v) s fun t => ctxEnabled t x = true ∧
      (∀ r ∈ [Reg.hgDbCmd, .hgDbCpl, .hgCmdCons, .hgCplProd], rawReg t r x = 0) ∧ tget t.head.resv x = none ∧
      (getBits v 1 4 ≤ 12 → getBits (rawReg t .hgCtxCfg x) 1 4 = getBits v 1 4) ∧
      (getBits v 5 4 ≤ 12 → getBits (rawReg t .hgCtxCfg x) 5 4 = getBits v 5 4) ∧
      t = { s with regs := t.regs, head := { s.head with resv := t.head.resv } }) ∧
  (∀ (x : CtxId) (v : W32) (s : State), s.boot.vaon = true → ctxEnabled s x = true →
    Completes (.contextConfigWrite x v) s fun t => ctxEnabled t x = v.getLsbD 0 ∧
      getBits (rawReg t .hgCtxCfg x) 1 8 = getBits (rawReg s .hgCtxCfg x) 1 8 ∧
      (rawReg t .hgCtxCfg x).getLsbD 10 = (rawReg s .hgCtxCfg x).getLsbD 10 ∧
      ((getBits v 1 8 ≠ getBits (rawReg s .hgCtxCfg x) 1 8 ∨ v.getLsbD 10 ≠ (rawReg s .hgCtxCfg x).getLsbD 10) →
        (rawReg t .hgCtxErr x).getLsbD 2 = true) ∧
      t = { s with regs := t.regs }) ∧
  (∀ (x : CtxId) (v : W32) (s : State), s.boot.vaon = true → Completes (.contextConfigWrite x v) s fun t =>
      (ctxEnabled s x = false → mayEnable s x = false → ctxEnabled t x = false) ∧
      (ctxEnabled s x = false → (rawReg t .hgCtxCfg x).getLsbD 10 = (v.getLsbD 10 && decide (seniorCount s x < 64))) ∧
      (((List.range 4096).filter (ctxSenior s)).length ≤ 64 → ((List.range 4096).filter (ctxSenior t)).length ≤ 64)) ∧
  (∀ (x : CtxId) (w : Fin 4) (v : W32) (s : State), s.boot.vaon = true → Completes (.contextRingBaseWrite x w v) s fun t =>
      (ctxEnabled s x = false → rawReg t (ringBaseReg w) x = writeBits (ringBaseReg w) (rawReg s (ringBaseReg w) x) v ∧
        OnlyReg s t (ringBaseReg w) x 0) ∧
      (ctxEnabled s x = true → (rawReg t .hgCtxErr x).getLsbD 2 = true ∧ OnlyReg s t .hgCtxErr x 0) ∧
      t = { s with regs := t.regs })

/-- Writes with effects of their own (R276, R295, R335, Tables HGM-5 and PWR-6): only the north copy of hb_ilv takes a write, and
none while locked; a shared window within its bounds is taken before it locks; a scrub period, push-ring size or emergency
allotment out of its range is ignored. Every other register word takes its RW bits, clears the W1C bits written with a one and
keeps the rest (R13, R92); a word that no table names is left alone. A plain register write of a word that has a command of its
own is that command (R341). Model's choices in it: log entries 17, 46, 65. -/
def Obligations.RegisterWrites : Prop :=
  ((∀ (side : SideId) (v : W32) (s : State), s.boot.vaon = true → Completes (.hbIlvWrite side v) s fun t =>
       ((side : Nat) = 0 → regsLocked s = false → rawReg t .hbIlv 0 = writeBits .hbIlv (rawReg s .hbIlv 0) v ∧ OnlyReg s t .hbIlv 0 0) ∧
       (((side : Nat) ≠ 0 ∨ regsLocked s = true) → t = s) ∧ t = { s with regs := t.regs }) ∧
   (∀ (v : W32) (s : State), s.boot.vaon = true → Completes (.sharedWindowWrite v) s fun t =>
       (regsLocked s = false → winOk v = true → rawReg t .lkBvWin 0 = writeBits .lkBvWin (rawReg s .lkBvWin 0) v ∧
         OnlyReg s t .lkBvWin 0 0) ∧
       ((regsLocked s = true ∨ winOk v = false) → t = s) ∧ t = { s with regs := t.regs }) ∧
   (∀ (side : SideId) (v : W32) (s : State), s.boot.vaon = true → Completes (.scrubCfgWrite side v) s fun t =>
       ((side : Nat) = 0 →
         (getBits (rawReg t .hbScrubCfg 0) 0 8 =
           if 1 ≤ getBits v 0 8 ∧ getBits v 0 8 ≤ 168 then getBits v 0 8 else getBits (rawReg s .hbScrubCfg 0) 0 8) ∧
         (getBits (rawReg t .hbScrubCfg 0) 8 12 =
           if 10 ≤ getBits v 8 12 ∧ getBits v 8 12 ≤ 3600 then getBits v 8 12 else getBits (rawReg s .hbScrubCfg 0) 8 12) ∧
         OnlyReg s t .hbScrubCfg 0 0) ∧
       ((side : Nat) ≠ 0 → t = s) ∧ t = { s with regs := t.regs }) ∧
   (∀ (v : W32) (s : State), s.boot.vaon = true → Completes (.telemetryCfgWrite v) s fun t =>
       let n := getBits v 0 5
       (n = 0 ∨ (4 ≤ n ∧ n ≤ 20) → rawReg t .hgTelCfg 0 = w32 n ∧ OnlyReg s t .hgTelCfg 0 0) ∧
       (¬ (n = 0 ∨ (4 ≤ n ∧ n ≤ 20)) → t = s) ∧ t = { s with regs := t.regs }) ∧
   (∀ (v : W32) (s : State), s.boot.vaon = true → Completes (.emergencyAllotmentWrite v) s fun t =>
       let n := getBits v 0 14
       (2000 ≤ n ∧ n ≤ 9000 → rawReg t .pwEmerg 0 = w32 n ∧ OnlyReg s t .pwEmerg 0 0) ∧
       (¬ (2000 ≤ n ∧ n ≤ 9000) → t = s) ∧ t = { s with regs := t.regs })) ∧
  ((∀ (off : Nat) (r : Reg) (u w : Nat) (v : W32) (s : State), s.boot.vaon = true → Reg.ofAddr off = some (r, u, w) →
     r ∉ [Reg.hgDbCmd, .hgDbCpl, .hgCtxCfg, .hgCmdBaseLo, .hgCmdBaseHi, .hgCplBaseLo, .hgCplBaseHi, .hbIlv, .hbScrubCfg, .lkBvWin, .hgTelCfg,
       .pwEmerg, .hgBootCtl] →
     Completes (.registerWrite off v) s fun t =>
       rawReg t r u w = ((rawReg s r u w &&& ~~~ r.row.rw &&& ~~~ (r.row.w1c &&& v)) ||| (v &&& r.row.rw)) ∧ OnlyReg s t r u w ∧
       t = { s with regs := t.regs }) ∧
   (∀ (off : Nat) (v : W32) (s : State), s.boot.vaon = true → Reg.ofAddr off = none → Completes (.registerWrite off v) s fun t => t = s)) ∧
  (∀ (off : Nat) (v : W32) (s : State), s.boot.vaon = true →
     (∀ x : CtxId, Reg.ofAddr off = some (.hgDbCmd, (x : Nat), 0) → exec (.registerWrite off v) s = exec (.commandDoorbell x v) s) ∧
     (∀ x : CtxId, Reg.ofAddr off = some (.hgDbCpl, (x : Nat), 0) → exec (.registerWrite off v) s = exec (.completionConsumerWrite x v) s) ∧
     (∀ x : CtxId, Reg.ofAddr off = some (.hgCtxCfg, (x : Nat), 0) → exec (.registerWrite off v) s = exec (.contextConfigWrite x v) s) ∧
     (∀ (x : CtxId) (w : Fin 4), Reg.ofAddr off = some (ringBaseReg w, (x : Nat), 0) →
       exec (.registerWrite off v) s = exec (.contextRingBaseWrite x w v) s) ∧
     (∀ d : SideId, Reg.ofAddr off = some (.hbIlv, (d : Nat), 0) → exec (.registerWrite off v) s = exec (.hbIlvWrite d v) s) ∧
     (∀ d : SideId, Reg.ofAddr off = some (.hbScrubCfg, (d : Nat), 0) → exec (.registerWrite off v) s = exec (.scrubCfgWrite d v) s) ∧
     (Reg.ofAddr off = some (.lkBvWin, 0, 0) → exec (.registerWrite off v) s = exec (.sharedWindowWrite v) s) ∧
     (Reg.ofAddr off = some (.hgTelCfg, 0, 0) → exec (.registerWrite off v) s = exec (.telemetryCfgWrite v) s) ∧
     (Reg.ofAddr off = some (.pwEmerg, 0, 0) → exec (.registerWrite off v) s = exec (.emergencyAllotmentWrite v) s) ∧
     (Reg.ofAddr off = some (.hgBootCtl, 0, 0) → v.getLsbD 1 = true → exec (.registerWrite off v) s = exec .bootCtlDeviceReset s) ∧
     (Reg.ofAddr off = some (.hgBootCtl, 0, 0) → v.getLsbD 1 = false → v.getLsbD 0 = true → exec (.registerWrite off v) s = exec .bootGo s))

/-- R399, R474: a read of the low half latches the whole count, and changes nothing else. R467, R468: a pointer that the target
serves is taken and any other refused by NACK; a private read gives the word at the pointer and advances it by 4; a dynamic
address is taken while domain 77 is up. R470: the four instructions of the test port. BYPASS shifts one zero, IDCODE its word,
SAMPLE/PRELOAD takes the cells through phase 0x2, EXTEST drives them; a captured contact is a free bit. Model's choices in it: log
entries 51, 68. -/
def Obligations.OutsidePorts : Prop :=
  ((∀ s : State, Completes .headgateCountLoRead s fun t => t = { s with clk := { s.clk with hgLatch := hgNow s } }) ∧
   (∀ (p : PortId) (s : State), Completes (.ethTsLoRead p) s fun t =>
     getPort t p = { getPort s p with tsLatch := ethCount s p } ∧ t = { s with ports := t.ports } ∧
     ∀ q, q ≠ (p : Nat) → getPort t q = getPort s q)) ∧
  ((∀ (v : W32) (s : State), s.boot.vaon = true → Completes (.i3cPointerWrite v) s fun t =>
       (i3cServes s v = true → t = { s with boot := { s.boot with ptr := v } }) ∧
       (i3cServes s v = false → t = { s with boot := { s.boot with nacks := s.boot.nacks + 1 } })) ∧
   (∀ (v : W32) (s : State), s.boot.vaon = true → i3cServes s s.boot.ptr = true → ctlRead s (i3cOffset s.boot.ptr) = some v →
     Completes .i3cPrivateRead s fun t =>
       t.boot = { s.boot with ptr := putBits s.boot.ptr 0 24 (getBits s.boot.ptr 0 24 + 4), i3cOut := s.boot.i3cOut ++ [v] } ∧
       t = { s with boot := t.boot, clk := { s.clk with hgLatch := t.clk.hgLatch }, ports := t.ports }) ∧
   (∀ s : State, s.boot.vaon = true → i3cServes s s.boot.ptr = false → Completes .i3cPrivateRead s fun t =>
       t = { s with boot := { s.boot with nacks := s.boot.nacks + 1 } }) ∧
   (∀ (a : BitVec 7) (s : State), (getRegion s 77).out = true → Completes (.i3cDynamicAddress a) s fun t =>
       t = { s with boot := { s.boot with dynAddr := some a } })) ∧
  ((∀ s : State, s.boot.vaon = true → Completes .jtagBypass s fun t =>
       t = { s with boot := { s.boot with jtagInstr := 0, jtagDrive := [], jtagOut := s.boot.jtagOut ++ [[false]] } }) ∧
   (∀ s : State, s.boot.vaon = true → Completes .jtagIdcode s fun t =>
       t = { s with boot := { s.boot with jtagInstr := 1, jtagDrive := [], jtagOut := s.boot.jtagOut ++ [wordBits idcode] } }) ∧
   (idcode.getLsbD 0 = true ∧ getBits idcode 12 16 = 0xA712 ∧ getBits idcode 28 4 = 1 ∧ getBits idcode 1 11 = Config.manufacturer.toNat) ∧
   (∀ (cells : List Bool) (s : State), s.boot.vaon = true → s.boot.phase ≤ 2 → Completes (.jtagSamplePreload cells) s fun t =>
       t.boot.jtagCells = cells ∧ t.boot.jtagInstr = 2 ∧ t.boot.jtagDrive = [] ∧
       (∃ cap, t.boot.jtagOut = s.boot.jtagOut ++ [cap] ∧ cap.length = cells.length) ∧
       t = { s with boot := { s.boot with jtagCells := t.boot.jtagCells, jtagInstr := t.boot.jtagInstr, jtagDrive := t.boot.jtagDrive,
                                          jtagOut := t.boot.jtagOut }, fresh := s.fresh + cells.length }) ∧
   (∀ s : State, s.boot.vaon = true → s.boot.phase ≤ 2 → Completes .jtagExtest s fun t =>
       t.boot.jtagDrive = s.boot.jtagCells ∧ t.boot.jtagInstr = 3 ∧
       (∃ cap, t.boot.jtagOut = s.boot.jtagOut ++ [cap] ∧ cap.length = s.boot.jtagCells.length) ∧
       t = { s with boot := { s.boot with jtagInstr := t.boot.jtagInstr, jtagDrive := t.boot.jtagDrive, jtagOut := t.boot.jtagOut },
                    fresh := s.fresh + s.boot.jtagCells.length }) ∧
   (∀ s : State, s.boot.vaon = true → 2 < s.boot.phase → Completes .jtagExtest s fun t =>
       t = { s with boot := { s.boot with jtagInstr := 0, jtagDrive := [], jtagOut := s.boot.jtagOut ++ [[false]] } }) ∧
   (∀ (cells : List Bool) (s : State), s.boot.vaon = true → 2 < s.boot.phase → Completes (.jtagSamplePreload cells) s fun t =>
       t = { s with boot := { s.boot with jtagInstr := 0, jtagDrive := [], jtagOut := s.boot.jtagOut ++ [[false]] } }))

/-- A device reset, by register, pin or event, drops everything but what Table BOOT-7 keeps, returns the boot to phase 0 and is
counted; RESET_N low for 10 µs is one, and holds the device; its release lets the boot go on. R418, R406: with both feeds absent
for more than 50 µs nothing is saved but fuses, ledger, the counts since manufacture and the companion's memory; an orderly
power-down leaves the same, with the feeds as they stand. R428: a sensor at its trip level drops every domain, latches the trip
and holds the device; R404: a first latch of group 72 starts a device reset, and a latch of a lower group takes its domain off.
R400: a feed within 38 V to 63 V with its contact mated is present; one above 63 V is cut off; a lost one is absent. Model's
choices in it: log entries 12, 61, 62, 65, 71. -/
def Obligations.PowerFailsAndReturns : Prop :=
  ((∀ s : State, s.boot.vaon = true → Completes .deviceReset s fun t =>
     Dropped s t ∧ t.boot.phase = 0 ∧ t.boot.ready = false ∧ t.boot.deviceResets = s.boot.deviceResets + 1) ∧
   (∀ s : State, s.boot.vaon = true → Completes .bootCtlDeviceReset s fun t =>
     Dropped s t ∧ t.boot.phase = 0 ∧ t.boot.ready = false ∧ t.boot.deviceResets = s.boot.deviceResets + 1) ∧
   (∀ (ns : Nat) (s : State), s.boot.vaon = true → 10000 ≤ ns → Completes (.resetNAssert ns) s fun t =>
     Dropped s t ∧ t.boot.phase = 0 ∧ t.boot.resetLow = true ∧ t.boot.deviceResets = s.boot.deviceResets + 1) ∧
   (∀ (ns : Nat) (s : State), ns < 10000 → Completes (.resetNAssert ns) s fun t => t = s) ∧
   (∀ s : State, s.boot.resetLow = true → Completes .resetNRelease s fun t =>
     t.boot.resetLow = false ∧ (s.pow.tripped = true → s.pow.tripSensor ≠ 0x7E → allCool s = true → t.pow.tripped = false) ∧
     t = { s with boot := { s.boot with resetLow := false, readyPin := t.boot.readyPin, alertN := t.boot.alertN },
                  pow := { s.pow with tripped := t.pow.tripped, tripSensor := t.pow.tripSensor, tripC := t.pow.tripC } })) ∧
  ((∀ (ns : Nat) (s : State), s.pow.presentA = false → s.pow.presentB = false → 50000 < ns → Completes (.bothFeedsLost ns) s fun t =>
     Dropped s t ∧ t.regs = [] ∧ t.boot = { Boot.reset with deviceResets := s.boot.deviceResets } ∧
     t.pow = { Power.reset with trips := s.pow.trips }) ∧
   (∀ s : State, s.boot.vaon = true → Completes .orderlyPowerDown s fun t =>
     Dropped s t ∧ t.regs = [] ∧ t.boot = { Boot.reset with deviceResets := s.boot.deviceResets } ∧
     t.pow.presentA = s.pow.presentA ∧ t.pow.presentB = s.pow.presentB ∧ t.pow.emergency = false)) ∧
  ((∀ (i : SensorId) (c : Nat) (s : State), s.boot.vaon = true → s.boot.halted = false → (thresholds i).2.2.2 ≤ c →
     Completes (.hardwareTrip i c) s fun t => Dropped s t ∧ t.pow.tripped = true ∧ t.pow.tripSensor = i ∧ t.pow.tripC = min 255 c ∧
       t.boot.halted = true ∧ t.boot.alertN = false) ∧
   (∀ (g : GroupId) (s : State), (g : Nat) = 72 → s.boot.vaon = true → s.boot.halted = false → (getVGroup s 72).latches = [] →
     Completes (.phaseGroupLatch g) s fun t => Dropped s t ∧ t.boot.deviceResets = s.boot.deviceResets + 1 ∧
       (getVGroup t 72).latches = [(getRegion s 79).count]) ∧
   (∀ (g : GroupId) (s : State), (g : Nat) < 60 → (getRegion s g).powered = true → (getVGroup s g).off = false →
     Completes (.phaseGroupLatch g) s fun t => (getRegion t g).powered = false ∧ (getVGroup t g).off = true ∧
       (getVGroup t g).offAt = hgNow s ∧ (rawReg t .pwEvent 0).getLsbD 7 = true ∧ MemSame s t) ∧
   (∀ (g : GroupId) (s : State), (g : Nat) < 60 → (getVGroup s g).off = true → (getVGroup s g).stay = false → s.head.reload ≠ 2 →
     (getVGroup s g).offAt + msCycles 100 ≤ hgNow s → (getRegion s (60 + g / 5)).powered = true →
     Completes (.phaseGroupRepower g) s fun t => (getVGroup t g).off = false ∧ (getRegion t g).powered = true ∧ MemSame s t)) ∧
  ((∀ (f : Feed) (cv : BitVec 16) (s : State), 3800 ≤ cv.toNat → cv.toNat ≤ 6300 → Completes (.feedPresent f cv true) s fun t =>
     feedPresentIn t f = true ∧ MemSame s t ∧ UnitsSame s t) ∧
   (∀ (f : Feed) (cv : BitVec 16) (s : State), 6300 < cv.toNat → Completes (.feedOvervoltage f cv) s fun t =>
     feedPresentIn t f = false ∧ (f = .a → t.pow.cutA = true ∧ t.pow.cvA = cv.toNat) ∧ (f = .b → t.pow.cutB = true ∧ t.pow.cvB = cv.toNat) ∧
     (feedPresentIn s f = true → (rawReg t .pwEvent 0).getLsbD 4 = true) ∧ MemSame s t ∧ UnitsSame s t) ∧
   (∀ (f : Feed) (s : State), Completes (.feedLost f) s fun t =>
     feedPresentIn t f = false ∧ (feedPresentIn s f = true → (rawReg t .pwEvent 0).getLsbD 4 = true) ∧ MemSame s t ∧ UnitsSame s t))

/-- R417: the power brake brings the emergency allotment of pw_emerg into force over 0.5 s with every running region at setting
16; once its causes have cleared it ends after 1 s, and the allotment before it returns. R407, R416: a sample shows the board
power of both feeds; above 9,000 W hardware raises the device setting by 4. R413: one run of the control law for a scope with an
allotment. A mean above 99 % of it over the window and 98 % over the millisecond raises the setting by one; below 95 % of it, 10
ms after the last change, the setting falls by one. A partition's law acts on its scope alone; a class that it sheds ends the
class's sequences that have not started (R321). The end of a window (R419-R421, R430): with modelled energy the scale factor is
the metered energy over it, held to 1/2 to 2; the counts start again, and every scope has its record, the device's last. An
overrun with both other classes shed is reported once a second (R415). Model's choices in it: log entries 57, 59, 79. -/
def Obligations.PowerIsGoverned : Prop :=
  ((∀ (ns : Nat) (s : State), s.boot.vaon = true → s.pow.emergency = false → 1000 ≤ ns → Completes (.powerBrakeAssert ns) s fun t =>
     t.pow.brake = true ∧ t.pow.emergency = true ∧ t.pow.dev.allot = some (getBits (rawReg s .pwEmerg 0) 0 14) ∧ t.pow.dev.window = 500 ∧
     t.pow.dev.k = 16 ∧ t.pow.savedAllot = (s.pow.dev.allot.getD 8400, s.pow.dev.window) ∧ t.boot.alertN = false ∧
     (∀ r < 72, (getRegion s r).running = true → 16 ≤ (getRegion t r).k) ∧ (rawReg t .pwEvent 0).getLsbD 3 = true ∧
     MemSame s t ∧ UnitsSame s t) ∧
   (∀ (ns : Nat) (s : State), ns < 1000 → Completes (.powerBrakeAssert ns) s fun t => t = s) ∧
   (∀ s : State, s.boot.vaon = true → s.pow.emergency = true → s.pow.presentA = s.pow.presentB → s.pow.clearAt = none →
     Completes .powerBrakeRelease s fun t => t.pow = { s.pow with brake := false, clearAt := some (hgNow s) } ∧
       t = { s with pow := t.pow, boot := { s.boot with readyPin := t.boot.readyPin, alertN := t.boot.alertN } }) ∧
   (∀ (u : Nat) (s : State), s.head.reload ≠ 2 → s.pow.emergency = true → s.pow.clearAt = some u → emergencyCause s = false →
     u + secCycles 1 ≤ hgNow s → Completes .emergencyEnd s fun t => t.pow.emergency = false ∧ t.pow.clearAt = none ∧
       t.pow.dev.allot = some s.pow.savedAllot.1 ∧ t.pow.dev.window = s.pow.savedAllot.2 ∧
       t = { s with pow := t.pow, boot := { s.boot with readyPin := t.boot.readyPin, alertN := t.boot.alertN } })) ∧
  (∀ (cvA cvB maA maB : Nat) (ds : List (Nat × Nat × Nat)) (s : State), Completes (.powerSample cvA cvB maA maB ds) s fun t =>
     t.pow.board = min 0xFFFF ((cvA * maA + cvB * maB) / 100000) ∧
     ((cvA * maA + cvB * maB) / 100000 ≤ 9000 → t.pow.dev = s.pow.dev ∧ t.regs = s.regs) ∧
     (9000 < (cvA * maA + cvB * maB) / 100000 → t.pow.dev.k = min 16 (s.pow.dev.k + 4) ∧ t.pow.fast = true ∧
       (rawReg t .pwEvent 0).getLsbD 2 = true) ∧ MemSame s t ∧ UnitsSame s t ∧ t.head = s.head) ∧
  ((∀ (a pms pwin : Nat) (s : State), s.head.reload ≠ 2 → s.pow.dev.allot = some a → 99 * a < 100 * pwin → 98 * a ≤ 100 * pms →
     s.pow.dev.k < 16 → Completes (.allotmentControl none pms pwin) s fun t =>
       t.pow.dev.k = s.pow.dev.k + 1 ∧ t.pow.dev.lastChange = hgNow s ∧ (rawReg t .pwEvent 0).getLsbD 0 = true ∧ MemSame s t ∧
       (t.pow.dev.shedJ = s.pow.dev.shedJ → t.pow.dev.shedS = s.pow.dev.shedS → UnitsSame s t)) ∧
   (∀ (a pms pwin : Nat) (s : State), s.head.reload ≠ 2 → s.pow.dev.allot = some a → 100 * pwin < 95 * a → 100 * pms < 95 * a →
     s.pow.dev.lastChange + msCycles 10 ≤ hgNow s → s.pow.emergency = false → Completes (.allotmentControl none pms pwin) s fun t =>
       t.pow.dev.k = s.pow.dev.k - 1 ∧ MemSame s t ∧ UnitsSame s t) ∧
   (∀ (p a pms pwin : Nat) (v : Partition) (s : State), s.head.reload ≠ 2 → getPart s p = some v → v.pow.allot = some a →
     Completes (.allotmentControl (some p) pms pwin) s fun t =>
       let o := controlLaw v.pow a pms pwin (hgNow s) false
       (getPart t p).map (·.pow) = some o.sc ∧ t.pow.dev = s.pow.dev ∧ MemSame s t ∧ (o.cls = 0 ∨ o.back = true → UnitsSame s t) ∧
       (o.cls ≠ 0 → o.back = false → ∀ q r, getSeq s q = some r → r.st ≠ .flight → clsShed t r.part r.cls = true → getSeq t q = none))) ∧
  ((∀ (input : Nat) (s : State), s.head.reload ≠ 2 → ((List.range 61).map (modelledUnits s)).sum ≠ 0 →
     Completes (.allotmentWindowEnd input) s fun t =>
       t.pow.scale = max (1 / 2) (min 2 ((input : Rat) * 256000000000 / (((List.range 61).map (modelledUnits s)).sum : Rat))) ∧
       t.pow.events = [] ∧ t.pow.fast = false ∧ t.pow.dev = { s.pow.dev with peak := 0 } ∧
       (∃ body, Recorded t 0x13 none body) ∧ MemSame s t ∧ UnitsSame s t ∧ t.regs = s.regs) ∧
   (∀ (x : Scope) (a mean : Nat) (s : State), s.head.reload ≠ 2 → s.pow.dev = x → x.allot = some a → x.shedJ = true → x.shedS = true → a < mean →
     (∀ u, x.overrunAt = some u → u + secCycles 1 ≤ hgNow s) → Completes (.overrunReport none mean) s fun t =>
       Reported t 0x0009 0 none 0xFFFF (mean + 2 ^ 32 * a) ∧
       t = { s with pow := { s.pow with dev := { x with overrunAt := some (hgNow s) } }, head := withTel s.head t.head }))

/-- R408, R410: a raise adds 5 mV up to 0.85 V; 10 s of margin give 5 mV back; a setting moves by one step toward what its region
is to run at (R383, R411). R423-R425: a sample is held with its high mark; a level held for 1 ms begins to act; at the step level
a region's thermal setting rises by one each millisecond, and falls again after 10 ms below it. Model's choices in it: log entries
57, 60. -/
def Obligations.SettingsAndHeat : Prop :=
  ((∀ (r : RegionId) (g : Nat) (s : State), regionGroup r = some g → s.head.reload ≠ 2 → setpoint s g < 850 → (getRegion s r).below3 = true →
     (getRegion s r).margin < 16 → (getVGroup s g).raisedAt + usCycles 100 ≤ hgNow s → Completes (.setpointRaise r) s fun t =>
       (getVGroup t g).raise = min ((getVGroup s g).raise + 5) (850 - freeboard s g (groupSetting s g)) ∧
       (getVGroup t g).raisedAt = hgNow s ∧ (rawReg t .pwEvent 0).getLsbD 6 = true ∧
       t = { s with regs := t.regs, pow := { s.pow with groups := t.pow.groups } }) ∧
   (∀ (r : RegionId) (g : Nat) (s : State), regionGroup r = some g → s.head.reload ≠ 2 → 24 ≤ (getRegion s r).margin →
     (getRegion s r).highSince + secCycles 10 ≤ hgNow s → (getVGroup s g).loweredAt + secCycles 10 ≤ hgNow s →
     Completes (.setpointRelax r) s fun t =>
       (getVGroup t g).raise = (getVGroup s g).raise - 5 ∧ (getRegion t r).kMargin = (getRegion s r).kMargin - 1 ∧
       t = { s with clk := { s.clk with regions := t.clk.regions }, pow := { s.pow with groups := t.pow.groups } }) ∧
   (∀ (r : RegionId) (s : State), (r : Nat) < 72 → (getRegion s r).locked = true → s.head.reload ≠ 2 → Completes (.settingChange r) s fun t =>
       ((getRegion s r).k < settingOf s r → (getRegion t r).k = (getRegion s r).k + 1) ∧
       (settingOf s r < (getRegion s r).k → (getRegion t r).k = (getRegion s r).k - 1) ∧
       (settingOf s r = (getRegion s r).k → (getRegion t r).k = (getRegion s r).k) ∧
       t = { s with clk := t.clk })) ∧
  ((∀ (i : SensorId) (x : Int) (s : State), Completes (.temperatureSample [(i, x)]) s fun t =>
       (getSensor t i).t = x ∧ (getSensor t i).high = max (getSensor s i).high (x / 16) ∧
       (∀ j, j ≠ (i : Nat) → getSensor t j = getSensor s j) ∧ t = { s with pow := { s.pow with sensors := t.pow.sensors } }) ∧
   (∀ (i : SensorId) (u : Nat) (s : State), s.head.reload ≠ 2 → (getSensor s i).warn = false → (getSensor s i).warnSince = some u →
     u + msCycles 1 ≤ hgNow s → Completes (.thermalLevelAct i) s fun t => (getSensor t i).warn = true ∧
       t = { s with head := withTel s.head t.head, pow := { s.pow with sensors := t.pow.sensors } }) ∧
   (∀ (i : SensorId) (u : Nat) (s : State), s.head.reload ≠ 2 → (getSensor s i).shed = false → (getSensor s i).shedSince = some u →
     u + msCycles 1 ≤ hgNow s → Completes (.thermalLevelAct i) s fun t => (getSensor t i).shed = true ∧
       Reported t 0x000B 0 none i (3 + 256 * ((getSensor s i).t / 16 % 256).toNat)) ∧
   (∀ (r : RegionId) (s : State), (r : Nat) < 72 → s.head.reload ≠ 2 → atStep s r = true →
     (getRegion s r).lastStep + msCycles 1 ≤ hgNow s → Completes (.thermalLadderStep r) s fun t =>
       (getRegion t r).thermal = min 16 ((getRegion s r).thermal + 1) ∧ t = { s with clk := { s.clk with regions := t.clk.regions } }) ∧
   (∀ (r : RegionId) (s : State), (r : Nat) < 72 → s.head.reload ≠ 2 → atStep s r = false → (getRegion s r).thermal ≠ 0 →
     (getRegion s r).lastStep + msCycles 10 ≤ hgNow s → Completes (.thermalLadderStep r) s fun t =>
       (getRegion t r).thermal = (getRegion s r).thermal - 1 ∧ t = { s with clk := { s.clk with regions := t.clk.regions } }))

/-- R426, R427: a cluster at the shed level that holds no stage powers off and is marked; an idle field whose clusters are off
follows; a shed domain whose sensor has been below 95 °C for 1 s returns with a thermal setting of 4. Model's choices in it: log
entries 61, 63, 79. -/
def Obligations.DomainsShed : Prop :=
  (∀ (cl : ClusterId) (s : State), shedCalled s cl = true → (getRegion s cl).powered = true → s.head.reload ≠ 2 → s.head.pipes = [] →
    (∀ c ∈ clusterCores cl, (getCore s c).resetting = false ∧ (getCore s c).task = none) → Completes (.clusterShed cl) s fun t =>
      (getRegion t cl).powered = false ∧ (getRegion t cl).shed = true ∧ (rawReg t .pwEvent 0).getLsbD 5 = true ∧
      Reported t 0x000C St.regionShed.code none cl 0 ∧ MemSame s t) ∧
  (∀ (f : FieldId) (s : State), (getSensor s (60 + f)).shed = true → (getRegion s (60 + f)).powered = true → s.head.reload ≠ 2 →
    (getField s f).withheld = false → (∀ c ∈ fieldClusters f, (getRegion s c).powered = false) →
    routeMissing (setDark s f true) = false → (∀ p ∈ s.passes, passIn f p.2 = false) → Completes (.fieldShed f) s fun t =>
      (getRegion t (60 + f)).powered = false ∧ (getRegion t (60 + f)).shed = true ∧ fieldDark t f = true ∧
      MemOutside s t (fieldBase f) (fieldBase f + 0x60000000)) ∧
  (∀ (prog pipe : Nat) (p : Pipe) (s : State), getPipe s (pipeKey prog pipe) = some p → p.held = false → p.live = true → s.head.reload ≠ 2 →
    (∃ c ∈ p.cores, shedPressing s (coreCluster c) = true) → Completes (.shedHaltTimeout prog pipe) s fun t =>
      (∀ q ∈ inFlight s (pipeKey prog pipe), getSeq t q = none) ∧
      ∀ q, getPipe t (pipeKey prog pipe) = some q → q.halted = false) ∧
  (∀ (d : Fin 72) (s : State), (d : Nat) < 60 → coolEnough s d = true → s.head.reload ≠ 2 → (getRegion s d).shed = true →
    (getRegion s (60 + d / 5)).powered = true → (getSensor s (60 + d / 5)).shed = false → Completes (.shedReturn d) s fun t =>
      (getRegion t d).powered = true ∧ (getRegion t d).shed = false ∧ (getRegion t d).thermal = 4 ∧
      Reported t 0x000C 0 none d 1 ∧ MemSame s t)

/-- B1 and B2 (R432, R382): VAON powers domain 79 and samples the straps; domain 78 is powered and leaves reset. R332: sixteen
lanes train the Brivlink at full width, eight at half; no such eight use up one of three attempts. The first training ends B4.
Model's choices in it: log entries 6, 64, 67. -/
def Obligations.LinksPowerUp : Prop :=
  ((∀ (refsel a1 a0 : Bool) (s : State), s.boot.vaon = false → (s.pow.presentA || s.pow.presentB) = true →
     Completes (.vaonGood refsel a1 a0) s fun t =>
       t.boot.vaon = true ∧ t.boot.refsel = refsel ∧ t.boot.addr = 0x30 + 2 * b2n a1 + b2n a0 ∧ (getRegion t 79).powered = true ∧
       (getRegion t 79).out = true ∧ (s.pow.presentA ≠ s.pow.presentB → s.pow.emergency = false → t.pow.emergency = true) ∧
       MemSame s t ∧ UnitsSame s t) ∧
   (∀ s : State, s.boot.vaon = true → (getRegion s 78).powered = false → s.boot.resetLow = false → s.boot.halted = false →
     s.pow.tripped = false → s.clk.refPresent = true → Completes .headgatePowerUp s fun t =>
       (getRegion t 78).powered = true ∧ (getRegion t 78).locked = true ∧ (getRegion t 78).out = true ∧ MemSame s t ∧ UnitsSame s t) ∧
   (∀ (w : Fin 8) (s : State), (getRegion s 78).out = true → s.boot.rotated.length = w → waveReady s w = true →
     Completes (.rotationWave w) s fun t => t.boot = { s.boot with rotated := s.boot.rotated ++ [hgNow s] } ∧
       (∀ d ∈ waveDomains s w, (getRegion t d).powered = true ∧ (getRegion t d).running = true ∧ (getRegion t d).locked = false) ∧
       t = { s with boot := t.boot, clk := { s.clk with regions := t.clk.regions }, regs := t.regs }) ∧
   (∀ (r : RegionId) (s : State), (getRegion s r).running = true → (getRegion s r).locked = false → (getRegion s r).holdover = false →
     s.clk.refPresent = true → Completes (.generatorLock r) s fun t =>
       (getRegion t r).locked = true ∧ (getRegion t r).out = true ∧ (s.boot.phase ≠ 0 → t.boot = s.boot) ∧
       t = { s with boot := { s.boot with phase := t.boot.phase }, clk := t.clk })) ∧
  (∀ (lanes inv : BitVec 16) (rev : Bool) (s : State), (getRegion s 77).out = true → s.clk.refPresent = true → companionUp s = false →
     s.boot.bvTries < 3 → Completes (.brivlinkTraining lanes rev inv) s fun t =>
       rawReg t .lkBvLanes 0 = w32 (lanes.toNat + 65536 * inv.toNat) ∧ OnlyReg s t .lkBvLanes 0 0 ∧ t.boot.bvTries = s.boot.bvTries + 1 ∧
       t.boot.bvWidth = bvWidthOf lanes.toNat ∧ t.boot.bvReversed = rev ∧
       (lanes = 0xFFFF → t.boot.bvState = 5 ∧ t.boot.bvWidth = 3) ∧
       (bvWidthOf lanes.toNat ≠ 0 → s.boot.decided = false → s.boot.phase < 2 → t.boot.phase = 2 ∧ t.boot.bvState = 5) ∧
       (bvWidthOf lanes.toNat = 0 → t.boot.phase = s.boot.phase ∧ (s.boot.bvTries = 2 → t.boot.bvState = 7) ∧
         (s.boot.bvTries < 2 → t.boot.bvState = 1)) ∧
       MemSame s t ∧ UnitsSame s t)

/-- B5 to B7 (R433, R453, R357): the go bit starts the fetch; the image and the boot block are read from companion memory; an
image that the seven checks accept is started; the firmware then runs. Model's choices in it: log entries 12, 64, 70. -/
def Obligations.FirmwareBoots : Prop :=
  (∀ s : State, s.boot.phase = 2 → companionUp s = true → Completes .bootGo s fun t =>
      t = { s with boot := { s.boot with phase := 3, hgState := 1, fetched := [], block := [], verified := false, b5Ms := t.boot.b5Ms } }) ∧
  (∀ s : State, s.boot.phase = 3 → companionUp s = true → (rawReg s .hgImgLen 0).toNat ≤ 0x1000000 → Completes .imageFetch s fun t =>
      t.boot.fetched = mreads s.mem (3 * 2 ^ 44 + compAt s .hgImgLo .hgImgHi) (rawReg s .hgImgLen 0).toNat ∧
      (compAt s .hgBlkLo .hgBlkHi ≠ 0 → t.boot.block = mreads s.mem (3 * 2 ^ 44 + compAt s .hgBlkLo .hgBlkHi) 128) ∧
      t = { s with boot := { s.boot with fetched := t.boot.fetched, block := t.boot.block } }) ∧
  (∀ s : State, s.boot.phase = 3 → s.boot.hgState = 1 → s.head.reload ≠ 2 → Completes .imageVerify s fun t => imageOk s s.boot.fetched = true →
      t.boot.phase = 4 ∧ t.boot.verified = true ∧ t.boot.measure = Config.sha512 s.boot.fetched ∧ t.boot.imgSvn = imgSvnOf s.boot.fetched ∧
      t.boot.slot = imgSlot s.boot.fetched ∧ t = { s with boot := t.boot }) ∧
  (∀ s : State, s.boot.phase = 4 → s.boot.verified = true → s.boot.hgState = 1 → Completes .firmwareStart s fun t =>
      t.boot.hgState = 2 ∧ (blockGiven s.boot.block = false → t.boot.strict = false ∧ t.boot.expected = 0xFFFF) ∧
      t = { s with boot := { s.boot with hgState := 2, strict := t.boot.strict, expected := t.boot.expected },
                   head := { s.head with plog := t.head.plog, plogNext := t.head.plogNext, suspects := t.head.suspects } })

/-- R434: a failed verification sets AUTH_FAIL and returns to B5, which waits for a new go; nothing beyond B6 runs until an image
verifies; a go outside B5 is ignored. -/
def Obligations.FailedVerificationReturns : Prop :=
  (∀ s : State, s.boot.phase = 3 → s.boot.hgState = 1 → imageOk s s.boot.fetched = false → Completes .imageVerify s fun t =>
      t.boot.phase = 2 ∧ t.boot.hgState = 0 ∧ t.boot.status = St.authFail.code ∧ t.boot.failures = s.boot.failures + 1 ∧
      (rawReg t .hgBootEvent 0).getLsbD 1 = true ∧ OnlyReg s t .hgBootEvent 0 0 ∧ t = { s with boot := t.boot, regs := t.regs }) ∧
  (∀ (i : Instr) (s : State), i ∈ [Instr.imageFetch, .imageVerify] → s.boot.phase ≠ 3 → Completes i s fun t => t = s) ∧
  (∀ s : State, (s.boot.phase ≠ 4 ∨ s.boot.verified = false) → Completes .firmwareStart s fun t => t = s) ∧
  (∀ (found : List W32) (s : State), s.boot.hgState ≠ 2 → Completes (.laneSurvey found) s fun t => t = s) ∧
  (∀ (untrained : List (StackId × Fin 32)) (repaired : List W32) (s : State), s.boot.lanesDone = false →
    Completes (.hbmInitialisation untrained repaired) s fun t => t = s) ∧
  (∀ (found : List W32) (replays : List (Nat × W32)) (s : State), s.boot.hbmDone = false →
    Completes (.startUpSurvey ⟨found, replays⟩) s fun t => t = s) ∧
  (∀ (p : PortId) (lanes : Byte) (kr : Bool) (s : State), (getPort s p).st = 0 → Completes (.ethernetPortTraining p lanes kr) s fun t => t = s) ∧
  (∀ (e : W32) (s : State), s.boot.surveyed = false → Completes (.ledgerEntryProgram e) s fun t => t = s) ∧
  (∀ s : State, s.boot.surveyed = false → Completes .bootScrub s fun t => t = s) ∧
  (∀ s : State, s.boot.phase ≠ 7 → Completes .readinessDecision s fun t => t = s) ∧
  (∀ s : State, s.boot.phase ≠ 2 → Completes .bootGo s fun t => t = s)

/-- B8 to B12 (R435-R442, R460): the surveys record what they find, the start-up survey with the cube columns that failing replays
locate and the cores that become fallow by it (R239, R82), each new entry is programmed in order, a trained stack is listed, and
the boot scrub leaves HBM and basin zero. B13 (R441-R443, R454): the readiness decision follows the checks of Table BOOT-6; a
device that is ready has its default partition; fuses then take the image's revocations and, with its commit flag, its security
version. Model's choices in it: log entries 2, 6, 64, 67. -/
def Obligations.SurveysAndReadiness : Prop :=
  ((∀ (found : List W32) (s : State), s.boot.phase = 4 → s.boot.hgState = 2 → s.boot.lanesDone = false → Completes (.laneSurvey found) s fun t =>
       t.boot.phase = 5 ∧ t.boot.lanesDone = true ∧ t.boot.newEntries = s.boot.newEntries ++ found ∧
       (∀ p < 16, s.boot.expected.testBit p = false → getPort t p = getPort s p) ∧ MemSame s t ∧ UnitsSame s t) ∧
   (∀ (un : List (StackId × Fin 32)) (rep : List W32) (s : State), s.boot.lanesDone = true → s.boot.hbmDone = false →
     Completes (.hbmInitialisation un rep) s fun t =>
       t.boot.phase = 6 ∧ t.boot.hbmDone = true ∧ t.boot.newEntries = s.boot.newEntries ++ rep ∧
       (∀ k : StackId, (k : Nat) ∈ t.hbm.trained ↔ (∀ u ∈ un, u.1 ≠ k) ∧ (getRegion s (72 + k / 6)).out = true) ∧
       t = { s with boot := t.boot, hbm := { s.hbm with trained := t.hbm.trained } }) ∧
   (∀ (found : List W32) (replays : List (Nat × W32)) (s : State), s.boot.hbmDone = true → s.boot.surveyed = false →
     let es := found ++ (List.range 240).flatMap (fun c => replayFinds s c replays)
     Completes (.startUpSurvey ⟨found, replays⟩) s fun t =>
       t = { s with boot := { s.boot with
         surveyed := true, phase := 7,
         newEntries := s.boot.newEntries ++ es ++ (newlyFallow s (foundEntries s es) es).map (ledgerEntry 1 2) } }) ∧
   (∀ (e : W32) (rest : List W32) (s : State), s.boot.newEntries = e :: rest → s.boot.surveyed = true → ledgerType e ≠ 7 → ledgerType e ≠ 8 →
     s.head.ledger.length < 4096 → s.head.reload ≠ 2 → Completes (.ledgerEntryProgram e) s fun t =>
       t.head.ledger = s.head.ledger ++ [e] ∧ t.boot.newEntries = rest ∧ t.boot.appended = s.boot.appended + 1 ∧
       (rawReg t .hgBootEvent 0).getLsbD 0 = true ∧
       Reported t 0x0002 0 none s.head.ledger.length (s.head.ledger.length % 4096 + e.toNat * 2 ^ 32) ∧ MemSame s t ∧ UnitsSame s t) ∧
   (∀ s : State, s.boot.surveyed = true → s.boot.scrubbed = false → Completes .bootScrub s fun t =>
       t.boot = { s.boot with scrubbed := true } ∧ (∀ a < 0xD7B0000000, mread t.mem a = 0) ∧
       (∀ f < 12, ∀ o < 0x60000000, mread t.mem (fieldBase f + o) = 0) ∧ CompSame s t ∧ t.regs = s.regs ∧ t.head = s.head)) ∧
  ((∀ s : State, decisionDue s = true → Completes .readinessDecision s fun t =>
       t.boot.decided = true ∧ t.boot.phase = 8 ∧ t.boot.outcome = (readyStatus (readyChecks s) s.boot.strict).code ∧
       (t.boot.ready = true ↔ readyStatus (readyChecks s) s.boot.strict ≠ .topologyMismatch) ∧
       (t.boot.ready = true → getPart t 0 = some (partitionZero s)) ∧ t.boot.presented = presentedCount s ∧ MemSame s t ∧ UnitsSame s t) ∧
   ((∀ cs strict, readyStatus cs strict = .ok ↔ ∀ c ∈ cs, c = Check.pass) ∧
    (∀ cs, readyStatus cs false = .topologyMismatch ↔ Check.fail ∈ cs)) ∧
   (∀ s : State, s.boot.fuseDue = true → s.boot.decided = true → s.boot.hgState = 2 → Completes .fuseUpdate s fun t =>
       (∀ k < 4, k ∈ t.fuses.revoked ↔ k ∈ s.fuses.revoked ∨ s.boot.revoke.testBit k = true) ∧
       (s.boot.commit = true → t.fuses.svn = max s.fuses.svn s.boot.imgSvn) ∧ (s.boot.commit = false → t.fuses.svn = s.fuses.svn) ∧
       t = { s with fuses := { s.fuses with revoked := t.fuses.revoked, svn := t.fuses.svn }, boot := { s.boot with fuseDue := false } }))

/-- R383-R385: a generator that loses lock keeps its region running in holdover and is reported each second; with the reference
back it relocks; the loss of the reference puts every running generator into holdover and the links down. R387, R388: a phase
offset that leaves its window disengages the bypass of its crossing; with the conditions of both sides met for 64 cycles of the
receiving region it re-engages. Model's choices in it: log entries 2, 20, 56. -/
def Obligations.ReferenceAndCrossings : Prop :=
  ((∀ (r : RegionId) (s : State), (getRegion s r).locked = true → Completes (.lockLoss r) s fun t =>
       (getRegion t r).locked = false ∧ (getRegion t r).holdover = true ∧ (getRegion t r).running = (getRegion s r).running ∧
       (getRegion t r).holdoverSince = hgNow s ∧ (rawReg t .ckEvent 0).getLsbD 0 = true ∧ t = { s with regs := t.regs, clk := t.clk }) ∧
   (∀ (r : RegionId) (s : State), s.head.reload ≠ 2 → (getRegion s r).holdover = true →
     (getRegion s r).holdoverSince + secCycles ((getRegion s r).holdReports + 1) ≤ hgNow s → Completes (.holdoverReport r) s fun t =>
       (getRegion t r).holdReports = (getRegion s r).holdReports + 1 ∧ Reported t 0x0011 0 none r ((getRegion s r).holdReports + 1) ∧
       t = { s with clk := { s.clk with regions := t.clk.regions }, head := withTel s.head t.head }) ∧
   (∀ (r : RegionId) (s : State), (getRegion s r).holdover = true → s.clk.refPresent = true → Completes (.generatorRelock r) s fun t =>
       (getRegion t r).locked = true ∧ (getRegion t r).holdover = false ∧ t = { s with clk := t.clk }) ∧
   (∀ s : State, s.clk.refPresent = true → Completes .referenceLoss s fun t =>
       t.clk.refPresent = false ∧ t.clk.allHold = true ∧ (rawReg t .ckEvent 0).getLsbD 1 = true ∧ t.boot.bvState ≠ 5 ∧ t.boot.bvWidth = 0 ∧
       (∀ r, (getRegion s r).running = true → (getRegion t r).holdover = true ∧ (getRegion t r).locked = false ∧ (getRegion t r).running = true) ∧
       (∀ p < 16, (getPort s p).st = 3 → (getPort t p).st = 4) ∧ MemSame s t ∧ UnitsSame s t) ∧
   (∀ s : State, s.clk.refPresent = false → Completes .referenceReturn s fun t =>
       t.clk.refPresent = true ∧ t.clk.allHold = false ∧
       (∀ r, (getRegion s r).holdover = true → (getRegion t r).holdover = false ∧ (getRegion t r).locked = true) ∧ t = { s with clk := t.clk })) ∧
  ((∀ (x a b : Nat) (s : State), crossRegions x = some (a, b) → Completes (.crossingSkewLeftWindow x) s fun t =>
       (getCrossing t x).skew = true ∧ (getCrossing t x).engaged = false ∧
       ((getCrossing s x).engaged = true → t.clk.dis = (s.clk.dis + 1) % 2 ^ 32) ∧ (rawReg t .ckEvent 0).getLsbD 4 = true ∧
       OnlyReg s t .ckEvent 0 0 ∧
       t = { s with regs := t.regs, clk := { s.clk with crossings := t.clk.crossings, dis := t.clk.dis, agents := t.clk.agents } }) ∧
   (∀ (x a b u : Nat) (s : State), crossRegions x = some (a, b) → (getCrossing s x).engaged = false → (getCrossing s x).skew = false →
     sidesMeet s a b = true → (getCrossing s x).clear = some u → u + 64 ≤ (getRegion s b).count → Completes (.bypassReengage x) s fun t =>
       (getCrossing t x).engaged = true ∧ t = { s with clk := { s.clk with crossings := t.clk.crossings } }))

/-- R390-R394: a gauge reading that passes below 3 % is one warning, a reading below 1 % announces a spill, and the spill is
counted. R396, R397: a correlation mark pairs each live agent's count with its interval, of at most 80 cycles; a record of a live
agent starts its figures again. Model's choices in it: log entries 58, 65. -/
def Obligations.GaugesAndMarks : Prop :=
  ((∀ (r : RegionId) (m : Nat) (s : State), (getRegion s r).out = true → m < 12 → (12 ≤ (getRegion s r).margin ∨ (getRegion s r).least = 0x7F) →
     Completes (.gaugeWarning r m) s fun t =>
       (getRegion t r).margin = m ∧ (getRegion t r).least = min (getRegion s r).least m ∧
       (getRegion t r).warnings = (getRegion s r).warnings + 1 ∧ (rawReg t .ckEvent 0).getLsbD 2 = true ∧
       OnlyReg s t .ckEvent 0 0 ∧ t = { s with regs := t.regs, clk := t.clk }) ∧
   (∀ (r : RegionId) (m : Nat) (s : State), (getRegion s r).out = true → m < 4 → Completes (.spillRequest r m) s fun t =>
       (getRegion t r).spill = 1 ∧ (getRegion t r).margin = m ∧ (rawReg t .ckEvent 0).getLsbD 3 = true ∧ OnlyReg s t .ckEvent 0 0 ∧
       t = { s with regs := t.regs, clk := t.clk }) ∧
   (∀ (r : RegionId) (s : State), (getRegion s r).spill = 1 → Completes (.spill r) s fun t =>
       (getRegion t r).spill = 0 ∧ (getRegion t r).spills = (getRegion s r).spills + 1 ∧ t = { s with clk := t.clk })) ∧
  ((∀ s : State, s.clk.lastMark + 14000 ≤ hgNow s → Completes .correlationMark s fun t =>
       t.clk.lastMark = hgNow s ∧
       (∀ a < 96, ∀ c, agentCount s a = some c → ∃ e, (getAgent t a).pairs.getLast? = some (c, hgNow s, e) ∧ hgNow s ≤ e ∧ e ≤ hgNow s + 80) ∧
       t = { s with fresh := t.fresh, clk := { s.clk with lastMark := t.clk.lastMark, agents := t.clk.agents } }) ∧
   (∀ (a : SensorId) (c : Nat) (p : Nat × Nat × Nat) (s : State), s.head.reload ≠ 2 → agentCount s a = some c →
     (getAgent s a).pairs.getLast? = some p → Completes (.correlationRecord a) s fun t =>
       Recorded t 0x12 none (corrBody s a p) ∧ getAgent t a = { getAgent s a with spills := 0, dis := 0, heldOver := false, least := 0x7F } ∧
       t = { s with clk := { s.clk with agents := t.clk.agents }, head := withTel s.head t.head }))

/-- R363-R368: a due secure point of a protected ring is captured as deltas against the local copies, with the granules clean
again and the next epoch open; the send phase follows; a point's notice commits its epoch (R369). Table RES-5: the relief device
takes the place, the addresses and the position of a lost member, with its record; a survivor's tensors go back to their local
copies, and its open epoch is aborted. Model's choices in it: log entries 35, 43, 44. -/
def Obligations.SecuringRuns : Prop :=
  ((∀ (p : Nat) (c : Secure) (s : State), getSecure s p = some c → secureDue c = true → ringProtects s = true → c.phase = 0 →
     let ts := c.tensors.map (chooseMethod ((s.head.ring.map ringSize).getD 0) c.rMax c.mirrorMax (Config.reliefRoom s.fresh))
     (c.tensors.map (fun t => 64 * t.dirty.length)).sum ≤ deltaRoom c.areaBytes ts →
     (∀ x ∈ c.tensors, ∀ g ∈ x.dirty, tget s.upset g = none) →
     Completes (.securePointCapture p) s fun t =>
       (∃ d : Secure, getSecure t p = some d ∧ d.epoch = c.epoch + 1 ∧ d.phase = 1 ∧ d.step = c.cur ∧ d.capturedAt = hgNow s ∧ d.committed = c.committed ∧
         ∀ (i : Nat) (x : STensor), c.tensors[i]? = some x → ∃ y : STensor, d.tensors[i]? = some y ∧ y.dirty = [] ∧
           ∀ g ∈ x.dirty, tget y.delta g = some (xorBytes (mreads s.mem (g * 64) 64) (tgetD x.copy g (mreads s.mem (g * 64) 64)))) ∧
       MemOutside s t c.areaBase (c.areaBase + c.areaBytes) ∧ UnitsSame s t ∧ t.regs = s.regs) ∧
   (∀ (p : Nat) (c : Secure) (s : State), getSecure s p = some c → c.phase = 1 → ringProtects s = true →
     Completes (.secureSend p) s fun t => getSecure t p = some { c with phase := 2, sentAt := hgNow s } ∧
       t = { s with head := { s.head with secure := t.head.secure, ring := t.head.ring } }) ∧
   (∀ (p epoch : Nat) (c : Secure) (s : State), getSecure s p = some c → c.phase = 2 → c.epoch = epoch → c.holdFrom = none → s.head.reload ≠ 2 →
     Completes (.commitNotice p epoch) s fun t =>
       (∃ d : Secure, getSecure t p = some d ∧ d.committed = epoch ∧ d.phase = 0 ∧ d.cstep = c.step ∧ ∀ x ∈ d.tensors, x.delta = []) ∧
       (∃ body, Recorded t 0x10 (some p) body) ∧ MemOutside s t c.areaBase (c.areaBase + c.areaBytes) ∧ UnitsSame s t ∧ t.regs = s.regs)) ∧
  ((∀ (i lost ms : Nat) (ports : List Nat) (ts : List Range) (r : Ring) (m : Member) (s : State), s.head.ring = some r →
     r.members[i]? = some m → r.role = 2 → r.fenced = false → i < ringSize r → (m.lost = true ∨ m.fenceOrdered = true) → s.head.reload ≠ 2 →
     Completes (.takeover i ts ports lost ms) s fun t =>
       (∃ q, t.head.ring = some q ∧ q.role = 1 ∧ q.index = i ∧ q.takenOver = some i ∧
         ∀ j < ringSize r, j ≠ i → (j, RingMsg.rollback r.restored) ∈ q.sent ∧ (j, RingMsg.announce m.pos) ∈ q.sent) ∧
       (∀ k x, k < 16 → ports[k]? = some x → (getPort t k).addr = x ∧
         ((getPort s k).addr ≠ x → (rawReg t .lkEthEvent k).getLsbD 3 = true)) ∧
       Recorded t 0x11 none (leBytes 2 r.id ++ [BitVec.ofNat 8 i, 0] ++ leBytes 4 r.restored ++ leBytes 4 lost ++ leBytes 4 ms) ∧
       (ts = [] → MemSame s t) ∧ UnitsSame s t ∧ OnlyRegs s t [.lkEthEvent]) ∧
   (∀ (epoch p g : Nat) (r : Ring) (c : Secure) (x : STensor) (b : List Byte) (s : State), s.head.ring = some r → r.role = 1 →
     securedParts s = [p] → getSecure s p = some c → (c.phase ≠ 2 ∨ c.epoch ≠ epoch) →
     (∀ y ∈ c.tensors, ∀ e ∈ y.copy, e.2.length = 64) → x ∈ c.tensors → g ∈ x.dirty → tget x.copy g = some b →
     (∀ y ∈ c.tensors, ∀ d, tget y.copy g = some d → d = b) → Completes (.rollbackNotice epoch) s fun t =>
       mreads t.mem (g * 64) 64 = b ∧
       ∃ d : Secure, getSecure t p = some d ∧ d.phase = 0 ∧ d.epoch = c.committed ∧ ∀ y ∈ d.tensors, y.dirty = [] ∧ y.delta = []))

/-- R369, R371-R373: the relief device commits an epoch to every member; beats go to the relief device and both neighbours; a
received beat is dated and acknowledged; a member that nobody has heard for 20 periods is lost; a member fences itself for good;
the loss of the relief device is reported. Model's choices in it: log entry 44. -/
def Obligations.RingMembers : Prop :=
  (∀ (n : Nat) (r : Ring) (s : State), s.head.ring = some r → r.id = n → r.role = 2 → r.fenced = false → Completes (.epochCommit n) s fun t =>
      (∃ q, t.head.ring = some q ∧ q.restored = r.restored + 1 ∧ ∀ i < ringSize r, (i, RingMsg.commit (r.restored + 1)) ∈ q.sent) ∧
      (r.reliefBytes = 0 → MemSame s t) ∧ UnitsSame s t ∧ t.regs = s.regs) ∧
  (∀ (r : Ring) (s : State), s.head.ring = some r → r.role = 1 → r.fenced = false → Completes .heartbeat s fun t =>
      (∃ q, t.head.ring = some q ∧ q.beats = r.beats + 1 ∧
        ∀ i ∈ ringSize r :: ringNeighbours r r.index, (i, RingMsg.beat (heardNow s r)) ∈ q.sent) ∧
      t = { s with head := { s.head with ring := t.head.ring } }) ∧
  (∀ (i : Nat) (heard : List Nat) (r : Ring) (m : Member) (s : State), s.head.ring = some r → r.members[i]? = some m →
    m.fenceOrdered = false → r.fenced = false → Completes (.heartbeatReceive i heard) s fun t =>
      (∃ q x, t.head.ring = some q ∧ q.members[i]? = some x ∧ x.heard = hgNow s ∧ (i, RingMsg.beatAck) ∈ q.sent) ∧
      t = { s with head := { s.head with ring := t.head.ring } }) ∧
  (∀ (i : Nat) (r : Ring) (m : Member) (s : State), s.head.ring = some r → r.members[i]? = some m → r.role = 2 → m.lost = false →
    i < ringSize r → m.heard + 20 * beatCycles r ≤ hgNow s → Completes (.memberLost i) s fun t =>
      t = { s with head := { s.head with ring := some { r with members := r.members.set i { m with lost := true } } } }) ∧
  (∀ (order : Bool) (r : Ring) (s : State), s.head.ring = some r → r.role = 1 → r.fenced = false → Completes (.selfFence order) s fun t =>
      (∃ q, t.head.ring = some q ∧ q.fenced = true ∧ (order = true → (ringSize r, RingMsg.fenceAck) ∈ q.sent)) ∧
      (∀ e ∈ s.head.seqs, (securedParts s).contains e.2.part = true → getSeq t e.1 = none) ∧ MemSame s t ∧ t.regs = s.regs) ∧
  (∀ (r : Ring) (s : State), s.head.ring = some r → r.role = 1 → r.reliefLost = false → r.fenced = false → s.head.reload ≠ 2 →
    Completes .reliefDeviceSilent s fun t => t.head.ring = some { r with reliefLost := true } ∧
      Reported t 0x0015 St.degraded.code none r.id 0 ∧
      t = { s with head := { withTel s.head t.head with ring := t.head.ring, secure := t.head.secure } })

/-- R304, R114: the first stage starts the next step of the earliest sequence that is ready, with its counters at zero; without
governed vectors to write, memory stays. R319: a free slot of a reserved pipeline takes the first waiting senior sequence; an
unreserved one takes a senior before any other class while no reserved one is free, and with standard work alone waiting the head
of the standard class. R311: a program that a sequence waits for and that can be loaded now is loaded on the cores found; R315: a
junior sequence past its deadline that still waits ends with REFUSED_CAPACITY. Model's choices in it: log entries 40, 41, 76. -/
def Obligations.TasksScheduled : Prop :=
  (∀ (prog pipe q c : Nat) (p : Pipe) (g : Program) (r : Sequ) (st : Nat × StageRec) (sts : List (Nat × StageRec)) (cs : List Nat) (s : State),
     pipe < 64 → getPipe s (pipeKey prog pipe) = some p → tget s.head.progs prog = some g → p.live = true → p.halted = false →
     p.held = false → captureHolds s (pipeKey prog pipe) p = false → pipeStages g.img pipe = st :: sts → p.cores = c :: cs →
     coreLive s c = true → (getCore s c).task = none →
     p.slots.find? (fun q => !seqBusy s (pipeKey prog pipe) q && (getSeq s q).isSome) = some q → getSeq s q = some r →
     (∀ d ∈ p.cores, d < 240) → (∀ d, (getCore s d).vec.due = []) →
     Completes (.taskStart prog pipe) s fun t =>
       (getCore t c).task = some
         { prog := prog, pipe := pipe, stage := st.1, seq := q, seed := r.seed, step := r.done, budget := stageBudget r.shape st.2,
           spills := (getRegion s (coreRegion c)).spills, cls := r.cls, input := r.input, output := r.output, shape := r.shape,
           ctx := r.ctx, tag := r.tag } ∧
       (getSeq t q).map (·.st) = some SeqSt.flight ∧
       rawReg t .coSchCountLo c = 0 ∧ rawReg t .coSchCountHi c = 0 ∧ rawReg t .coSchHoldEcc c = 0 ∧ rawReg t .coSchHoldCredit c = 0 ∧
       rawReg t .coSchWaitLimit c = w32 st.2.waitLimit ∧
       ((∀ x ∈ st :: sts, x.2.scaleOff = none ∧ x.2.gscaleOff = none) → MemSame s t)) ∧
  (∀ (prog pipe : Nat) (p : Pipe) (g : Program) (v : Partition) (s : State), pipe < 64 → slotFree s (pipeKey prog pipe) = true →
     getPipe s (pipeKey prog pipe) = some p → tget s.head.progs prog = some g → getPart s g.part = some v →
     (∀ e l r, (p.reserved = true ∨ reservedFree s prog = false) → waiting s prog 0 = e :: l → getSeq s e.1 = some r →
       Completes (.admissionFillSlot prog pipe) s fun t =>
         getSeq t e.1 = some { r with st := .inRing, front := false, pipe := pipeKey prog pipe } ∧
         getPipe t (pipeKey prog pipe) = some { p with slots := p.slots ++ [e.1] } ∧
         t = { s with head := { s.head with seqs := t.head.seqs, pipes := t.head.pipes } }) ∧
     (∀ h r, p.reserved = false → waiting s prog 0 = [] → waiting s prog 2 = [] → stdHead s v g.img pipe (waiting s prog 1) = some h →
       getSeq s h.1 = some r → Completes (.admissionFillSlot prog pipe) s fun t =>
         getSeq t h.1 = some { r with st := .inRing, front := false, pipe := pipeKey prog pipe } ∧
         getPipe t (pipeKey prog pipe) = some { p with slots := p.slots ++ [h.1] } ∧
         t = { s with head := { s.head with seqs := t.head.seqs, pipes := t.head.pipes, parts := t.head.parts } }) ∧
     (p.reserved = true → waiting s prog 0 = [] → Completes (.admissionFillSlot prog pipe) s fun t => t = s)) ∧
  ((∀ (prog pipe : Nat) (g : Program) (s s' : State) (cs : List Nat), pipe < 64 → tget s.head.progs prog = some g →
     ((waiting s prog 0) ≠ [] ∨ (waiting s prog 1) ≠ [] ∨ (waiting s prog 2) ≠ []) → switchable s prog pipe = some (s', cs) →
     Completes (.programSwitch prog pipe) s fun t =>
       (∃ p, getPipe t (pipeKey prog pipe) = some p ∧ p.live = true ∧ p.cores = cs ∧ p.reserved = decide (pipe < g.reserved)) ∧ MemSame s t) ∧
   (∀ (q d : Nat) (r : Sequ) (s : State), getSeq s q = some r → r.deadline = some d → r.st = .queued → r.cls = 2 → d ≤ hgNow s →
     s.head.reload ≠ 2 → Completes (.juniorDeadlineExpiry q) s fun t => getSeq t q = none ∧
       (∃ c, t.head.cplDue = s.head.cplDue ++ [c] ∧ c.ctx = r.ctx ∧ c.tag = r.tag ∧ c.status = St.refusedCapacity.code ∧ c.interim = false) ∧
       MemSame s t ∧ t.regs = s.regs))

/-- R217-R222, R378: the governor decides the format, reference exponent and scale of a layer's next step and records it; with
every stage at its boundary the decisions of the program come into force. R301, R302, R375, Table RES-6: a silent core is lost,
gets a ledger entry and no longer serves; a stage moves to its first free relief placement, with its record, or its pipeline goes
down. Model's choices in it: log entries 42, 48, 76. -/
def Obligations.GovernorAndStages : Prop :=
  ((∀ (model layer : Nat) (late : Bool) (m : Model) (g : Gov) (s : State), tget s.head.models model = some m → tget m.govs layer = some g →
     s.head.reload ≠ 2 → Completes (.governorDecision model layer late) s fun t =>
       let f := g.sum
       let e := if f.amax.toNat % 2 ^ 31 = 0 then g.eref else fpExp f.amax
       (∃ n, (tget t.head.models model).bind (fun m => tget m.govs layer) = some n ∧ n.steps = g.steps + 1 ∧ n.fmt = g.fmt ∧
         n.sum = .zero ∧ n.next = some ((govChoice g f).1, e, scaleFor (govChoice g f).1 e)) ∧
       (∃ body, Recorded t 1 (some m.part) body) ∧ t = { s with head := { withTel s.head t.head with models := t.head.models } }) ∧
   (∀ (g : Gov) (f : GovSum), (polNarrow g.policy ≤ polWide g.policy →
       polNarrow g.policy ≤ (govChoice g f).1 ∧ (govChoice g f).1 ≤ polWide g.policy) ∧
     (polPin g.policy = 0 → polWarm g.policy ≤ g.steps → f.nan = true → polNarrow g.policy ≤ 3 → polWide g.policy = 3 →
       (govChoice g f).1 = 3)) ∧
   (∀ (prog pipe : Nat) (p : Pipe) (g : Program) (s : State), pipe < 64 → getPipe s (pipeKey prog pipe) = some p →
     tget s.head.progs prog = some g → s.head.reload ≠ 2 → p.cores ≠ [] → p.cores.all (atBoundary s) = true →
     Completes (.stepBoundaryActions prog pipe) s fun t =>
       ∀ e ∈ t.head.models, e.2.prog = prog → ∀ x ∈ e.2.govs, x.2.next = none)) ∧
  ((∀ (c : CoreId) (s : State), Completes (.coreSilenceTimeout c) s fun t => getCore t c = { getCore s c with lost := true } ∧
       (∀ d, d ≠ (c : Nat) → getCore t d = getCore s d) ∧ t = { s with cores := t.cores }) ∧
   (∀ (c : CoreId) (s : State), s.head.reload ≠ 2 → (getCore s c).lost = true → (getRegion s (coreRegion c)).powered = true →
     Completes (.stageLost c) s fun t => coreFallow t c = true ∧ (getCore t c).lost = false) ∧
   (∀ (prog stage cause : Nat) (g : Program) (st : StageRec) (p : Pipe) (s : State), tget s.head.progs prog = some g →
     g.img.stages[stage]? = some st → st.pipe < 64 → getPipe s (pipeKey prog st.pipe) = some p → s.head.reload ≠ 2 → p.live = true →
     st.pos < p.cores.length → atBoundary s (p.cores.getD st.pos 0) = true → Completes (.reliefPlacementApply prog stage cause) s fun t =>
       ((moveStage s (pipeKey prog st.pipe) st.pos cause).isSome = true → ∃ r q, getPipe t (pipeKey prog st.pipe) = some q ∧
         q.cores = p.cores.set st.pos r ∧ Reported t 0x0004 0 (some g.part) (p.cores.getD st.pos 0) (r + 256 * cause + 65536 * prog)) ∧
       (moveStage s (pipeKey prog st.pipe) st.pos cause = none → ∃ q, getPipe t (pipeKey prog st.pipe) = some q ∧ q.live = false)))

/-- R377, R436, R438: a survey falls due once its time has come; a survey of a free core or of a block brings its record up to
date, and a pass, with no located failure that a replay reproduces, clears the suspect flag; an overdue survey and a partition
without checks are reported hourly. R240-R243: a suspect event is counted, at most to three, and marks its unit; a best-effort
sample that matches is counted only, and one that does not puts the blamed core before the suspect count; the checking core's
check reserve is used. Model's choices in it: log entries 2, 33, 54, 76. -/
def Obligations.SurveysAndSuspects : Prop :=
  ((∀ (c : CoreId) (s : State), (surveyOf s c).due = false → (surveyOf s c).dueAt ≤ hgNow s → corePresented s c = true →
     Completes (.surveyDue c) s fun t => surveyOf t c = { surveyOf s c with due := true, since := hgNow s, reports := 0 } ∧
       t = { s with head := { s.head with surveys := t.head.surveys } }) ∧
   (∀ (c : Nat) (kinds : Byte) (found : List W32) (replays : List (Nat × W32)) (s : State), c < 240 → s.head.reload ≠ 2 → holders s c = [] → (getCore s c).resetting = false →
     (getRegion s (coreRegion c)).powered = true → Completes (.inFieldSurvey false c kinds ⟨found, replays⟩) s fun t =>
       (surveyOf t c).due = false ∧ (surveyOf t c).dueAt = hgNow s + hourCycles 24 ∧ s.head.ledger <+: t.head.ledger ∧
       (found = [] → ((surveyKinds s c kinds).getLsbD 1 = true → replayFinds s c replays = []) → coreFallow s c = false → (getCore t c).suspect = false) ∧ (kinds.getLsbD 2 = false → MemSame s t) ∧
       MemOutside s t (spadBase c) (spadBase c + spadBytes)) ∧
   (∀ (b : Nat) (kinds : Byte) (replays : List (Nat × W32)) (s : State), s.head.reload ≠ 2 → blockFallow s (b / 32) (b % 32) = false →
     Completes (.inFieldSurvey true b kinds ⟨[], replays⟩) s fun t => (getBlock t b).suspect = false ∧ MemSame s t ∧
       Reported t 0x0005 0 none (256 + b) 65536) ∧
   (∀ (c : CoreId) (key : Nat) (p : Pipe) (v : Survey) (s s' : State), surveyPressing s c = true → s.head.reload ≠ 2 →
     s.head.pipes = [(key, p)] → p.live = true → p.cores = [(c : Nat)] → atBoundary s c = true → s.head.surveys = [((c : Nat), v)] →
     moveStage s key 0 3 = some s' → Completes (.surveyDeferralLimit c) s fun t =>
       tget t.head.surveys c = some { v with movedFrom := some (key, 0) } ∧ (∃ q, getPipe t key = some q ∧ q.cores ≠ [(c : Nat)])) ∧
   (∀ (c : CoreId) (s : State), surveyPressing s c = true → s.head.reload ≠ 2 →
     (surveyOf s c).since + hourCycles (deferHours s c + (surveyOf s c).reports) ≤ hgNow s → Completes (.surveyOverdueReport c) s fun t =>
       surveyOf t c = { surveyOf s c with reports := (surveyOf s c).reports + 1 } ∧
       Reported t 0x0006 0 (corePart s c) c (surveyOf s c).reports ∧
       t = { s with head := { withTel s.head t.head with surveys := t.head.surveys } }) ∧
   (∀ (p : Nat) (v : Partition) (s : State), getPart s p = some v → v.checks = false → v.chkAt + hourCycles 1 ≤ hgNow s → s.head.reload ≠ 2 →
     Completes (.checksDisabledReport p) s fun t => getPart t p = some { v with chkAt := hgNow s } ∧ Reported t 0x0016 0 (some p) 0 1 ∧
       t = { s with head := { withTel s.head t.head with parts := t.head.parts } })) ∧
  ((∀ (c : Nat) (s : State), c < 240 → s.head.suspectDue.contains c = true → Completes (.suspectEvent false c) s fun t =>
       (getCore t c).suspect = true ∧ tget t.head.suspects c = some (min 3 (tgetD s.head.suspects c 0 + 1)) ∧ MemSame s t) ∧
   (∀ (b : Nat) (s : State), b % 32 < 20 → s.head.suspectDue.contains (256 + b) = true → Completes (.suspectEvent true b) s fun t =>
       (getBlock t b).suspect = true ∧ tget t.head.suspects (256 + b) = some (min 3 (tgetD s.head.suspects (256 + b) 0 + 1)) ∧ MemSame s t) ∧
   (∀ (c k : CoreId) (rep matched : Bool) (p : Nat) (v : Partition) (s : State), corePart s c = some p → getPart s p = some v → v.sample ≠ 0xFF →
     (k : Nat) ≠ c → spareCore s p k = true → Completes (.bestEffortSample c k matched rep) s fun t =>
       rawReg t .coBeSampled c = rawReg s .coBeSampled c + 1 ∧
       (matched = true → t = { s with regs := t.regs, mem := t.mem, upset := t.upset, backs := t.backs, fresh := s.fresh + 1 }) ∧
       (matched = false → rawReg t .coBeMismatch c = rawReg s .coBeMismatch c + 1 ∧
         t.head.suspectDue = s.head.suspectDue ++ [if rep then (c : Nat) else k] ∧
         (s.head.reload ≠ 2 → Reported t 0x0018 0 (some p) (if rep then (c : Nat) else k) (if rep then (k : Nat) else c))) ∧
       MemOutside s t (spadBase k + reserveFrom) (spadBase k + spadBytes)))

/-- R142, R159-R164: a WRITE that an open window admits lands its granules, where their banks are free, at their addresses, counts
their bytes as landed and is acknowledged; one that an open turnout range admits lands in the unit that its count names; a granule
whose row a scheduled access has taken in this cycle is deferred, and counted; a write that its window, range or stamp does not
admit writes nothing, is counted and is answered by ERROR. Model's choices in it: log entries 19, 69, 81. -/
def Obligations.WritesAtCores : Prop :=
  (∀ (p : Packet) (v : Window) (n : Nat) (s : State),
    let c : Nat := p.dst
    let gran := (p.addr.toNat * 64 - spadBase c) / 64
    let buf := fun (i : Nat) => if v.ring = 0 then 0 else (gran + i - v.base) / (v.size / v.ring)
    badPacket .write p = false → mayArrive s .write p = true → p.mcast = 0#2 → c < 240 → p.wkind = 1#2 → p.data.length = 64 * n → sinkActive s c = false →
    stampOk s c p.part = true → gran + n ≤ spadBytes / 64 → tget (getCore s c).wins p.index = some v → v.isOpen = true →
    v.gen = p.gen.toNat → v.wr = true → srcAdmits s c v.kind v.srcId (srcOf p) = true → v.base ≤ gran →
    gran + n ≤ v.base + v.size → n ≠ 0 → n ≤ 32 → BanksApart s ((List.range n).map (fun i => spadBase c / 64 + gran + i)) →
    (getCore s c).port = BankPort.reset → (∀ g, furrowBusy s g = false) →
    Completes (.write p) s fun t =>
      MemStored s t (spadBase c + 64 * gran) p.data ∧
      getCore t c = { getCore s c with
        wins := tput (getCore s c).wins p.index
          { v with landed := (List.range n).foldl (fun t i => tmod t (buf i) 0 (· + 64)) v.landed },
        port := (getCore t c).port } ∧
      OnlyCore s t c ∧ Carried s t .write p [ackFor c p n] ∧ Passed s t [] ∧ EnginesSame s t) ∧
  (∀ (p : Packet) (v : CRange) (n : Nat) (s : State),
    let c : Nat := p.dst
    let gran := p.addr.toNat % 2 ^ v.unitLog
    let d := (v.granted + 65536 - p.aux.toNat % 65536) % 65536
    let at_ := v.base + ((v.granted + 65536 * v.units - d) % v.units) * 2 ^ v.unitLog + gran
    badPacket .write p = false → mayArrive s .write p = true → p.mcast = 0#2 → c < 240 → p.wkind = 2#2 → p.data.length = 64 * n → sinkActive s c = false →
    stampOk s c p.part = true → gran + n ≤ spadBytes / 64 → tget (getCore s c).rngs p.index = some v → v.isOpen = true →
    v.gen = p.gen.toNat → v.wr = true → srcAdmits s c v.kind v.srcId (srcOf p) = true → 1 ≤ d → d ≤ v.units →
    gran + n ≤ 2 ^ v.unitLog → v.base + v.units * 2 ^ v.unitLog ≤ spadBytes / 64 → n ≤ 32 →
    BanksApart s ((List.range n).map (fun i => spadBase c / 64 + at_ + i)) →
    (getCore s c).port = BankPort.reset → (∀ g, furrowBusy s g = false) →
    Completes (.write p) s fun t =>
      MemStored s t (spadBase c + 64 * at_) p.data ∧
      getCore t c = { getCore s c with
        rngs := tput (getCore s c).rngs p.index { v with admitted := v.admitted + (if gran = 0 then 1 else 0) },
        port := (getCore t c).port } ∧
      OnlyCore s t c ∧ Carried s t .write p [ackFor c p n] ∧ Passed s t [] ∧ EnginesSame s t) ∧
  (∀ (p : Packet) (v : Window) (s : State),
    let c : Nat := p.dst
    let gran := (p.addr.toNat * 64 - spadBase c) / 64
    let at_ := spadBase c / 64 + gran
    let buf := if v.ring = 0 then 0 else (gran - v.base) / (v.size / v.ring)
    badPacket .write p = false → mayArrive s .write p = true → p.mcast = 0#2 → c < 240 → p.wkind = 1#2 → p.data.length = 64 →
    sinkActive s c = false → stampOk s c p.part = true → gran + 1 ≤ spadBytes / 64 → tget (getCore s c).wins p.index = some v →
    v.isOpen = true → v.gen = p.gen.toNat → v.wr = true → srcAdmits s c v.kind v.srcId (srcOf p) = true → v.base ≤ gran →
    gran + 1 ≤ v.base + v.size → (getCore s c).port.touched.any (fun x => x.granule == at_) = true →
    Completes (.write p) s fun t =>
      MemSame s t ∧ getCore t c = { getCore s c with
        port := holdWrite (getCore s c).port ⟨at_, p.data, some (p.index, buf), true⟩ } ∧
      OnlyCore s t c ∧ Carried s t .write p [ackFor c p 1] ∧ rawReg t .bsSpSameRow c = rawReg s .bsSpSameRow c + 1 ∧
      (rawReg t .bsSpEvent c).getLsbD 1 = true ∧ Passed s t [.bsSpSameRow, .bsSpEvent] ∧ EnginesSame s t) ∧
  (∀ (p : Packet) (s : State),
    let c : Nat := p.dst
    let gran := (p.addr.toNat * 64 - spadBase c) / 64
    badPacket .write p = false → mayArrive s .write p = true → p.mcast = 0#2 → c < 240 → p.wkind = 1#2 → sinkActive s c = false →
    (stampOk s c p.part = false ∨ spadBytes / 64 < gran + (p.data.length + 63) / 64 ∨ tget (getCore s c).wins p.index = none ∨
      ∃ v : Window, tget (getCore s c).wins p.index = some v ∧ (v.isOpen = false ∨ v.gen ≠ p.gen.toNat ∨ v.wr = false ∨
        srcAdmits s c v.kind v.srcId (srcOf p) = false ∨ gran < v.base ∨ v.base + v.size < gran + (p.data.length + 63) / 64)) →
    Completes (.write p) s fun t =>
      MemSame s t ∧ t.cores = s.cores ∧ Carried s t .write p [refusal c p .windowViolation] ∧
      rawReg t .bsSpWinRefused c = rawReg s .bsSpWinRefused c + 1 ∧ (rawReg t .bsSpEvent c).getLsbD 2 = true ∧
      Passed s t [.bsSpWinRefused, .bsSpEvent] ∧ EnginesSame s t) ∧
  (∀ (p : Packet) (v : CRange) (s : State),
    let c : Nat := p.dst
    let gran := p.addr.toNat % 2 ^ v.unitLog
    let d := (v.granted + 65536 - p.aux.toNat % 65536) % 65536
    badPacket .write p = false → mayArrive s .write p = true → p.mcast = 0#2 → c < 240 → p.wkind = 2#2 → sinkActive s c = false →
    stampOk s c p.part = true → gran + (p.data.length + 63) / 64 ≤ spadBytes / 64 → tget (getCore s c).rngs p.index = some v →
    v.isOpen = true → v.gen = p.gen.toNat → v.wr = true → srcAdmits s c v.kind v.srcId (srcOf p) = true →
    (d < 1 ∨ v.units < d) →
    Completes (.write p) s fun t =>
      MemSame s t ∧ t.cores = s.cores ∧ Carried s t .write p [refusal c p .creditExhausted] ∧
      rawReg t .bsSpCredRefused c = rawReg s .bsSpCredRefused c + 1 ∧ (rawReg t .bsSpEvent c).getLsbD 2 = true ∧
      Passed s t [.bsSpCredRefused, .bsSpEvent] ∧ EnginesSame s t)

/-- R159, R150, R280, R458: a WRITE into a pinned pool range of its partition lands and is acknowledged; one that a controller
port serves and admits lands, and is acknowledged at once where no field caches a line of it, else after INVAL packets to each.
R251, R267, R272: a malformed packet of any type is dropped and counted by the first router that reads it; one that may not reach
its endpoint yet changes nothing; the sink of a core that cannot answer takes a request of any type, counts it, and answers with
ERROR; of the other types it takes the packet alone. Model's choices in it: log entries 69, 81. -/
def Obligations.WritesAtMemories : Prop :=
  ((∀ (p : Packet) (r : PoolRange) (f o o' n : Nat) (s : State), badPacket .write p = false → mayArrive s .write p = true → p.mcast = 0#2 →
     isPoolPort p.dst = true → portField p.dst = f → poolLive s f = true → p.data.length = 64 * n → (getField s f).port = BankPort.reset → (∀ g, furrowBusy s g = false) →
     BanksApart s ((List.range n).map (fun i => p.addr.toNat + i)) →
     placeOf (p.addr.toNat * 64) = .pool f o → placeOf (p.addr.toNat * 64 + 64 * n - 1) = .pool f o' →
     rangeOf s f o = some r → rangeOf s f o' = some r → r.mode = 1 → (p.part = r.part ∨ p.part = 62 ∨ p.part = 63) →
     Completes (.write p) s fun t =>
       MemStored s t (p.addr.toNat * 64) p.data ∧ Carried s t .write p [ackFor p.dst p n] ∧ t.cores = s.cores ∧
       Passed s t [] ∧ OnlyField s t f ∧ getField t f = { getField s f with port := (getField t f).port } ∧
       t.blocks = s.blocks ∧ t.passes = s.passes ∧ t.furrow = s.furrow) ∧
   (∀ (p : Packet) (n : Nat) (s : State), badPacket .write p = false → mayArrive s .write p = true → p.mcast = 0#2 → isHbmPort p.dst = true →
     portLive s p.dst = true → p.data.length = 64 * n → n ≠ 0 → portServes s p.dst (p.addr.toNat * 64) n = true →
     portAdmits s p.part .wr (p.addr.toNat * 64) (64 * n) = true → firstOwned s p.addr.toNat n = none →
     Completes (.write p) s fun t =>
       let ps := cachedPairs s (p.addr.toNat * 64) n
       MemStored s t (p.addr.toNat * 64) p.data ∧ t.cores = s.cores ∧ Passed s t [] ∧ EnginesSame s t ∧
       (ps = [] → Carried s t .write p [ackFor p.dst p n] ∧ t.hbm = s.hbm) ∧
       (ps ≠ [] → Carried s t .write p
           (ps.map (fun x => (PType.inval, mkPkt .standard p.dst (fieldPort x.2 x.1) p.part (x.1 * 4) 0))) ∧
         t.hbm = { s.hbm with invals := s.hbm.invals ++ [⟨p.dst, p.src, p.part, p.addr.toNat, n, ps⟩] }))) ∧
  ((∀ (i : Packet → Instr) (ty : PType) (p : Packet) (s : State),
     (i, ty) ∈ [(Instr.write, PType.write), (.writeAdd, .writeAdd), (.readReq, .readReq), (.readReply, .readReply),
       (.writeToken, .writeToken), (.freeToken, .freeToken), (.check, .check), (.engineReq, .engineReq), (.ack, .ack),
       (.error, .error), (.ctrl, .ctrl), (.inval, .inval)] →
     badPacket ty p = true → Completes (i p) s fun t =>
       Carried s t ty p [] ∧ rawReg t .cnRtDrop (endpointRouter p.src) = rawReg s .cnRtDrop (endpointRouter p.src) + 1 ∧
       (rawReg t .cnRtEvent (endpointRouter p.src)).getLsbD 2 = true ∧ OnlyRegs s t [.cnRtDrop, .cnRtEvent] ∧
       t = { s with canal := t.canal, regs := t.regs, outs := t.outs }) ∧
   (∀ (i : Packet → Instr) (ty : PType) (p : Packet) (s : State),
     (i, ty) ∈ [(Instr.write, PType.write), (.writeAdd, .writeAdd), (.readReq, .readReq), (.readReply, .readReply),
       (.writeToken, .writeToken), (.freeToken, .freeToken), (.check, .check), (.engineReq, .engineReq), (.ack, .ack),
       (.error, .error), (.ctrl, .ctrl), (.inval, .inval)] →
     badPacket ty p = false → mayArrive s ty p = false → Completes (i p) s fun t => t = s) ∧
   (∀ (i : Packet → Instr) (ty : PType) (p : Packet) (s : State),
     (i, ty) ∈ [(Instr.write, PType.write), (.writeAdd, .writeAdd), (.readReq, .readReq), (.engineReq, .engineReq)] →
     badPacket ty p = false → mayArrive s ty p = true → p.mcast = 0#2 → p.dst < 240 → sinkActive s p.dst = true → engineFull s p.addr.toNat = false →
     Completes (i p) s fun t =>
       Carried s t ty p [refusal p.dst p (sinkStatus s p.dst p)] ∧ MemSame s t ∧
       (∀ d, (getCore t d).wins = (getCore s d).wins ∧ (getCore t d).wtok = (getCore s d).wtok) ∧
       rawReg t .cnRtSink p.dst = rawReg s .cnRtSink p.dst + 1 ∧ (rawReg t .cnRtEvent p.dst).getLsbD 3 = true ∧
       Passed s t [.cnRtSink, .cnRtEvent] ∧ EnginesSame s t) ∧
   (∀ (i : Packet → Instr) (ty : PType) (p : Packet) (s : State),
     (i, ty) ∈ [(Instr.writeToken, PType.writeToken), (.freeToken, .freeToken), (.check, .check), (.ack, .ack), (.error, .error)] →
     badPacket ty p = false → mayArrive s ty p = true → p.dst < 240 → sinkActive s p.dst = true → Completes (i p) s fun t =>
       Carried s t ty p [] ∧ t.mem = s.mem ∧ t.cores = s.cores ∧ rawReg t .cnRtSink p.dst = rawReg s .cnRtSink p.dst + 1 ∧
       Passed s t [.cnRtSink] ∧ EnginesSame s t))

/-- R155, R158, R278, R279: a READ_REQ at a core, at an HBM port or at a pool port for another unit answers with the data of its
granules and changes no byte; a READ_REPLY gives its granules to the loads of its core that await them. R109, R161, R260: write
tokens add their bytes to their buffer's entry, free tokens count up, granted units raise their range's count, checks count for
the two latest boundaries; the token store takes no 257th entry. Model's choices in it: log entries 27, 69, 81. -/
def Obligations.ReadsAndTokens : Prop :=
  ((∀ (p : Packet) (o o' : Nat) (s : State),
     let g := p.addr.toNat
     let n := p.aux.toNat % 64 + 1
     badPacket .readReq p = false → mayArrive s .readReq p = true → p.dst < 240 → sinkActive s p.dst = false → s.upset = [] → stampOk s p.dst p.part = true → (getCore s p.dst).port.touched = [] →
     placeOf (g * 64) = .spad p.dst o → placeOf (g * 64 + 64 * n - 1) = .spad p.dst o' →
     Completes (.readReq p) s fun t =>
       Carried s t .readReq p ((replyPackets p.dst p.src p.part (p.aux.toNat / 64) g p.cls (mreads s.mem (g * 64) (64 * n))).map
         (fun q => (PType.readReply, q))) ∧
       t.mem = s.mem ∧ t.cores = s.cores ∧ Passed s t [.bsSpEvent] ∧ EnginesSame s t) ∧
   (∀ (p : Packet) (s : State),
     let g := p.addr.toNat
     let n := p.aux.toNat % 64 + 1
     badPacket .readReq p = false → mayArrive s .readReq p = true → isHbmPort p.dst = true → portLive s p.dst = true → s.upset = [] →
     portServes s p.dst (g * 64) n = true → portAdmits s p.part .rd (g * 64) (64 * n) = true → firstOwned s g n = none →
     Completes (.readReq p) s fun t =>
       Carried s t .readReq p ((replyPackets p.dst p.src p.part (p.aux.toNat / 64) g p.cls (mreads s.mem (g * 64) (64 * n))).map
         (fun q => (PType.readReply, q))) ∧
       t.mem = s.mem ∧ t.cores = s.cores ∧ Passed s t [] ∧ EnginesSame s t) ∧
   (∀ (p : Packet) (r : PoolRange) (f o o' : Nat) (s : State),
     let g := p.addr.toNat
     let n := p.aux.toNat % 64 + 1
     badPacket .readReq p = false → mayArrive s .readReq p = true → isPoolPort p.dst = true → portField p.dst = f → poolLive s f = true → s.upset = [] → (getField s f).port.touched = [] →
     (240 ≤ p.src ∨ coreField p.src ≠ f) → placeOf (g * 64) = .pool f o → placeOf ((g + n) * 64 - 1) = .pool f o' →
     rangeOf s f o = some r → rangeOf s f o' = some r → r.mode = 1 → (p.part = r.part ∨ p.part = 62 ∨ p.part = 63) →
     Completes (.readReq p) s fun t =>
       Carried s t .readReq p ((replyPackets p.dst p.src r.part (p.aux.toNat / 64) g p.cls (mreads s.mem (g * 64) (64 * n))).map
         (fun q => (PType.readReply, q))) ∧
       t.mem = s.mem ∧ t.cores = s.cores ∧ Passed s t [] ∧ EnginesSame s t) ∧
   (∀ (p : Packet) (s : State), badPacket .readReply p = false → mayArrive s .readReply p = true → p.mcast = 0#2 → p.dst < 240 → sinkActive s p.dst = false →
     Completes (.readReply p) s fun t =>
       getCore t p.dst = loadData (getCore s p.dst) p.addr.toNat p.data ∧ OnlyCore s t p.dst ∧ Carried s t .readReply p [] ∧
       t.mem = s.mem ∧ Passed s t [] ∧ EnginesSame s t) ∧
   (∀ (k : Core) (l : LoadPend) (g : Nat) (data : List Byte), k.loads = [l] → data.length = 64 → l.need.contains g = true →
     (loadData k g data).loads = [{ l with need := l.need.filter (· ≠ g), got := tput l.got g data }])) ∧
  ((∀ (p : Packet) (s : State),
     let key := p.index * 8 + p.aux.toNat % 8
     badPacket .writeToken p = false → mayArrive s .writeToken p = true → p.dst < 240 → sinkActive s p.dst = false → Completes (.writeToken p) s fun t =>
       getCore t p.dst = (if (tget (getCore s p.dst).wtok key).isNone ∧ 256 ≤ tokenEntries (getCore s p.dst) then getCore s p.dst
         else { getCore s p.dst with wtok := tput (getCore s p.dst).wtok key (tgetD (getCore s p.dst).wtok key 0 + p.addr.toNat) }) ∧
       OnlyCore s t p.dst ∧ Carried s t .writeToken p [] ∧ t.mem = s.mem ∧ Passed s t [] ∧ EnginesSame s t) ∧
   (∀ (p : Packet) (s : State),
     let key := (p.src * 256 + p.index) * 8 + p.aux.toNat % 8
     badPacket .freeToken p = false → mayArrive s .freeToken p = true → p.dst < 240 → sinkActive s p.dst = false → p.wkind ≠ 2#2 →
     Completes (.freeToken p) s fun t =>
       getCore t p.dst = (if (tget (getCore s p.dst).ftok key).isNone ∧ 256 ≤ tokenEntries (getCore s p.dst) then getCore s p.dst
         else { getCore s p.dst with ftok := tput (getCore s p.dst).ftok key (tgetD (getCore s p.dst).ftok key 0 + 1) }) ∧
       OnlyCore s t p.dst ∧ Carried s t .freeToken p [] ∧ t.mem = s.mem ∧ Passed s t [] ∧ EnginesSame s t) ∧
   (∀ (p : Packet) (r : CRange) (s : State), badPacket .freeToken p = false → mayArrive s .freeToken p = true → p.dst < 240 → sinkActive s p.dst = false →
     p.wkind = 2#2 → tget (getCore s p.dst).rngs p.index = some r → Completes (.freeToken p) s fun t =>
       getCore t p.dst = { getCore s p.dst with
         rngs := tput (getCore s p.dst).rngs p.index { r with granted := r.granted + p.aux.toNat } } ∧
       OnlyCore s t p.dst ∧ Carried s t .freeToken p [] ∧ t.mem = s.mem ∧ Passed s t [] ∧ EnginesSame s t) ∧
   (∀ (p : Packet) (s : State), badPacket .check p = false → mayArrive s .check p = true → p.dst < 240 → sinkActive s p.dst = false →
     Completes (.check p) s fun t =>
       tget (getCore t p.dst).checks (p.aux.toNat / 64) =
         some (min 240 (tgetD (getCore s p.dst).checks (p.aux.toNat / 64) 0 + 1)) ∧
       getCore t p.dst = { getCore s p.dst with checks := (getCore t p.dst).checks } ∧
       OnlyCore s t p.dst ∧ Carried s t .check p [] ∧ t.mem = s.mem ∧ Passed s t [] ∧ EnginesSame s t))

/-- R150, R164-R166, R341: an ACK closes the granules of a transfer, whose last one sends its tokens; an ERROR ends the task's
sequence with its status; a CTRL request of the headgate complex reads or writes a register word and is answered; an INVAL drops
the line of the field and is acknowledged. Model's choices in it: log entries 32, 69, 81. -/
def Obligations.AnswersDelivered : Prop :=
  (∀ (p : Packet) (d : DmaOut) (s : State), badPacket .ack p = false → mayArrive s .ack p = true → p.dst < 240 → sinkActive s p.dst = false →
    (getCore s p.dst).dma.find? (fun d => d.open_.contains p.addr.toNat) = some d → Completes (.ack p) s fun t =>
      let left := dropGranules d.open_ p.addr.toNat p.aux.toNat
      (left = [] → getCore t p.dst = { getCore s p.dst with
          dma := eraseFirst d (getCore s p.dst).dma,
          owned := (getCore s p.dst).owned.filter (fun x => !(d.tokens.map (fun q => (q.2.dst * 256 + q.2.index) * 8 + q.2.aux.toNat)).contains x) } ∧
        Carried s t .ack p d.tokens) ∧
      (left ≠ [] → getCore t p.dst = { getCore s p.dst with
          dma := (getCore s p.dst).dma.map (fun x => if x = d then { d with open_ := left } else x) } ∧ Carried s t .ack p []) ∧
      OnlyCore s t p.dst ∧ t.mem = s.mem ∧ Passed s t [] ∧ EnginesSame s t) ∧
  (∀ (p : Packet) (k : Task) (q : Sequ) (s : State), badPacket .error p = false → mayArrive s .error p = true → p.dst < 240 → sinkActive s p.dst = false →
    (getCore s p.dst).task = some k → getSeq s k.seq = some q → s.head.reload ≠ 2 → Completes (.error p) s fun t =>
      getSeq t k.seq = none ∧ (getCore t p.dst).task = none ∧ t.canal = eraseFirst (.error, p) s.canal ∧ t.mem = s.mem ∧
      (∃ e, Posted t ⟨q.ctx, q.tag, (stOfCode (p.aux.toNat % 256)).code, false, BitVec.ofNat 64 p.addr.toNat, 0, 0, e, q.irq⟩) ∧
      (∀ d ∈ (getCore t p.dst).dma, d.open_.contains p.addr.toNat = false) ∧ ElsewhereSent s t ∧ EnginesSame s t) ∧
  (∀ (p : Packet) (r : Reg) (u w : Nat) (v : W32) (s : State), badPacket .ctrl p = false → mayArrive s .ctrl p = true → portLive s p.dst = true → p.dst ≠ 393 → p.src = 393 →
    (p.dst < 240 → sinkActive s p.dst = false) → p.addr.toNat % 4 = 0 → p.aux.getLsbD 8 = false →
    Reg.ofAddr p.addr.toNat = some (r, u, w) → r ∈ [Reg.bsSpEvent, .coSchWaitLimit, .coVecEvent, .bsEccEvent, .hbEvent, .lkBvEvent] →
    ctlRead s p.addr.toNat = some v →
    Completes (.ctrl p) s fun t =>
      Carried s t .ctrl p [(.ctrl, { mkPkt p.cls p.dst 393 p.part p.addr.toNat p.aux.toNat with len := 1, data := leBytes 4 v.toNat })] ∧
      t.mem = s.mem ∧ t.cores = s.cores ∧ EnginesSame s t) ∧
  (∀ (p : Packet) (r : Reg) (u w : Nat) (s : State), badPacket .ctrl p = false → mayArrive s .ctrl p = true → portLive s p.dst = true → p.dst ≠ 393 →
    p.src = 393 → (p.dst < 240 → sinkActive s p.dst = false) → p.addr.toNat % 4 = 0 → p.aux.getLsbD 8 = true →
    Reg.ofAddr p.addr.toNat = some (r, u, w) →
    r ∈ [Reg.bsSpEvent, .coSchWaitLimit, .coVecEvent, .bsEccEvent, .hbEvent, .lkBvEvent] →
    Completes (.ctrl p) s fun t =>
      rawReg t r u w = writeBits r (rawReg s r u w) (w32 (leNat (p.data.take 4))) ∧
      Carried s t .ctrl p [(.ctrl, mkPkt p.cls p.dst 393 p.part p.addr.toNat p.aux.toNat)] ∧
      t.mem = s.mem ∧ t.cores = s.cores ∧ EnginesSame s t) ∧
  (∀ (p : Packet) (s : State), badPacket .inval p = false → mayArrive s .inval p = true → isPoolPort p.dst = true → Completes (.inval p) s fun t =>
      (getField t (portField p.dst)).lines = (getField s (portField p.dst)).lines.filter (fun l => l.line ≠ p.addr.toNat / 4) ∧
      OnlyField s t (portField p.dst) ∧
      Carried s t .inval p [(.ack, mkPkt .standard p.dst p.src p.part (p.addr.toNat / 4 * 4) 4)] ∧
      t.mem = s.mem ∧ t.cores = s.cores ∧ Passed s t [.bsPoolInval])

/-- R258, R261, R262, R265, R268: a flit with a wrong CRC starts a discard and is counted; a valid credit word adds its credits
and a nak replays; a link that has failed goes down at both ends, with the packets on it lost and an event; new via tables give
direct routes on a whole net and the best live detour elsewhere. Model's choices in it: log entries 34, 69. -/
def Obligations.CanalLinksHold : Prop :=
  (∀ (r : CoreId) (d : Fin 4) (n : Nat) (s : State), neighbour r d = some n → (getLink s r d).down = false →
    Completes (.flitCrcError r d) s fun t =>
      getLink t r d = (if (getLink s r d).discarding then getLink s r d
        else { getLink s r d with discarding := true, refused := (getLink s r d).refused + 1 }) ∧
      rawReg t .cnRtCrcErr r = rawReg s .cnRtCrcErr r + 1 ∧ OnlyRegs s t [.cnRtCrcErr] ∧
      t = { s with links := t.links, regs := t.regs }) ∧
  (∀ (r : CoreId) (d : Fin 4) (w : W32) (n : Nat) (s : State), neighbour r d = some n → (getLink s r d).down = false →
    crc8 (getBits w 0 24) ≠ getBits w 24 8 → Completes (.creditWord r d w) s fun t =>
      rawReg t .cnRtCrcErr r = rawReg s .cnRtCrcErr r + 1 ∧ OnlyRegs s t [.cnRtCrcErr] ∧ t = { s with regs := t.regs }) ∧
  (∀ (r : CoreId) (d : Fin 4) (w : W32) (n : Nat) (s : State), neighbour r d = some n → (getLink s r d).down = false →
    crc8 (getBits w 0 24) = getBits w 24 8 → w.getLsbD 0 = true → w.getLsbD 11 = false →
    Completes (.creditWord r d w) s fun t =>
      let l := getLink s r d
      let key := getBits w 1 3 * 2 + getBits w 4 1
      let c := getBits w 5 6
      getLink t r d = { l with sinceWord := 0, lastCount := tput l.lastCount key c,
                               credits := tput l.credits key (tgetD l.credits key (vcBuffers (getBits w 1 3)) +
                                 (c + 64 - tgetD l.lastCount key 0) % 64) } ∧
      t = { s with links := t.links }) ∧
  (∀ (r : CoreId) (d : Fin 4) (w : W32) (n : Nat) (s : State), neighbour r d = some n → (getLink s r d).down = false →
    crc8 (getBits w 0 24) = getBits w 24 8 → w.getLsbD 11 = true → (getLink s r d).kept.contains (getBits w 12 6) = true →
    Completes (.creditWord r d w) s fun t =>
      (getLink t n (dirOf n r)).discarding = false ∧ rawReg t .cnRtReplay r = rawReg s .cnRtReplay r + 1 ∧
      (rawReg t .cnRtEvent r).getLsbD 1 = true ∧ OnlyRegs s t [.cnRtReplay, .cnRtEvent] ∧
      t = { s with links := t.links, regs := t.regs }) ∧
  (∀ (r : CoreId) (d : Fin 4) (n : Nat) (s : State), neighbour r d = some n → (getLink s r d).down = false →
    linkFails (getLink s r d) = true → s.head.reload ≠ 2 → Completes (.canalLinkDown r d) s fun t =>
      (getLink t r d).down = true ∧ (getLink t n (dirOf n r)).down = true ∧
      (∀ e, e ∈ t.canal ↔ e ∈ s.canal ∧ usesHop s r n e.1 e.2 = false) ∧
      (rawReg t .cnRtEvent r).getLsbD 0 = true ∧ (rawReg t .cnRtEvent n).getLsbD 0 = true ∧ Reported t 0x0012 0 none r d ∧
      MemSame s t ∧ t.cores = s.cores ∧ EnginesSame s t ∧ Elsewhere s t) ∧
  (∀ s : State, Completes .routeRecompute s fun t =>
      (netWhole s = true → (∀ a e, flowBusy s a e = false) → ∀ k, tget t.head.via k = none) ∧
      (netWhole s = false → ∀ a e v, a < 240 → e < 394 → routerWithdrawn s a = false → flowBusy s a e = false →
        viaFor s a (endpointRouter e) = some v → viaOf t a e = v) ∧
      t = { s with head := { s.head with via := t.head.via } })

/-- R278-R280, R283, R285-R287, R458: a controller reads a clean word without effect, counts and remembers a correction, and turns
a word beyond correction into silt with its counter, last address and event; it lands a write, drops every cached copy of its
lines, and snoops a line that the companion owns before either; refreshes are counted. R135, R142, R285, R288: a correction is
written back, or dropped and counted where the word has been written since; a patrol read of a sound word is metered and changes
nothing else, but the end of its pass is counted; a write held back lands whole once its bank is free and counts for its ring
buffer; a byte-masked write reads its row, merges it and lands whole in a later cycle; each meets a scheduled access of its own
row as a same-row event. Model's choices in it: log entries 2, 13, 15, 76. -/
def Obligations.MemoryControllers : Prop :=
  ((∀ (a : Addr) (port part : Nat) (s : State), sideLive s (addrSide s a.toNat) = true → a.toNat < hbmTop →
     portServes s port (a.toNat / 64 * 64) 1 = true → portAdmits s part .rd (a.toNat / 64 * 64) 64 = true →
     firstOwned s (a.toNat / 64) 1 = none →
     Completes (.hbmRead a port part []) s fun t =>
       let g := a.toNat / 64
       let side := (hbmDecode (mode1 s) (g * 64)).1 / 6
       (tget s.upset g = none → t = { s with pow := { s.pow with events := t.pow.events } }) ∧
       (∀ pat e, tget s.upset g = some pat → eccDecode pat = .slow e →
         tget t.backs g = some ⟨e, false⟩ ∧ rawReg t .hbCorr side = rawReg s .hbCorr side + 1 ∧ t.mem = s.mem ∧
         OnlyRegs s t [.hbCorr, .hbLane, .hbEvent]) ∧
       (∀ pat, tget s.upset g = some pat → eccDecode pat = .uncorrectable → s.head.reload ≠ 2 →
         MemStored s t (g * 64) siltBytes ∧ rawReg t .hbUncorr side = rawReg s .hbUncorr side + 1 ∧
         rawReg t .hbLastLo side = BitVec.ofNat 32 (g * 64) ∧ (rawReg t .hbEvent side).getLsbD 0 = true ∧
         Reported t 0x0001 0 none (72 + side) g ∧ OnlyRegs s t [.hbUncorr, .hbLastLo, .hbLastHi, .hbEvent]) ∧
       t.cores = s.cores ∧ EnginesSame s t ∧ Elsewhere s t) ∧
   (∀ (a : Addr) (port part n : Nat) (data : List Byte) (s : State), a.toNat < hbmTop →
     sideLive s (addrSide s a.toNat) = true → a.toNat % 64 = 0 → data.length = 64 * n → n ≠ 0 →
     portServes s port a.toNat n = true → portAdmits s part .wr a.toNat (64 * n) = true →
     Completes (.hbmWrite a port part data) s fun t =>
       (firstOwned s (a.toNat / 64) n = none → MemStored s t a.toNat data ∧
         ∀ f, f < 12 → ∀ l ∈ (getField t f).lines, l.line * 256 + 255 < a.toNat ∨ a.toNat + 64 * n ≤ l.line * 256) ∧
       (∀ x, firstOwned s (a.toNat / 64) n = some x → t.mem = s.mem ∧
         ∃ w, t.bv.snoops = s.bv.snoops ++ [⟨x, s.bv.nextTag, w, none, hgNow s⟩]) ∧
       t.cores = s.cores ∧ t.blocks = s.blocks ∧ t.passes = s.passes ∧ t.furrow = s.furrow ∧ Elsewhere s t ∧
       OnlyRegs s t [.bsPoolInval]) ∧
   (∀ (k : StackId) (s : State), sideLive s (k / 6) = true → Completes (.hbmRefresh k) s fun t =>
       tgetD t.hbm.refreshes k 0 = tgetD s.hbm.refreshes k 0 + 1 ∧ t = { s with hbm := { s.hbm with refreshes := t.hbm.refreshes } })) ∧
  ((∀ (g : Nat) (b : WriteBack) (s : State), tget s.backs g = some b → Completes (.correctionWriteBack g) s fun t =>
       tget t.backs g = none ∧ t.mem = s.mem ∧ t.cores = s.cores ∧
       (b.stale = false → b.pat ≠ [] →
         tgetD t.upset g [] = patXor (tgetD s.upset g []) (b.pat.filter (fun e => e.1 < 36)) ∧ t.regs = s.regs) ∧
       (∀ a, b.stale = true → placeOf (g * 64) = .hbm a →
         rawReg t .hbWbDrop (addrSide s a) = rawReg s .hbWbDrop (addrSide s a) + 1 ∧
         (rawReg t .hbEvent (addrSide s a)).getLsbD 1 = true ∧ OnlyRegs s t [.hbWbDrop, .hbEvent] ∧ t.upset = s.upset) ∧
       t = { s with backs := t.backs, upset := t.upset, regs := t.regs }) ∧
   (∀ (g : Nat) (s : State), tget s.backs g = none → Completes (.correctionWriteBack g) s fun t => t = s) ∧
   (∀ (a : Addr) (x : Nat) (s : State), placeOf a.toNat = .hbm x → sideLive s (addrSide s a.toNat) = true →
     tget s.upset (a.toNat / 64) = none → Completes (.patrolScrub a []) s fun t =>
       let side := addrSide s a.toNat
       (a.toNat / 64 * 64 ≠ sideLast (mode1 s) side → t.regs = s.regs) ∧
       (a.toNat / 64 * 64 = sideLast (mode1 s) side →
         rawReg t .hbPatrol side = rawReg s .hbPatrol side + 1 ∧ (rawReg t .hbEvent side).getLsbD 3 = true ∧
         OnlyRegs s t [.hbPatrol, .hbEvent]) ∧
       t = { s with regs := t.regs, pow := { s.pow with events := t.pow.events } }) ∧
   (∀ (g : Nat) (u : BankUnit) (d : HeldWrite) (s : State), unitOf g = some u →
     (getBanks s u).held.find? (fun d => d.granule == g) = some d → Completes (.deferredWriteLand g) s fun t =>
       let lands : Prop := bankFree s u g = true ∧ furrowBusy s g = false ∧
         (getBanks s u).held.find? (fun x => bankOf s x.granule == bankOf s g) = some d
       (lands → d.bytes.length = 64 → MemStored s t (g * 64) d.bytes ∧ (getBanks t u).held = eraseFirst d (getBanks s u).held ∧
         (getBanks t u).landed = (getBanks s u).landed ++ [(d, granuleBytes s g)] ∧
         (∀ c w b v, u = .spad c → d.buf = some (w, b) → tget (getCore s c).wins w = some v →
           tget (getCore t c).wins w = some { v with landed := tmod v.landed b 0 (· + 64) }) ∧
         t.regs = s.regs ∧ Elsewhere s t) ∧
       (¬ lands → (getBanks s u).touched.any (·.granule == g) = true → t = sameRow s u) ∧
       (¬ lands → (getBanks s u).touched.any (·.granule == g) = false → t = s)) ∧
   (∀ (g c off : Nat) (d : PartialWr) (s : State), placeOf (g * 64) = .spad c off →
     (getCore s c).partials.find? (fun d => d.granule == g) = some d → Completes (.partialWriteLand g) s fun t =>
       let p := (getCore s c).port
       let lands : Prop := bankFree s (.spad c) g = true ∧ furrowBusy s g = false ∧ p.reads.contains g = false
       (d.read = false → bankFree s (.spad c) g = false → t = s) ∧
       (d.read = false → bankFree s (.spad c) g = true → tget s.upset g = none → t.mem = s.mem ∧ OnlyCore s t c ∧ t.regs = s.regs ∧
         EnginesSame s t ∧ Elsewhere s t ∧ getCore t c = { getCore s c with
           port := { p with reads := p.reads ++ [g] },
           partials := if isSilt (granuleBytes s g) then eraseFirst d (getCore s c).partials
             else (getCore s c).partials.map (fun x =>
               if x = d then { d with data := mergeMask d.mask (granuleBytes s g) d.bytes, read := true } else x) }) ∧
       (d.read = true → lands → d.data.length = 64 → MemStored s t (g * 64) d.data ∧ OnlyCore s t c ∧ t.regs = s.regs ∧ EnginesSame s t ∧
         Elsewhere s t ∧ getCore t c = { getCore s c with
           partials := eraseFirst d (getCore s c).partials,
           port := { p with landed := p.landed ++ [(⟨g, d.data, none, false⟩, granuleBytes s g)] } }) ∧
       (d.read = true → ¬ lands → t = (if p.touched.any (·.granule == g) then sameRow s (.spad c) else s))))

/-- R148-R156, R308: a read that the partition may not make ends its sequence; a read of a cached line hits, or misses and asks
the HBM for the line, and opens a merge; a read of a line whose merge stands open joins it; a fill allocates the line first and
answers its merge in one multicast to the targets with a receive credit; a target held without one for 256 cycles is split into a
merge of its own; a deferred change of a range takes effect once its partition runs no task in the field, and the memory of a
released pinned range is undefined. Model's choices in it: log entries 27, 69. -/
def Obligations.PoolServes : Prop :=
  (∀ (c : CoreId) (a : Addr) (part idx x : Nat) (pr : PoolRange) (s : State),
    let f := coreField c
    let line := a.toNat / 256
    let due := (getRegion s (60 + f)).count + 24
    poolLive s f = true → corePart s c = some part → placeOf a.toNat = .hbm x → cacheRange s f part a.toNat = some (idx, pr) →
    (getField s f).merges = [] → taskAllows s c .rd (a.toNat / 256 * 256) 256 = true → Completes (.poolRead c a []) s fun t =>
      let tag := s.fresh % 1024
      (∀ (l : Line) (bs : List Byte), (getField s f).lines.find? (fun l => l.line = line ∧ l.range = idx) = some l →
        lineData l = some (bs, false) →
        (getField t f).merges = [⟨line, [(c : Nat)], false, due, idx, 0, [], false⟩] ∧ (getField t f).lines.head? = some l ∧
        rawReg t .bsPoolHit f = rawReg s .bsPoolHit f + 1 ∧ OnlyRegs s t [.bsPoolHit] ∧ t.canal = s.canal) ∧
      ((getField s f).lines.find? (fun l => l.line = line ∧ l.range = idx) = none →
        (getField t f).merges = [⟨line, [(c : Nat)], true, 0, idx, tag, [], false⟩] ∧ (getField t f).lines = (getField s f).lines ∧
        t.canal = s.canal ++ (List.range 2).map (fun i => (PType.readReq,
          mkPkt .standard (fieldPort f line) (hbmPort (mode1 s) (line * 256 + 128 * i)) part (line * 4 + 2 * i) (1 + 64 * tag))) ∧
        rawReg t .bsPoolMiss f = rawReg s .bsPoolMiss f + 1 ∧ OnlyRegs s t [.bsPoolMiss]) ∧
      (getField t f).asked = (getField s f).asked ++ [((c : Nat), line)] ∧
      OnlyField s t f ∧ t.mem = s.mem ∧ t.cores = s.cores ∧ Elsewhere s t) ∧
  (∀ (c : CoreId) (a : Addr) (part idx x : Nat) (pr : PoolRange) (m : Merge) (s : State),
    let f := coreField c
    poolLive s f = true → corePart s c = some part → placeOf a.toNat = .hbm x → cacheRange s f part a.toNat = some (idx, pr) →
    (getField s f).merges = [m] → m.line = a.toNat / 256 → m.closed = false → m.targets.length < 20 →
    m.targets.contains (c : Nat) = false →
    taskAllows s c .rd (a.toNat / 256 * 256) 256 = true → Completes (.poolRead c a []) s fun t =>
      (getField t f).merges = [{ m with targets := m.targets ++ [(c : Nat)] }] ∧
      rawReg t .bsPoolMerged f = rawReg s .bsPoolMerged f + 1 ∧ OnlyRegs s t [.bsPoolMerged] ∧
      OnlyField s t f ∧ t.mem = s.mem ∧ t.cores = s.cores ∧ t.canal = s.canal ∧ Elsewhere s t) ∧
  (∀ (c : CoreId) (a : Addr) (k : Task) (q : Sequ) (s : State), poolLive s (coreField c) = true →
    taskAllows s c .rd (a.toNat / 256 * 256) 256 = false → TaskRuns s c k q → Completes (.poolRead c a []) s fun t =>
      TaskEnds t c k q .windowViolation (a.toNat / 64) ∧ t.mem = s.mem ∧ t.regs = s.regs ∧ EnginesSame s t ∧ Elsewhere s t) ∧
  (∀ (f : FieldId) (line : Nat) (m : Merge) (r : PoolRange) (s : State), poolLive s f = true → (getField s f).merges = [m] →
    m.line = line → m.fill = true → m.closed = false → m.got = [] → tget (getField s f).ranges m.range = some r → r.mode = 2 →
    s.upset = [] → fieldWhole s f = true → m.targets ≠ [] → (∀ c ∈ m.targets, mayReply s f c line = true) →
    Completes (.cacheFillReturn f line) s fun t =>
      (getField t f).lines.head? = some ⟨line, m.range, mreads s.mem (line * 4 * 64) 256, []⟩ ∧ (getField t f).merges = [] ∧
      (∃ q : Packet, t.canal = s.canal.filter (fun e => !fillPacket f line m.tag e.1 e.2) ++ [(.readReply, q)] ∧
        q.data = mreads s.mem (line * 4 * 64) 256 ∧ q.mcast = 1#2 ∧
        q.fmask = BitVec.ofNat 20 ((m.targets.map (fun c => 2 ^ spadIndex c)).sum)) ∧
      OnlyField s t f ∧ t.mem = s.mem ∧ t.cores = s.cores ∧ t.regs = s.regs ∧ Elsewhere s t) ∧
  (∀ (f : FieldId) (line part idx x : Nat) (c : CoreId) (h : HeldReply) (pr : PoolRange) (l : Line) (bs : List Byte) (s : State),
    poolLive s f = true → coreField c = f → (getField s f).merges = [] →
    (getField s f).held.find? (fun h => h.core == (c : Nat) && h.line == line) = some h → receiveCredit s c = false →
    h.since + 256 ≤ (getRegion s (60 + f)).count → corePart s c = some part → placeOf (line * 256) = .hbm x →
    cacheRange s f part (line * 256) = some (idx, pr) →
    (getField s f).lines.find? (fun l => l.line = line ∧ l.range = idx) = some l → lineData l = some (bs, false) →
    Completes (.mergeTargetSplit f line c) s fun t =>
      (getField t f).merges = [⟨line, [(c : Nat)], false, (getRegion s (60 + f)).count + 24, idx, 0, [], false⟩] ∧
      (getField t f).held = eraseFirst h (getField s f).held ∧
      rawReg t .bsPoolSplit f = rawReg s .bsPoolSplit f + 1 ∧ OnlyRegs s t [.bsPoolSplit, .bsPoolHit] ∧
      OnlyField s t f ∧ t.mem = s.mem ∧ t.cores = s.cores ∧ t.canal = s.canal ∧ Elsewhere s t) ∧
  (∀ (f : FieldId) (i mode lo hi : Nat) (r : PoolRange) (s : State), tget (getField s f).ranges i = some r →
    r.change = some (mode, lo, hi) → partRunsIn s r.part f = false → Completes (.poolRangeChange f i) s fun t =>
      let first := poolBase f + r.first * stripeBytes
      let last := first + r.stripes * stripeBytes
      tget (getField t f).ranges i = (if mode = 0 then none
        else some { r with mode := mode, hbmFirst := lo, hbmLast := hi, change := none }) ∧
      (∀ l ∈ (getField t f).lines, l.range ≠ i) ∧
      (r.mode = 1 → MemOutside s t first last ∧ ∀ a, first ≤ a → a < last → mread t.mem a = Config.freeByte s.fresh a) ∧
      (r.mode ≠ 1 → t.mem = s.mem) ∧ OnlyField s t f ∧ t.cores = s.cores ∧ t.regs = s.regs ∧ Elsewhere s t) ∧
  (∀ (f : FieldId) (i : Nat) (r : PoolRange) (s : State), tget (getField s f).ranges i = some r →
    (r.change = none ∨ partRunsIn s r.part f = true) → Completes (.poolRangeChange f i) s fun t => t = s)

/-- R165, R186, R187, R196, R257, R308: a furrow request for a pool leaves as one ENGINE_REQ, or holds its core while the
injection port has no room; one for the core's own scratchpad that passes its checks opens a request and writes nothing yet; a
refused one ends the task's sequence. R189-R192, R197, R483: the first row of a block lands when no flume pass runs there: as
computed where its verdict passes, as recomputed where only the second does, as silt with a suspect event where neither does; a
request whose last row has landed completes, and one that met an index outside its rows ends its sequence with BAD_COMMAND.
Model's choices in it: log entries 14, 25, 39, 78. -/
def Obligations.FurrowRequests : Prop :=
  ((∀ (i : CoreId → BitVec 256 → Instr) (c : CoreId) (req : BitVec 256) (f o : Nat) (s : State),
     let p := { mkPkt (taskCls s c) c (poolPort c f (fuDesc req).target) (coreStamp s c) 0 1 with len := 1, data := leBytes 32 req.toNat }
     i ∈ [Instr.acc, .axpby, .scatterAdd, .momentum, .adam] → coreRuns s c = true → placeOf (fuDesc req).target = .pool f o →
     Completes (i c req) s fun t =>
       (injectionFull s c (vcOf .engineReq p) = false → t.canal = s.canal ++ [(.engineReq, p)] ∧ t.fresh = s.fresh + 1 ∧
         t.furrow = tput s.furrow s.fresh (FuReq.issued s c req) ∧ ∀ d, getCore t d = getCore s d) ∧
       (injectionFull s c (vcOf .engineReq p) = true → t.canal = s.canal ∧ t.furrow = s.furrow ∧ OnlyCore s t c ∧
         getCore t c = { getCore s c with credit := [⟨.injection, 0⟩] }) ∧
       t.mem = s.mem ∧ t.regs = s.regs ∧ t.fields = s.fields ∧ t.blocks = s.blocks ∧ t.passes = s.passes ∧ ElsewhereSent s t) ∧
   (∀ (i : CoreId → BitVec 256 → Instr) (op : Nat) (c : CoreId) (req : BitVec 256) (o : Nat) (s : State),
     (i, op) ∈ [(Instr.acc, 1), (.axpby, 2), (.scatterAdd, 3)] → coreRuns s c = true → s.upset = [] → s.blocks = [] →
     (getCore s c).port = BankPort.reset → (∀ e ∈ s.furrow, e.2.arrived = true) → fld req 0 4 = op →
     placeOf (fuDesc req).target = .spad c o → fuCheck s c (fuDesc req) = .ok () →
     Completes (i c req) s fun t =>
       (∃ q : FuReq, tget t.furrow s.fresh = some q ∧ q.core = c ∧ q.remote = false ∧ q.arrived = true ∧ q.seed = taskSeed s c) ∧
       t.fresh = s.fresh + 1 ∧ t.mem = s.mem ∧ OnlyPort s t c ∧ t.canal = s.canal ∧ t.fields = s.fields ∧ t.passes = s.passes ∧
       OnlyRegs s t [.bsFuIdxOob, .fdFuIdxOob] ∧ Elsewhere s t ∧ Charged s t) ∧
   (∀ (i : CoreId → BitVec 256 → Instr) (op ns : Nat) (c : CoreId) (req : BitVec 256) (o : Nat) (af : Fmt) (s : State),
     let d := fuDesc req
     let pa := d.alpha.toNat + 2 ^ 32 * (d.beta.toNat % 65536)
     let ma := leNat (mreads s.mem pa 8)
     let va := leNat (mreads s.mem (pa + 8) 8)
     (i, op, ns) ∈ [(Instr.momentum, 4, 5), (.adam, 5, 8)] → coreRuns s c = true → s.upset = [] → s.blocks = [] →
     (getCore s c).port = BankPort.reset → (∀ e ∈ s.furrow, e.2.arrived = true) → fld req 0 4 = op →
     placeOf d.target = .spad c o → fuCheck s c d = .ok () → pa / 2 ^ 44 = 1 →
     leNat ((mreads s.mem pa 64).drop (16 + 4 * ns)) = 0 → (op = 4 → va = 0) →
     fuAligned (if op = 4 then [d.target, d.operand, ma] else [d.target, d.operand, ma, va]) = true → d.af = some af →
     taskAllows s c .rd pa 64 = true → fuTarget s c op ma (elemBytes af (64 * d.count)) = .ok () →
     (op = 5 → fuTarget s c op va (elemBytes af (64 * d.count)) = .ok ()) →
     Completes (i c req) s fun t =>
       (∃ q : FuReq, tget t.furrow s.fresh = some q ∧ q.core = c ∧ q.remote = false ∧ q.arrived = true) ∧ t.fresh = s.fresh + 1 ∧
       t.mem = s.mem ∧ OnlyPort s t c ∧ t.canal = s.canal ∧ t.fields = s.fields ∧ t.passes = s.passes ∧ t.regs = s.regs ∧
       Elsewhere s t ∧ Charged s t) ∧
   (∀ (i : CoreId → BitVec 256 → Instr) (op : Nat) (c : CoreId) (req : BitVec 256) (o : Nat) (st : St) (a : Nat) (k : Task)
     (q : Sequ) (s : State), (i, op) ∈ [(Instr.acc, 1), (.axpby, 2), (.scatterAdd, 3), (.momentum, 4), (.adam, 5)] → coreRuns s c = true → fld req 0 4 = op →
     placeOf (fuDesc req).target = .spad c o → fuCheck s c (fuDesc req) = .error (st, a) → TaskRuns s c k q →
     Completes (i c req) s fun t =>
       TaskEnds t c k q st (a / 64) ∧ t.mem = s.mem ∧ t.canal = s.canal ∧ t.regs = s.regs ∧ Elsewhere s t ∧
       EnginesSame s t)) ∧
  ((∀ (f : FieldId) (blk : Fin 32) (u1 u2 : W32) (r : FuRow) (rest : List FuRow) (q : FuReq) (s : State),
     let b : Nat := f * 32 + blk
     (getBlock s b).rows = r :: rest → (rest ≠ [] ∨ (getBlock s b).ops = []) → flumeOn s b = false → r.silt = false → r.new.length = 64 →
     tget s.furrow r.req = some q →
     Completes (.furrowRowWrite f blk u1 u2) s fun t =>
       ((r.checked = false ∨ fuVerdict r u1 = true) → MemStored s t (r.granule * 64) (fuBytes r u1) ∧
         t.head.suspectDue = s.head.suspectDue) ∧
       (r.checked = true → fuVerdict r u1 = false → fuVerdict r u2 = true → MemStored s t (r.granule * 64) (fuBytes r u2) ∧
         t.head.suspectDue = s.head.suspectDue) ∧
       (r.checked = true → fuVerdict r u1 = false → fuVerdict r u2 = false → MemStored s t (r.granule * 64) siltBytes ∧
         t.head.suspectDue = s.head.suspectDue ++ [256 + b]) ∧
       (getBlock t b).rows = rest ∧ OnlyBlock s t b ∧
       tget t.furrow r.req = some { q with left := q.left - 1 } ∧ t.cores = s.cores ∧ t.passes = s.passes ∧
       t.canal = s.canal ∧ OnlyRegs s t [.bsFuRows, .fdFuRows, .bsFuChkFail, .fdFuChkFail, .bsEngEvent, .fdEngEvent] ∧ Elsewhere s t) ∧
   (∀ (f : FieldId) (blk : Fin 32) (u1 u2 : W32) (s : State),
     (flumeOn s (f * 32 + blk) = true ∨ ((getBlock s (f * 32 + blk)).rows = [] ∧ (getBlock s (f * 32 + blk)).ops = [])) →
     Completes (.furrowRowWrite f blk u1 u2) s fun t => t = s) ∧
   (∀ (r : Nat) (q : FuReq) (s : State), tget s.furrow r = some q → q.left = 0 → q.siltIdx = none → q.oob = false →
     Completes (.furrowRequestComplete r) s fun t =>
       tget t.furrow r = none ∧ (∀ x, x ≠ r → tget t.furrow x = tget s.furrow x) ∧
       getCore t q.core = (if q.remote then getCore s q.core
         else { getCore s q.core with credit := (getCore s q.core).credit.filter (fun h => h.cause ≠ .token) }) ∧
       OnlyCore s t q.core ∧ t = { s with furrow := t.furrow, cores := t.cores }) ∧
   (∀ (r : Nat) (q : FuReq) (k : Task) (x : Sequ) (s : State), tget s.furrow r = some q → q.left = 0 → q.siltIdx = none →
     q.oob = true → TaskRuns s q.core k x → Completes (.furrowRequestComplete r) s fun t =>
       tget t.furrow r = none ∧ TaskEnds t q.core k x .badCommand 0 ∧ t.mem = s.mem ∧ t.regs = s.regs) ∧
   (∀ (r g : Nat) (q : FuReq) (k : Task) (x : Sequ) (s : State), tget s.furrow r = some q → q.left = 0 → q.siltIdx = some g →
     TaskRuns s q.core k x → Completes (.furrowRequestComplete r) s fun t =>
       tget t.furrow r = none ∧ TaskEnds t q.core k x .poisonConsumed g ∧ t.mem = s.mem ∧ t.regs = s.regs) ∧
   (∀ (r : Nat) (q : FuReq) (s : State), tget s.furrow r = some q → q.left ≠ 0 →
     Completes (.furrowRequestComplete r) s fun t => t = s))

/-- R188, R192, R193: the rows that one granule of FP32 elements gets, or the 64 elements of an optimizer step, at an idle block:
ACC adds the source, AXPBY adds the source times alpha to the target times beta, SCATTER_ADD adds alpha times the source row to
the row that its index names and skips an index outside the rows, MOMENTUM and ADAM give the new parameter and moments. Model's
choices in it: log entries 25, 26, 78. -/
def Obligations.FurrowValues : Prop :=
  (∀ (c : CoreId) (req : BitVec 256) (o b : Nat) (ctl : Ctl) (s : State),
    let d := fuDesc req
    let t32 := fun a => decodeElems .fp32 (unpackElems .fp32 16 (mreads s.mem a 64)) []
    coreRuns s c = true → s.upset = [] → s.blocks = [] → s.furrow = [] → flumeOn s b = false → (getCore s c).port = BankPort.reset →
    d.tf = some .fp32 → d.sf = some .fp32 → d.ctl = some ctl → d.count = 1 →
    placeOf d.target = .spad c o → blockOf (d.target / 64) = some b → fuCheck s c d = .ok () →
    (fld req 0 4 = 1 → Completes (.acc c req) s fun t => ∃ r : FuRow, (getBlock t b).rows = [r] ∧ r.req = s.fresh ∧
      r.granule = d.target / 64 ∧
      r.new = packElems .fp32 (((t32 d.operand).zip (t32 d.target)).map (fun p => (fp32Of (fadd p.2 p.1)).toNat))) ∧
    (fld req 0 4 = 2 → Completes (.axpby c req) s fun t => ∃ r : FuRow, (getBlock t b).rows = [r] ∧ r.req = s.fresh ∧
      r.granule = d.target / 64 ∧
      r.new = packElems .fp32 (((t32 d.operand).zip (t32 d.target)).map (fun p =>
        (fp32Of (fadd (fmul (fp32Val d.alpha) p.1) (fmul (fp32Val d.beta) p.2))).toNat)))) ∧
  (∀ (c : CoreId) (req : BitVec 256) (o b : Nat) (ctl : Ctl) (s : State),
    let d := fuDesc req
    let t32 := fun a => decodeElems .fp32 (unpackElems .fp32 16 (mreads s.mem a 64)) []
    let idx := signedOf 32 (leNat (mreads s.mem d.operand 4))
    let row := d.target + idx.toNat * 64
    coreRuns s c = true → s.upset = [] → s.blocks = [] → s.furrow = [] → (getCore s c).port = BankPort.reset → fld req 0 4 = 3 →
    d.tf = some .fp32 → d.sf = some .fp32 → d.ctl = some ctl → d.count = 1 → d.rowLen = 0 → placeOf d.target = .spad c o →
    fuCheck s c d = .ok () → isSilt (mreads s.mem (d.operand / 64 * 64) 64) = false →
    (0 ≤ idx → idx < d.rows → blockOf (row / 64) = some b → flumeOn s b = false → Completes (.scatterAdd c req) s fun t =>
      ∃ r : FuRow, (getBlock t b).rows = [r] ∧ r.req = s.fresh ∧ r.granule = row / 64 ∧
      r.new = packElems .fp32 (((t32 ((d.operand + 4 + 63) / 64 * 64)).zip (t32 row)).map (fun p =>
        (fp32Of (fadd (fmul (fp32Val d.alpha) p.1) (fmul (.num false 1 0) p.2))).toNat))) ∧
    ((idx < 0 ∨ (d.rows : Int) ≤ idx) → Completes (.scatterAdd c req) s fun t =>
      t.blocks = s.blocks ∧ ∃ q : FuReq, tget t.furrow s.fresh = some q ∧ q.oob = true)) ∧
  (∀ (c : CoreId) (req : BitVec 256) (o oa ob b : Nat) (ctl : Ctl) (s : State),
    let d := fuDesc req
    let e64 := fun a => decodeElems .fp32 (unpackElems .fp32 64 (mreads s.mem a 256)) []
    let pa := d.alpha.toNat + 2 ^ 32 * (d.beta.toNat % 65536)
    let ma := leNat (mreads s.mem pa 8)
    let va := leNat (mreads s.mem (pa + 8) 8)
    let sc := fun n => (chunks 4 (mreads s.mem (pa + 16) (4 * n))).map (fun b => fp32Val (w32 (leNat b)))
    coreRuns s c = true → s.upset = [] → s.blocks = [] → s.furrow = [] → flumeOn s b = false → (getCore s c).port = BankPort.reset →
    d.tf = some .fp32 → d.sf = some .fp32 → d.af = some .fp32 →
    d.ctl = some ctl → d.count = 1 → placeOf d.target = .spad c o → placeOf ma = .spad c oa →
    blockOf (d.target / 64) = some b → fuCheck s c d = .ok () → pa / 2 ^ 44 = 1 → taskAllows s c .rd pa 64 = true →
    fuTarget s c d.op ma 256 = .ok () →
    (fld req 0 4 = 4 → leNat ((mreads s.mem pa 64).drop 36) = 0 → va = 0 → fuAligned [d.target, d.operand, ma] = true →
      Completes (.momentum c req) s fun t =>
        let rs := ((e64 d.target).zip ((e64 d.operand).zip (e64 ma))).map (fun x => momentumElem (sc 5) d.nesterov x.1 x.2.1 x.2.2)
        ((getBlock t b).rows.take 4).flatMap (·.newVals) = rs.map (fun x => fp32Of x.1) ∧
        ((getBlock t b).rows.drop 4).flatMap (·.newVals) = rs.map (fun x => fp32Of x.2)) ∧
    (fld req 0 4 = 5 → leNat ((mreads s.mem pa 64).drop 48) = 0 → placeOf va = .spad c ob → fuTarget s c 5 va 256 = .ok () →
      fuAligned [d.target, d.operand, ma, va] = true →
      Completes (.adam c req) s fun t =>
        let rs := ((e64 d.target).zip ((e64 d.operand).zip ((e64 ma).zip (e64 va)))).map
          (fun x => adamElem (sc 8) x.1 x.2.1 x.2.2.1 x.2.2.2)
        ((getBlock t b).rows.take 4).flatMap (·.newVals) = rs.map (fun x => fp32Of x.1) ∧
        (((getBlock t b).rows.drop 4).take 4).flatMap (·.newVals) = rs.map (fun x => fp32Of x.2.1) ∧
        ((getBlock t b).rows.drop 8).flatMap (·.newVals) = rs.map (fun x => fp32Of x.2.2)))

/-- R186-R188, R196: a WRITE_ADD that its window admits opens a remote request of ACC and is acknowledged; an ENGINE_REQ at a pool
queues a flume pass, behind the senior ones, or holds its core at the full queue; or it opens a furrow request. Model's choices in
it: log entries 18, 78, 81. -/
def Obligations.RemoteAddsAndEngineRequests : Prop :=
  (∀ (p : Packet) (v : Window) (tf sf : Fmt) (ctl : Ctl) (m n : Nat) (s : State),
    let c : Nat := p.dst
    let gran := (p.addr.toNat * 64 - spadBase c) / 64
    let a := p.aux.toNat
    let was := fun (d : Nat) => if d = p.src ∧ p.src < 240
      then { getCore s d with credit := (getCore s d).credit.filter (fun h => h.cause ≠ .engine) } else getCore s d
    badPacket .writeAdd p = false → mayArrive s .writeAdd p = true → p.mcast = 0#2 → c < 240 → p.wkind = 1#2 →
    engineFull s p.addr.toNat = false → sinkActive s c = false → s.upset = [] → s.blocks = [] → (getCore s c).port = BankPort.reset →
    fmtOfCode (a / 16 % 16) = some tf → fmtOfCode (a % 16) = some sf →
    ctlOf (BitVec.ofNat 8 (a / 256)) = some ctl → addShape tf sf p.data.length = some (m, n) →
    fuFormats { fuDesc 0#256 with op := 1, tf := some tf, sf := some sf, auxCode := 0 } = true →
    fuPlace s c (spadBase c + gran * 64) (64 * n) = .ok () → stampOk s c p.part = true → gran + n ≤ spadBytes / 64 →
    tget (getCore s c).wins p.index = some v → v.isOpen = true → v.gen = p.gen.toNat → v.add = true →
    srcAdmits s c v.kind v.srcId (srcOf p) = true → v.base ≤ gran → gran + n ≤ v.base + v.size →
    Completes (.writeAdd p) s fun t =>
      (∃ q : FuReq, tget t.furrow s.fresh = some q ∧ q.core = c ∧ q.remote = true ∧ q.data = p.data) ∧ t.fresh = s.fresh + 1 ∧
      getCore t c = { was c with port := (getCore t c).port } ∧
      (∀ d, d ≠ c → getCore t d = was d) ∧ Carried s t .writeAdd p [ackFor c p ((p.data.length + 63) / 64)] ∧
      t.mem = s.mem ∧ t.fields = s.fields ∧ t.passes = s.passes ∧ Passed s t []) ∧
  (∀ (p : Packet) (v : Window) (s : State), badPacket .writeAdd p = false → mayArrive s .writeAdd p = true → p.mcast = 0#2 →
    p.dst < 240 → p.wkind = 1#2 →
    engineFull s p.addr.toNat = false → sinkActive s p.dst = false → tget (getCore s p.dst).wins p.index = some v → v.add = false →
    Completes (.writeAdd p) s fun t =>
      Carried s t .writeAdd p [refusal p.dst p .windowViolation] ∧ t.mem = s.mem ∧ t.furrow = s.furrow ∧ t.blocks = s.blocks ∧
      rawReg t .bsSpWinRefused p.dst = rawReg s .bsSpWinRefused p.dst + 1 ∧ Passed s t [.bsSpWinRefused, .bsSpEvent]) ∧
  (∀ (p : Packet) (s : State), badPacket .writeAdd p = false → mayArrive s .writeAdd p = true → p.mcast = 0#2 → p.src < 240 →
    engineFull s p.addr.toNat = true → Completes (.writeAdd p) s fun t =>
      (getCore t p.src).credit.any (·.cause = .engine) = true ∧ OnlyCore s t p.src ∧ OnlyRegs s t [.bsEngEvent, .fdEngEvent] ∧
      t = { s with cores := t.cores, regs := t.regs }) ∧
  (∀ (p : Packet) (s : State),
    let f := portField p.dst
    let d := BitVec.ofNat 128 (leNat (p.data.take 16))
    let fl := getField s f
    badPacket .engineReq p = false → mayArrive s .engineReq p = true → isPoolPort p.dst = true → poolLive s f = true → p.src < 240 →
    p.aux.toNat % 2 = 0 →
    Completes (.engineReq p) s fun t =>
      (flumeOk s p.src d = true →
        tget t.passes s.fresh = some ⟨p.src, some f, d, p.cls == .senior, .queued, [], [], 0, [], 0, 0, 0⟩ ∧
        t.fresh = s.fresh + 1 ∧
        (fl.queue.length < 8 → getField t f = { fl with queue := putSenior t fl.queue s.fresh } ∧ t.cores = s.cores) ∧
        (8 ≤ fl.queue.length → getField t f = { fl with outside := putSenior t fl.outside s.fresh } ∧ OnlyCore s t p.src ∧
          (getCore t p.src).credit.any (·.cause = .passQueue) = true) ∧
        Carried s t .engineReq p [] ∧ OnlyField s t f) ∧
      (flumeOk s p.src d = false → Carried s t .engineReq p [refusal p.dst p .badCommand] ∧ t.passes = s.passes ∧
        t.fields = s.fields ∧ OnlyCore s t p.src ∧
        getCore t p.src = { getCore s p.src with vectors := (getCore s p.src).vectors.filter (fun v => v.1 ≠ d) }) ∧
      t.mem = s.mem ∧ t.blocks = s.blocks ∧ t.furrow = s.furrow ∧ Passed s t []) ∧
  (∀ (p : Packet) (s : State),
    let r := BitVec.ofNat 256 (leNat (p.data.take 32))
    let e := s.furrow.find? (fun e => e.2.core == p.src && e.2.req == r && !e.2.arrived)
    badPacket .engineReq p = false → mayArrive s .engineReq p = true → isPoolPort p.dst = true → poolLive s (portField p.dst) = true →
    p.src < 240 →
    p.aux.toNat % 2 = 1 → engineFull s ((fuDesc r).target / 64) = false → (fld r 0 4 = 1 ∨ fld r 0 4 = 2) → s.upset = [] →
    s.blocks = [] → (∀ u, unitOf ((fuDesc r).target / 64) = some u → getBanks s u = BankPort.reset) →
    fuCheck s p.src (fuDesc r) = .ok () → Completes (.engineReq p) s fun t =>
      (e = none → (∃ q : FuReq, tget t.furrow s.fresh = some q ∧ q.core = p.src ∧ q.remote = false ∧ q.arrived = true) ∧
        t.fresh = s.fresh + 1) ∧
      (∀ x, e = some x → tget s.furrow x.1 = some x.2 → x.2.remote = false →
        ∃ q : FuReq, tget t.furrow x.1 = some q ∧ q.core = p.src ∧ q.seed = x.2.seed ∧ q.arrived = true) ∧
      Carried s t .engineReq p [] ∧ t.mem = s.mem ∧ t.passes = s.passes ∧ Passed s t [] ∧
      ∀ x, getField t x = { getField s x with port := (getField t x).port })

/-- R171, R172, R176-R178, R181: a core's pass on its own engines starts to fill, one for its field's pool leaves as ENGINE_REQ
with its input vectors behind it, a malformed one ends its sequence; the pool starts the first queued pass once its buffers are
idle; a filled pass holds for every vector and output the dot product of the weights that its rows hold, accumulated in groups of
32. R182-R184, R197: with checks off the verdict writes the results: into the core's own scratchpad, or as WRITE packets of a pool
pass; with them on a pass is at its verdict's end or, once, at its repeat; the completion counts the pass and, for a pool pass,
sends the write token of the bytes sent to its result area. Model's choices in it: log entries 10, 31. -/
def Obligations.FlumeRuns : Prop :=
  ((∀ (c : CoreId) (d : BitVec 128) (m : Pin) (xf : Fmt) (s : State),
     let i := passInput d m.k xf
     let p := { mkPkt (taskCls s c) c (240 + coreCluster c) (coreStamp s c) 0 0 with len := 1, data := leBytes 16 d.toNat }
     coreRuns s c = true → flumeOk s c d = true → tget s.head.pins (fld d 0 16) = some m → fmtOfCode (fld d 26 4) = some xf →
     (getCore s c).port = BankPort.reset → s.upset = [] →
     Completes (.flumePassIssue c d) s fun t =>
       (m.field = none → BanksApart s (((granOffs i.1 i.2).take 8).map (fun o => (spadBase c + o) / 64)) →
         OnlyPort s t c ∧ t = { s with
           cores := t.cores, fresh := s.fresh + 1,
           passes := tput s.passes s.fresh ⟨c, none, d, taskCls s c == .senior, .filling, [], [], 0, [], 0, 0, 0⟩ }) ∧
       (∀ f, m.field = some f → injectionFull s c (vcOf .engineReq p) = false →
         t.canal = s.canal ++ [(.engineReq, p)] ∧ OnlyCore s t c ∧ t.passes = s.passes ∧
         getCore t c = { getCore s c with vectors := (getCore s c).vectors ++ [(d, mreads s.mem (spadBase c + i.1) i.2)] } ∧
         OnlyRegs s t [.bsSpEvent] ∧ ElsewhereSent s t) ∧
       t.mem = s.mem ∧ t.blocks = s.blocks ∧ t.furrow = s.furrow) ∧
   (∀ (c : CoreId) (d : BitVec 128) (k : Task) (q : Sequ) (s : State), coreRuns s c = true → flumeOk s c d = false →
     tget s.head.pins (fld d 0 16) = none → TaskRuns s c k q → Completes (.flumePassIssue c d) s fun t =>
       TaskEnds t c k q .badCommand 0 ∧ t.mem = s.mem ∧ t.passes = s.passes ∧ t.canal = s.canal ∧ t.regs = s.regs ∧ Elsewhere s t) ∧
   (∀ (f : FieldId) (id : Nat) (rest : List Nat) (p : Pass) (s : State), poolLive s f = true → (getField s f).queue = id :: rest →
     (getField s f).filling = none → rest.length < 8 →
     (∀ i q, (getField s f).running = some i → tget s.passes i = some q → q.until_ ≤ (getRegion s (60 + f)).count) →
     tget s.passes id = some p → Completes (.flumePassStart f) s fun t =>
       (getField t f).filling = some id ∧ tget t.passes id = some { p with st := .filling } ∧
       ((getField s f).outside = [] → (getField t f).queue = rest ∧ t.cores = s.cores) ∧
       (∀ x os, (getField s f).outside = x :: os → (getField t f).queue = putSenior t rest x ∧ (getField t f).outside = os) ∧
       OnlyField s t f ∧ t = { s with fields := t.fields, passes := t.passes, cores := t.cores }) ∧
   (∀ (id : Nat) (p : Pass) (m : Pin) (xf wf : Fmt) (buf : List Byte) (s : State),
     let g := fld p.desc 16 8
     let sg := pinSegment m g
     let nb := m.blocks.length
     let int := fmtIsInt wf
     let inp := passInput p.desc m.k xf
     passRuns s id = true → tget s.passes id = some p → p.st = .filling → tget s.head.pins (fld p.desc 0 16) = some m →
     fmtOfCode (fld p.desc 26 4) = some xf → fmtOfCode m.fmt = some wf → s.upset = [] → blocksIdle s id p m = true →
     (p.field = none → buf = mreads s.mem (spadBase p.core + inp.1) inp.2 ∧ (getCore s p.core).port = BankPort.reset ∧
       BanksApart s (((passCycles m wf g).headD []).map Prod.fst)) →
     (p.field ≠ none → (getCore s p.core).vectors.find? (fun v => v.1 == p.desc) = some (p.desc, buf)) →
     Completes (.flumeInputFilled id) s fun t => ∃ p', tget t.passes id = some p' ∧ p'.st = .running ∧
       (∀ (i b j o v : Nat) (x : List FV × Bool), m.blocks[i]? = some b → (pinShare sg.1 sg.2 nb i)[j]? = some o →
         (bufferVecs xf m.k (passVecs p.desc) buf)[v]? = some x →
         let pl := outPlace wf m.k (segStream wf m.k sg.2 nb) j
         let rows := (List.range (pinRows wf m.k)).map (fun r => mreads s.mem (rowAddr m wf g b pl.1 (pl.2 + r) / 64 * 64) 64)
         tget p'.res (v * sg.2 + (o - sg.1)) = some (accWord int (dotAcc int (.num false 0 0) (x.1.zip (rowsWeights wf m.k rows).1)))) ∧
       (∀ b ∈ m.blocks, (getBlock t b).input = buf) ∧
       t.mem = s.mem ∧ t.furrow = s.furrow ∧ t.canal = s.canal ∧
       OnlyRegs s t [.bsSpEvent, .bsFlRows, .fdFlRows] ∧ Elsewhere s t)) ∧
  ((∀ (id : Nat) (p : Pass) (m : Pin) (xf wf : Fmt) (s : State),
     let sg := pinSegment m (fld p.desc 16 8)
     let off := fld p.desc 84 20 * 64
     let bs := flumeBytes p.res p.siltOut 0 sg.2
     passRuns s id = true → tget s.passes id = some p → p.st = .running → p.attempt = 0 →
     tget s.head.pins (fld p.desc 0 16) = some m →
     fmtOfCode (fld p.desc 26 4) = some xf → fmtOfCode m.fmt = some wf → coreChecks s p.core = false →
     (p.field = none → (getCore s p.core).port = BankPort.reset ∧
       BanksApart s (((granOffs off bs.length).take 32).map (fun o => (spadBase p.core + o) / 64))) →
     fld p.desc 24 2 = 0 → Completes (.flumeVerdict id []) s fun t =>
       (∃ p', tget t.passes id = some p' ∧ p'.st = .verdictDue ∧ p'.res = p.res) ∧
       (p.field = none → MemStored s t (spadBase p.core + off) bs ∧ t.canal = s.canal ∧ t.fields = s.fields ∧ OnlyPort s t p.core) ∧
       (∀ f, p.field = some f → t.mem = s.mem ∧ (getField t f).running = none ∧ OnlyField s t f ∧ t.cores = s.cores ∧
         t.canal = s.canal ++ (dataPackets { mkPkt (if p.senior then .senior else taskCls s p.core) (240 + coreCluster p.core)
           (fld p.desc 52 8) m.part 0 p.core with index := fld p.desc 64 8, gen := BitVec.ofNat 8 (fld p.desc 72 8), wkind := 1#2 }
           (spadBase (fld p.desc 52 8) / 64 + fld p.desc 84 20) bs).map (fun q => (PType.write, q))) ∧
       t.blocks = s.blocks ∧ t.furrow = s.furrow ∧ Elsewhere s t) ∧
   (∀ (id : Nat) (p : Pass) (m : Pin) (xf wf : Fmt) (upset : List (Nat × Nat × W32)) (s : State), passRuns s id = true →
     tget s.passes id = some p → p.st = .running → tget s.head.pins (fld p.desc 0 16) = some m →
     fmtOfCode (fld p.desc 26 4) = some xf → fmtOfCode m.fmt = some wf → Completes (.flumeVerdict id upset) s fun t =>
       ∃ p', tget t.passes id = some p' ∧ (p'.st = .verdictDue ∨ (p.attempt = 0 ∧ p'.attempt = 1 ∧ p'.st = .running)) ∧
       t.furrow = s.furrow ∧ t.blocks = s.blocks) ∧
   (∀ (id : Nat) (p : Pass) (m : Pin) (s : State), tget s.passes id = some p → p.st = .verdictDue →
     tget s.head.pins (fld p.desc 0 16) = some m → m.unpin = false → p.siltOut = [] → Completes (.flumePassComplete id) s fun t =>
       let blk := match p.field with
         | some f => f * 32 + 20
         | none => coreField p.core * 32 + spadIndex p.core
       rawReg t (engReg blk .bsFlPasses .fdFlPasses).1 (engReg blk .bsFlPasses .fdFlPasses).2 =
         rawReg s (engReg blk .bsFlPasses .fdFlPasses).1 (engReg blk .bsFlPasses .fdFlPasses).2 + 1 ∧
       (p.field = none → tget t.passes id = none ∧ OnlyCore s t p.core ∧ t.canal = s.canal ∧
         getCore t p.core = { getCore s p.core with credit := (getCore s p.core).credit.filter (fun h => h.cause ≠ .token) }) ∧
       (∀ f, p.field = some f → t.cores = s.cores ∧
         tget t.passes id = (if p.sent ≤ p.acked then none else some { p with st := .done }) ∧
         t.canal = s.canal ++ [(.writeToken,
         { mkPkt .standard (240 + coreCluster p.core) (fld p.desc 52 8) m.part p.sent (fld p.desc 80 3) with
           index := fld p.desc 64 8, gen := BitVec.ofNat 8 (fld p.desc 72 8) })]) ∧
       t.mem = s.mem ∧ OnlyRegs s t [.bsFlPasses, .fdFlPasses] ∧ ElsewhereSent s t ∧
       t = { s with passes := t.passes, regs := t.regs, cores := t.cores, canal := t.canal, outs := t.outs, clk := t.clk }) ∧
   (∀ (id : Nat) (p : Pass) (s : State), tget s.passes id = some p → p.st ≠ .verdictDue →
     Completes (.flumePassComplete id) s fun t => t = s))

/-- R107, R143, R166, R308: a transfer of one row within the core's own scratchpad lands its bytes: copied, zero, or converted;
one into another core's window leaves as WRITE packets and stays open until they are acknowledged, or holds its core while it
lacks a credit; a malformed or denied one ends its sequence. Model's choices in it: log entries 21, 80. -/
def Obligations.TransfersRun : Prop :=
  (∀ (i : CoreId → DmaDesc → Instr) (op : Nat) (c : CoreId) (d : DmaDesc) (o n : Nat) (bs : List Byte) (s : State),
    (i, op) ∈ [(Instr.dmaCopy, 1), (.dmaConvertingCopy, 2), (.dmaZeroFill, 3)] → d.op.toNat % 16 = op → coreRuns s c = true →
    dmaOk d = true → (dmaFields d).kind = 0 → d.rows = 1 → dmaDst s c d % 64 = 0 → dmaRowBytes d = 64 * n → n ≤ 32 → dmaRowBlocks d = 0 →
    dmaDenied s c d = none → dmaGone s c d = false → dmaSunk s c d = none → dmaNeeds s c d = ([], []) → s.upset = [] →
    (getCore s c).dmaWait = [] →
    (∀ x ∈ dmaReads s c d, x.2 ≠ 0 → ownGranule c (x.1 / 64) = true) →
    placeOf (dmaDst s c d) = .spad c o → (getCore s c).port = BankPort.reset → (∀ g, furrowBusy s g = false) →
    BanksApart s ((List.range n).map (fun j => (spadBase c + o) / 64 + j)) → o + 64 * n ≤ spadBytes →
    bs = (dmaRow s c d (taskSeed s c) 0).bytes → bs.length = 64 * n →
    Completes (i c d) s fun t =>
      MemStored s t (spadBase c + o) bs ∧ OnlyPort s t c ∧ OnlyRegs s t [.bsSpEvent] ∧ t.canal = s.canal ∧ EnginesSame s t ∧
      Elsewhere s t) ∧
  (∀ (c : CoreId) (d : DmaDesc) (s : State), s.upset = [] →
    (d.op.toNat % 16 = 1 → (∀ a, placeOf (dmaSrc s c d 0) ≠ .hbm a) →
      (dmaRow s c d (taskSeed s c) 0).bytes = mreads s.mem (dmaSrc s c d 0) (64 * d.count)) ∧
    (d.op.toNat % 16 = 3 → (dmaRow s c d (taskSeed s c) 0).bytes = List.replicate (64 * d.count) 0)) ∧
  (∀ (c : CoreId) (d : DmaDesc) (s : State), d.op.toNat % 16 = 1 → coreRuns s c = true → dmaOk d = true → (dmaFields d).kind = 1 →
    (dmaFields d).isAdd = false → d.rows = 1 → dmaDenied s c d = none → dmaGone s c d = false → dmaSunk s c d = none →
    dmaNeeds s c d = ([], []) → (∀ a, placeOf (dmaSrc s c d 0) ≠ .hbm a) → (getCore s c).dmaWait = [] → NoneTouched s →
    s.upset = [] → Completes (.dmaCopy c d) s fun t =>
      let ps := dmaRemote s c d [(dmaDst s c d, mreads s.mem (dmaSrc s c d 0) (64 * d.count))]
      (dmaCredit s c d = true → t.canal = s.canal ++ ps ∧
        ∃ open_, getCore t c = { takeRing (getCore s c) (dmaRings s d) with
          dma := (getCore s c).dma ++ [⟨open_, dmaTokens s c d (64 * d.count)⟩] }) ∧
      (dmaCredit s c d = false → t.canal = s.canal ∧
        getCore t c = { getCore s c with dmaWait := [(d, [])], credit := [⟨.dma, 0⟩] }) ∧
      t.mem = s.mem ∧ OnlyCore s t c ∧ OnlyRegs s t [.bsSpEvent] ∧ EnginesSame s t ∧ ElsewhereSent s t) ∧
  (∀ (i : CoreId → DmaDesc → Instr) (op : Nat) (c : CoreId) (d : DmaDesc) (k : Task) (q : Sequ) (s : State),
    (i, op) ∈ [(Instr.dmaCopy, 1), (.dmaConvertingCopy, 2), (.dmaZeroFill, 3)] → coreRuns s c = true → TaskRuns s c k q →
    Completes (i c d) s fun t =>
      ((d.op.toNat % 16 ≠ op ∨ dmaOk d = false) →
        TaskEnds t c k q .badCommand 0 ∧ t.mem = s.mem ∧ t.canal = s.canal ∧ t.regs = s.regs ∧ EnginesSame s t) ∧
      (∀ a, d.op.toNat % 16 = op → dmaOk d = true → (dmaFields d).kind = 1 → dmaDenied s c d = some a →
        TaskEnds t c k q .windowViolation (a / 64) ∧ t.mem = s.mem ∧ t.canal = s.canal ∧ t.regs = s.regs ∧ EnginesSame s t))

/-- R109-R111, R143, R161, R257, R260: a token leaves for its target, or holds its core while the injection port has no room; a
write token gives up its buffer's credit, a free token ends the count of bytes landed in its buffer; a wait whose token has come
takes it and ends the core's hold once the checks of the boundary before it are in, one whose token has not holds the core; a
fence waits for earlier writes. R108, R111, R112, R304, R315: a step boundary, where no tile is open and no token owed, sends one
CHECK to every other stage and ends the task; the last stage's boundary ends the step, and a sequence with no step left completes
with OK; the rest of an ECC hold is counted; a credit hold beyond the wait limit is reported. Model's choices in it: log entries
3, 30, 35, 73. -/
def Obligations.CoreSchedule : Prop :=
  ((∀ (c : CoreId) (op : TokenOp) (s : State), coreRuns s c = true → injectionFull s c 0 = false → Completes (.tokenSend c op) s fun u =>
       (∀ t i b n, op = .write t i b n →
         u.canal = s.canal ++ [(.writeToken, { mkPkt (taskCls s c) c t (coreStamp s c) n b with index := i, wkind := 1#2 })] ∧
         getCore u c = { getCore s c with owned := (getCore s c).owned.filter (· ≠ (t * 256 + i) * 8 + b) }) ∧
       (∀ t i b, op = .free t i b →
         u.canal = s.canal ++ [(.freeToken, { mkPkt (taskCls s c) c t (coreStamp s c) 0 b with index := i, wkind := 1#2 })] ∧
         (∀ w, tget (getCore s c).wins i = some w →
           getCore u c = { getCore s c with wins := tput (getCore s c).wins i { w with landed := tdel w.landed b } }) ∧
         (tget (getCore s c).wins i = none → getCore u c = getCore s c)) ∧
       (∀ t i n, op = .grant t i n →
         u.canal = s.canal ++ [(.freeToken, { mkPkt (taskCls s c) c t (coreStamp s c) 0 n with index := i, wkind := 2#2 })] ∧
         getCore u c = getCore s c) ∧
       OnlyCore s u c ∧ ElsewhereSent s u ∧ u = { s with cores := u.cores, canal := u.canal, outs := u.outs, clk := u.clk }) ∧
   (∀ (c : CoreId) (op : TokenOp) (s : State), coreRuns s c = true → injectionFull s c 0 = true → Completes (.tokenSend c op) s fun u =>
       getCore u c = { getCore s c with credit := [⟨.injection, 0⟩] } ∧ OnlyCore s u c ∧ u = { s with cores := u.cores }) ∧
   (∀ (c : CoreId) (w : WaitFor) (k : Core) (s : State), waitReady s c = true → waitTake s c w = some k →
     (∀ n, (getCore s c).gate = some n → checksIn s c n = true) →
     Completes (.waitPoint c w) s fun u =>
       getCore u c = { k with gate := none, credit := k.credit.filter (fun h => h.cause ≠ .token) } ∧ OnlyCore s u c ∧
       u = { s with cores := u.cores }) ∧
   (∀ (c : CoreId) (w : WaitFor) (s : State), waitReady s c = true →
     (waitTake s c w = none ∨ ∃ n, (getCore s c).gate = some n ∧ checksIn s c n = false) → Completes (.waitPoint c w) s fun u =>
       (getCore u c).credit.any (·.cause = .token) = true ∧
       getCore u c = { getCore s c with credit := (getCore u c).credit } ∧ OnlyCore s u c ∧ u = { s with cores := u.cores }) ∧
   (∀ (c : CoreId) (i b n : Nat) (v : Window) (s : State), tget (getCore s c).wtok (i * 8 + b) = some n →
     tget (getCore s c).wins i = some v →
     waitTake s c (.writeToken i b) =
       (if tgetD v.landed b 0 = n then some { getCore s c with wtok := tdel (getCore s c).wtok (i * 8 + b) } else none)) ∧
   (∀ (c : CoreId) (a n : Nat) (s : State), waitReady s c = true → Completes (.rowFence c a n) s fun u =>
       (getCore u c).credit.any (·.cause = .token) = !fenceClear s c a n ∧
       getCore u c = { getCore s c with credit := (getCore u c).credit } ∧ OnlyCore s u c ∧ u = { s with cores := u.cores })) ∧
  ((∀ (c : CoreId) (k : Task) (key : Nat) (p : Pipe) (s : State), coreRuns s c = true → boundaryClear (getCore s c) = true →
     (getCore s c).task = some k → taskPipe s c = some (key, p) → Completes (.stepBoundaryCheck c) s fun t =>
       let n := (getCore s c).boundary
       t.canal = s.canal ++ (p.cores.filter (· ≠ (c : Nat))).map (fun d =>
         (PType.check, mkPkt (taskCls s c) c d (coreStamp s c) 0 (k.pipe % 64 + 64 * (n % 1024)))) ∧
       (getCore t c).task = none ∧ (getCore t c).boundary = (n + 1) % 1024 ∧ (getCore t c).gate = some n ∧
       (getCore t c).samplePos = Config.sampleStart s.fresh ∧
       t.fresh = s.fresh + 1 ∧ t.mem = s.mem ∧ t.regs = s.regs ∧ EnginesSame s t ∧ ElsewhereSent s t) ∧
   (∀ (c : CoreId) (s : State), coreRuns s c = true → boundaryClear (getCore s c) = false →
     Completes (.stepBoundaryCheck c) s fun t => t = s) ∧
   (∀ (c : CoreId) (k : Task) (q : Sequ) (p : Pipe) (s : State), coreRuns s c = true → boundaryClear (getCore s c) = true →
     TaskRuns s c k q → q.pipe = pipeKey k.prog k.pipe →
     getPipe s q.pipe = some p → p.cores = [(c : Nat)] → p.queues.any (·.contains k.seq) = false →
     Completes (.stepBoundaryCheck c) s fun t =>
       (q.steps ≤ q.done + 1 → getSeq t k.seq = none ∧
         ∃ e, Posted t ⟨q.ctx, q.tag, St.ok.code, false, BitVec.ofNat 64 (q.done + 1), 0, 0, e, q.irq⟩) ∧
       (q.done + 1 < q.steps → q.cancel = false → clsShed s q.part q.cls = false →
         (∃ h, getSeq t k.seq = some { q with done := q.done + 1, held := h } ∧ (q.cls ≠ 0 → h = q.held)) ∧
         t.head.cplDue = s.head.cplDue)) ∧
   (∀ (c : CoreId) (s : State), Completes (.eccHoldEnd c) s fun t =>
       (getCore s c).ecc ≠ 0 → getCore t c = { getCore s c with ecc := 0 } ∧ OnlyCore s t c ∧
         rawReg t .coSchHoldEcc c = rawReg s .coSchHoldEcc c + BitVec.ofNat 32 (getCore s c).ecc ∧ OnlyRegs s t [.coSchHoldEcc] ∧
         t = { s with cores := t.cores, regs := t.regs }) ∧
   (∀ (c : CoreId) (s : State), (getCore s c).ecc = 0 → Completes (.eccHoldEnd c) s fun t => t = s) ∧
   (∀ (c : CoreId) (s : State),
     let longest := ((getCore s c).credit.map (·.cycles)).foldl max 0
     (rawReg s .coSchWaitLimit c).toNat < longest → s.head.reload ≠ 2 → Completes (.stallReport c) s fun t =>
       (rawReg t .coSchEvent c).getLsbD 0 = true ∧ OnlyRegs s t [.coSchEvent] ∧
       Reported t 0x001C 0 (corePart s c) c (longest % 2 ^ 32) ∧ t.mem = s.mem ∧ EnginesSame s t ∧ Elsewhere s t ∧
       ((getCore s c).task = none → t.cores = s.cores)) ∧
   (∀ (c : CoreId) (s : State),
     (((getCore s c).credit.map (·.cycles)).foldl max 0 ≤ (rawReg s .coSchWaitLimit c).toNat ∨ s.head.reload = 2) →
     Completes (.stallReport c) s fun t => t = s))

/-- R138, R208, R210: a transposed read gives element j of each of 64 granules in row j; a spill writes the 8 KiB of a slot, silt
where it is flagged, and a fill gives the slot what stands in the scratchpad. R225-R229, R292-R294, R308: a commit check over
clean ranges of the own scratchpad changes nothing but what its reads take and are charged, one over a silted granule ends the
sequence there; an intake pass writes the checksum pair of its tile, a refresh the checksum weights and block fields of its tile,
and either writes silt for silted data; a refresh of a tile that no partition may read ends the sequence. Model's choices in it:
log entries 22, 29, 30. -/
def Obligations.CoreCopies : Prop :=
  ((∀ (c : CoreId) (off pitch : Nat) (f : Fmt) (s : State),
     let offs := (List.range 64).map (fun i => off + i * pitch)
     let gran := fun (o : Nat) => mreads s.mem (spadBase c + o / 64 * 64) 64
     let w := fmtWidth f / 8
     coreRuns s c = true → transposable f = true → (∀ o ∈ offs, o < spadBytes) → s.upset = [] → (getCore s c).port.landed = [] →
     (schedTouch s c false (offs.map (fun o => o / 64 * 64))).2 = true → Completes (.transposedRead c off pitch f) s fun t =>
       tget (getCore t c).tread off = some ((List.range (64 / w)).map (fun j =>
         if offs.any (fun o => isSilt (gran o)) then (List.replicate w siltBytes).flatten
         else offs.flatMap (fun o => ((gran o).drop (j * w)).take w))) ∧
       getCore t c = { getCore s c with tread := (getCore t c).tread, port := (getCore t c).port } ∧ OnlyCore s t c ∧
       t.mem = s.mem ∧ OnlyRegs s t [.bsSpEvent] ∧ EnginesSame s t ∧ Elsewhere s t) ∧
   (∀ (c : CoreId) (off pitch : Nat) (f : Fmt) (k : Task) (q : Sequ) (s : State), coreRuns s c = true → TaskRuns s c k q →
     (transposable f = false ∨ ∃ i, i < 64 ∧ spadBytes ≤ off + i * pitch) → Completes (.transposedRead c off pitch f) s fun t =>
       TaskEnds t c k q .badCommand 0 ∧ t.mem = s.mem ∧ t.regs = s.regs) ∧
   (∀ (c : CoreId) (slot : Fin 128) (off : Nat) (s : State), coreRuns s c = true → slotRange off = true →
     (getCore s c).port.landed = [] → (schedTouch s c true (granOffs off 8192)).2 = true → Completes (.maskSlotSpill c slot off) s fun t =>
       MemStored s t (spadBase c + off) ((List.range 128).flatMap (slotGranule (getCore s c) slot)) ∧
       rawReg t .coMskSpill c = rawReg s .coMskSpill c + 1 ∧ OnlyRegs s t [.coMskSpill] ∧
       OnlyPort s t c ∧ EnginesSame s t ∧ Elsewhere s t) ∧
   (∀ (c : CoreId) (slot : Fin 128) (off : Nat) (s : State), coreRuns s c = true → slotRange off = true → s.upset = [] →
     (getCore s c).port.landed = [] → (schedTouch s c false (granOffs off 8192)).2 = true → Completes (.maskSlotFill c slot off) s fun t =>
       (∀ i, i < 128 → slotGranule (getCore t c) slot i = mreads s.mem (spadBase c + off + 64 * i) 64) ∧
       rawReg t .coMskSpill c = rawReg s .coMskSpill c + 1 ∧ OnlyRegs s t [.coMskSpill, .bsSpEvent] ∧ t.mem = s.mem ∧
       OnlyCore s t c ∧ EnginesSame s t ∧ Elsewhere s t) ∧
   (∀ (i : CoreId → Fin 128 → Nat → Instr) (c : CoreId) (slot : Fin 128) (off : Nat) (k : Task) (q : Sequ) (s : State),
     i ∈ [Instr.maskSlotSpill, .maskSlotFill] → coreRuns s c = true → slotRange off = false → TaskRuns s c k q →
     Completes (i c slot off) s fun t => TaskEnds t c k q .badCommand 0 ∧ t.mem = s.mem ∧ t.regs = s.regs)) ∧
  ((∀ (c : CoreId) (s : State), coreRuns s c = true → s.upset = [] → (getCore s c).port.landed = [] →
     (schedPass s c (ownOffs c (commitRanges s c)) []).2 = true →
     (∀ x ∈ commitRanges s c, (∃ o, placeOf x.off = .spad c o) ∧ taskAllows s c .rd x.off x.len = true ∧ siltIn s x.off x.len = false) →
     Completes (.commitCheck c []) s fun t =>
       Charged s t ∧ OnlyPort s t c ∧ t = { s with head := t.head, cores := t.cores, pow := { s.pow with events := t.pow.events } }) ∧
   (∀ (c : CoreId) (x : Range) (o g : Nat) (k : Task) (q : Sequ) (s : State), coreRuns s c = true → s.upset = [] → x.len ≠ 0 →
     (getCore s c).port.landed = [] → commitRanges s c = [x] → placeOf x.off = .spad c o →
     (schedPass s c (ownOffs c [x]) []).2 = true →
     taskAllows s c .rd x.off x.len = true → TaskRuns s c k q → ((List.range ((x.off + x.len - 1) / 64 - x.off / 64 + 1)).map (x.off / 64 + ·)).find?
       (fun g => isSilt (granuleBytes s g)) = some g →
     Completes (.commitCheck c []) s fun t => TaskEnds t c k q .poisonConsumed g ∧ t.mem = s.mem ∧ OnlyRegs s t [.bsSpEvent]) ∧
   (∀ (c : CoreId) (x : Range) (k : Task) (q : Sequ) (s : State), coreRuns s c = true → commitRanges s c = [x] →
     taskAllows s c .rd x.off x.len = false → TaskRuns s c k q →
     Completes (.commitCheck c []) s fun t => TaskEnds t c k q .windowViolation (x.off / 64) ∧ t.mem = s.mem ∧ t.regs = s.regs) ∧
   (∀ (c : CoreId) (f : Fmt) (rows k off pitch po : Nat) (s : State), coreRuns s c = true → s.upset = [] → spadSpan po (8 * k) = true →
     (∀ o ∈ tileOffs f rows k off pitch, o < spadBytes) → (getCore s c).port.landed = [] →
     (schedPass s c (tileOffs f rows k off pitch) (granOffs po (8 * k))).2 = true →
     Completes (.intakePass c f rows k off pitch po) s fun t =>
       let x := tileRows s c f rows k off pitch
       let p := pairOf (fmtIsInt f) x.1 k
       let bs := wordsBytes (p.1 ++ p.2)
       MemStored s t (spadBase c + po) (if x.2.1 then (List.replicate ((bs.length + 63) / 64) siltBytes).flatten else bs) ∧
       OnlyPort s t c ∧ OnlyRegs s t [.bsSpEvent] ∧ EnginesSame s t ∧ Elsewhere s t) ∧
   (∀ (c : CoreId) (f : Fmt) (k w left : Nat) (tile sf side : Addr) (s : State),
     let nb := if fmtBlock f = 0 then 0 else (k + fmtBlock f - 1) / fmtBlock f * w
     let n := if left = w then 8 * k + nb else 16 * k + nb
     coreRuns s c = true → s.upset = [] → taskAllows s c .rd tile.toNat (elemBytes f (k * w)) = true →
     taskAllows s c .rd sf.toNat nb = true → taskAllows s c .wr side.toNat n = true → (getCore s c).port.landed = [] →
     (schedPass s c (ownOffs c [⟨tile.toNat, elemBytes f (k * w)⟩, ⟨sf.toNat, nb⟩]).eraseDups (ownOffs c [⟨side.toNat, n⟩])).2 = true →
     ((∃ x o, placeOf side.toNat = .spad x o) ∨ (∃ x o, placeOf side.toNat = .pool x o) ∨ ∃ a, placeOf side.toNat = .hbm a) →
     Completes (.sideTableRefresh c f k w left tile sf side) s fun t =>
       let x := weightTile s c f k w tile.toNat sf.toNat
       let bs := ((List.range k).map (fun i => chkRow (fmtIsInt f) left ((List.range w).map (tileVal f w x.1 x.2.1 i)))).flatMap
         wordsBytes ++ x.2.1.map (BitVec.ofNat 8)
       MemStored s t side.toNat (if x.2.2.1 then (List.replicate ((bs.length + 63) / 64) siltBytes).flatten else bs) ∧
       t.blocks = s.blocks ∧ t.passes = s.passes ∧ t.furrow = s.furrow ∧ Elsewhere s t) ∧
   (∀ (c : CoreId) (f : Fmt) (k w left : Nat) (tile sf side : Addr) (a : Nat) (j : Task) (q : Sequ) (s : State), coreRuns s c = true →
     elemBytes f (k * w) ≠ 0 → placeOf tile.toNat = .hbm a → corePart s c = none → TaskRuns s c j q →
     Completes (.sideTableRefresh c f k w left tile sf side) s fun t =>
       TaskEnds t c j q .windowViolation (tile.toNat / 64) ∧ t.mem = s.mem ∧ t.regs = s.regs))

/-- R62, R64, R67, R83, R94, R107, R148, R158, R201, R308: a weight load of a whole tile takes its granules of the core's own
scratchpad by scheduled reads and requests every other one, once the shadow registers are free and the injection port has room,
without which it holds the core; any other tile, and a granule that the partition may not read, end the sequence. R43, R44,
R59-R65, R68, R72, R107: a slot with a swap acts as its unit alone, once the tile that has come stands in the active registers, or
holds the core with an event while the tile's data are absent; a data unit adds to each output of its rows the products of the row
with that column's weights, in groups of 32, a checksum-pair unit its two rows' rounded products; a pair of formats or a tile that
no product has ends the sequence, and a unit that its bank does not take has no effect. Model's choices in it: log entries 30, 73.
-/
def Obligations.ArraysAccumulate : Prop :=
  ((∀ (i : CoreId → LoadOp → Instr) (trans : Bool) (c : CoreId) (op : LoadOp) (s : State),
     let gs := loadGranules s c op trans
     let mine := gs.filter (ownGranule c)
     let far := gs.filter (fun g => !ownGranule c g)
     (i, trans) ∈ [(Instr.weightLoadIssue, false), (.transposingLoadIssue, true)] → loadRuns s c = true → s.upset = [] →
     loadShapeOk s c op trans = true → loadEarly (getCore s c) op.half = false →
     (∀ g ∈ gs, taskAllows s c .rd (g * 64) 64 = true) →
     (far ≠ [] → injectionFull s c (vcOf .readReq (readPacket s c (far.headD 0))) = false) →
     (getCore s c).port.landed = [] → (schedCycles (releaseHold s c .injection) c (loadSched op mine)).2 = true →
     Completes (i c op) s fun t =>
       (∃ l : LoadPend, l.op = op ∧ l.trans = trans ∧ l.need = far ∧
         (∀ g ∈ mine, tget l.got g = some (mreads s.mem (g * 64) 64)) ∧
         getCore t c = { getCore s c with loads := (getCore s c).loads ++ [l], credit := [], port := (getCore t c).port }) ∧
       t.canal = s.canal ++ far.map (fun g => (PType.readReq, readPacket s c g)) ∧
       OnlyCore s t c ∧ Charged s t ∧ ElsewhereSent s t ∧ OnlyRegs s t [.bsSpEvent] ∧
       t = { s with cores := t.cores, canal := t.canal, outs := t.outs, clk := t.clk, head := t.head, regs := t.regs,
                    pow := { s.pow with events := t.pow.events } }) ∧
   (∀ (i : CoreId → LoadOp → Instr) (trans : Bool) (c : CoreId) (op : LoadOp) (k : Task) (q : Sequ) (s : State),
     (i, trans) ∈ [(Instr.weightLoadIssue, false), (.transposingLoadIssue, true)] → loadRuns s c = true → TaskRuns s c k q →
     loadShapeOk s c op trans = false → Completes (i c op) s fun t =>
       TaskEnds t c k q .badCommand 0 ∧ t.mem = s.mem ∧ t.canal = s.canal ∧ t.regs = s.regs) ∧
   (∀ (i : CoreId → LoadOp → Instr) (trans : Bool) (c : CoreId) (op : LoadOp) (g : Nat) (k : Task) (q : Sequ) (s : State),
     (i, trans) ∈ [(Instr.weightLoadIssue, false), (.transposingLoadIssue, true)] → loadRuns s c = true → TaskRuns s c k q →
     loadShapeOk s c op trans = true → loadEarly (getCore s c) op.half = false →
     (loadGranules s c op trans).find? (fun g => !taskAllows s c .rd (g * 64) 64) = some g → Completes (i c op) s fun t =>
       TaskEnds t c k q .windowViolation g ∧ t.mem = s.mem ∧ t.canal = s.canal ∧ t.regs = s.regs) ∧
   (∀ (i : CoreId → LoadOp → Instr) (trans : Bool) (c : CoreId) (op : LoadOp) (s : State),
     let gs := loadGranules s c op trans
     let far := gs.filter (fun g => !ownGranule c g)
     (i, trans) ∈ [(Instr.weightLoadIssue, false), (.transposingLoadIssue, true)] → loadRuns s c = true →
     loadShapeOk s c op trans = true → loadEarly (getCore s c) op.half = false →
     (∀ g ∈ gs, taskAllows s c .rd (g * 64) 64 = true) → far ≠ [] →
     injectionFull s c (vcOf .readReq (readPacket s c (far.headD 0))) = true → Completes (i c op) s fun t =>
       (getCore t c).credit.any (·.cause = .injection) = true ∧
       getCore t c = { getCore s c with credit := (getCore t c).credit } ∧ OnlyCore s t c ∧ t = { s with cores := t.cores }) ∧
   (∀ (i : CoreId → LoadOp → Instr) (trans : Bool) (c : CoreId) (op : LoadOp) (s : State),
     (i, trans) ∈ [(Instr.weightLoadIssue, false), (.transposingLoadIssue, true)] →
     (loadRuns s c = false ∨ (loadShapeOk s c op trans = true ∧ loadEarly (getCore s c) op.half = true)) →
     Completes (i c op) s fun t => t = s)) ∧
  ((∀ (c : CoreId) (op : StepOp) (s : State),
     let key := stageKey op.twin op.half
     unitRuns s c op = true → op.swap = true → (∀ x ∈ (getCore s c).loads, x.op.half ≠ op.half) →
     ∀ w, tget (getCore s c).shadow key = some w →
     ∃ u : State, getCore u c = { getCore s c with
         active := putTile (getCore s c).active op.twin op.half w,
         shadow := (getCore u c).shadow, unswapped := (getCore s c).unswapped.filter (· ≠ key), credit := [] } ∧
       tget (getCore u c).shadow key = tget (getCore s c).active key ∧
       (∀ y, y ≠ key → tget (getCore u c).shadow y = tget (getCore s c).shadow y) ∧
       OnlyCore s u c ∧ u = { s with cores := u.cores } ∧
       Completes (.stepUnitSlot c op) s fun t => exec (.stepUnitSlot c { op with swap := false }) u = .next t) ∧
   (∀ (c : CoreId) (op : StepOp) (l : LoadPend) (s : State),
     let key := stageKey op.twin op.half
     let tile := loadTile l (coreChecks s c)
     unitRuns s c op = true → op.swap = true → (getCore s c).loads = [l] → l.op.half = op.half → l.need = [] →
     ∃ u : State, getCore u c = { getCore s c with
         loads := [], active := putTile (getCore s c).active op.twin op.half tile,
         shadow := (getCore u c).shadow, unswapped := (getCore u c).unswapped, credit := [] } ∧
       tget (getCore u c).shadow key = tget (getCore s c).active key ∧
       (∀ n : TwinId, n ≠ op.twin → tget (getCore u c).shadow (stageKey n op.half) = some tile ∧
         stageKey n op.half ∈ (getCore u c).unswapped) ∧
       OnlyCore s u c ∧ u = { s with cores := u.cores } ∧
       Completes (.stepUnitSlot c op) s fun t => exec (.stepUnitSlot c { op with swap := false }) u = .next t) ∧
   (∀ (c : CoreId) (op : StepOp) (s : State), unitRuns s c op = true → op.swap = true →
     ((∃ l, (getCore s c).loads = [l] ∧ l.op.half = op.half ∧ l.need ≠ []) ∨
       ((∀ x ∈ (getCore s c).loads, x.op.half ≠ op.half) ∧ tget (getCore s c).shadow (stageKey op.twin op.half) = none)) →
     Completes (.stepUnitSlot c op) s fun t =>
       (getCore t c).credit.any (·.cause = .swap op.twin) = true ∧
       getCore t c = { getCore s c with credit := (getCore t c).credit } ∧ OnlyCore s t c ∧
       (rawReg t .coSchEvent c).getLsbD 1 = true ∧ OnlyRegs s t [.coSchEvent] ∧ t = { s with cores := t.cores, regs := t.regs }) ∧
   (∀ (c : CoreId) (op : StepOp) (w : WTile) (b : Bank) (m : StepMode) (s : State),
     let bk := bankKey op.twin op.half op.bank
     let x := fun i => (rowVals s c op.src op.xfmt w.k i).1
     let int := fmtIsInt w.fmt
     unitRuns s c op = true → op.swap = false → op.pair = false → op.upset = [] → s.upset = [] →
     tget (getCore s c).active (stageKey op.twin op.half) = some w → tget (getCore s c).banks bk = some b →
     pairMode w.fmt op.xfmt = some m → w.k = modeK m → b.integer = int → w.w ≤ 128 →
     unitFits b op (unitRows m) = true → otherMode (getCore s c) op w.fmt = false →
     rowsThere s c op.src op.xfmt (unitRows m) w.k = true → (getCore s c).port.landed = [] →
     (schedTouch s c false (rowOffs op.src op.xfmt (unitRows m) w.k)).2 = true →
     Completes (.stepUnitSlot c op) s fun t =>
       (∃ b' : Bank, tget (getCore t c).banks bk = some b' ∧
         (∀ i j, i < unitRows m → j < w.w → tgetD b'.vals ((op.row + i) * 128 + j) 0 =
           accWord int (dotAccEv int (accVal int (tgetD b.vals ((op.row + i) * 128 + j) 0)) ((x i).zip (tileCol w j))).1) ∧
         (∀ r j, j < 128 → (r < op.row ∨ op.row + unitRows m ≤ r) → tget b'.vals (r * 128 + j) = tget b.vals (r * 128 + j)) ∧
         (∀ i, i < unitRows m → tget b'.entered (op.row + i) = some (schedCount s c)) ∧
         b'.rows = b.rows ∧ b'.final = b.final ∧ b'.drained = b.drained ∧ b'.rowChk = b.rowChk ∧ b'.integer = int) ∧
       (∀ y, y ≠ bk → tget (getCore t c).banks y = tget (getCore s c).banks y) ∧ (getCore t c).split = decide (op.half ≠ .whole) ∧
       (getCore t c).active = (getCore s c).active ∧ getBits (rawReg t .coArrMode c) 0 2 = modeCode m ∧
       OnlyCore s t c ∧ t.mem = s.mem ∧ t.canal = s.canal ∧
       OnlyRegs s t [.coArrMode, .coArrEvent, .bsSpEvent] ∧ EnginesSame s t ∧ Elsewhere s t) ∧
   (∀ (c : CoreId) (op : StepOp) (w : WTile) (b : Bank) (m : StepMode) (s : State),
     let bk := bankKey op.twin op.half op.bank
     let int := fmtIsInt w.fmt
     let x := fun (i : Nat) => (chunks 4 (mreads s.mem (spadBase c + (if i = 0 then op.sums else op.wsums)) (4 * w.k))).map
       (fun y => accVal int (w32 (leNat y)))
     unitRuns s c op = true → op.swap = false → op.pair = true → s.upset = [] → coreChecks s c = true →
     tget (getCore s c).active (stageKey op.twin op.half) = some w → tget (getCore s c).banks bk = some b →
     pairMode w.fmt op.xfmt = some m → w.k = modeK m → b.integer = int → w.w ≤ 128 →
     (w.chk.headD []).length ≤ 4 → unitFits b op (unitRows m) = true → otherMode (getCore s c) op w.fmt = false →
     (getCore s c).port.landed = [] →
     (schedTouch s c false (granOffs op.sums (4 * w.k) ++ granOffs op.wsums (4 * w.k)).eraseDups).2 = true →
     Completes (.stepUnitSlot c op) s fun t =>
       (∃ b' : Bank, tget (getCore t c).banks bk = some b' ∧
         (∀ i j, i < 2 → j < w.w → tgetD b'.rowChk (i * 132 + j) 0 =
           accWord int (dotAccEv int (accVal int (tgetD b.rowChk (i * 132 + j) 0)) (roundProducts int ((x i).zip (tileCol w j)))).1) ∧
         b'.vals = b.vals ∧ b'.colChk = b.colChk ∧ b'.rows = b.rows ∧ b'.final = b.final ∧ b'.drained = b.drained) ∧
       (∀ y, y ≠ bk → tget (getCore t c).banks y = tget (getCore s c).banks y) ∧ (getCore t c).active = (getCore s c).active ∧
       OnlyCore s t c ∧ t.mem = s.mem ∧ t.canal = s.canal ∧ OnlyRegs s t [.coArrMode, .coArrEvent, .bsSpEvent] ∧
       EnginesSame s t ∧ Elsewhere s t) ∧
   (∀ (c : CoreId) (op : StepOp) (w : WTile) (b : Bank) (k : Task) (q : Sequ) (s : State), unitRuns s c op = true → op.swap = false →
     tget (getCore s c).active (stageKey op.twin op.half) = some w →
     tget (getCore s c).banks (bankKey op.twin op.half op.bank) = some b → TaskRuns s c k q →
     (pairMode w.fmt op.xfmt = none ∨ ∃ m, pairMode w.fmt op.xfmt = some m ∧ unitFits b op (unitRows m) = true ∧
       otherMode (getCore s c) op w.fmt = false ∧ op.pair = false ∧ rowsThere s c op.src op.xfmt (unitRows m) w.k = true ∧
       (w.k ≠ modeK m ∨ b.integer ≠ fmtIsInt w.fmt)) →
     Completes (.stepUnitSlot c op) s fun t =>
       TaskEnds t c k q .badCommand 0 ∧ t.mem = s.mem ∧ t.canal = s.canal ∧ t.regs = s.regs) ∧
   (∀ (c : CoreId) (op : StepOp) (s : State), op.swap = false →
     (tget (getCore s c).active (stageKey op.twin op.half) = none ∨ tget (getCore s c).banks (bankKey op.twin op.half op.bank) = none ∨
       ∃ w b m, tget (getCore s c).active (stageKey op.twin op.half) = some w ∧
         tget (getCore s c).banks (bankKey op.twin op.half op.bank) = some b ∧ pairMode w.fmt op.xfmt = some m ∧
         (unitFits b op (unitRows m) = false ∨ (op.pair = true ∧ coreChecks s c = false))) →
     Completes (.stepUnitSlot c op) s fun t => t = s))

/-- R68-R70, R74, R75: a bank opens empty in place of what its columns held, unless the drain still has rows of it to read;
marking makes it final; a drain read takes the next two rows of a final bank into staging once their units are through, and in the
raw epilogue gives their accumulator words; a reserved control byte ends the sequence. R73, R79, R80, R90, R104, R107: a drained
tile that has passed, that is silt or whose core has its checks off is committed: its staging empties and it is counted; a row
goes to its place in the scratchpad, silt for silt, or in WRITE or WRITE_ADD packets to another core or a pool; without its
verdict or under repeat a tile waits, and without credit it holds the core. Model's choices in it: log entries 29, 30, 73, 75, 77.
-/
def Obligations.TilesDrainAndCommit : Prop :=
  ((∀ (c : CoreId) (tw : TwinId) (h : Half) (bank : Fin 2) (rows : Nat) (int : Bool) (s : State),
     arrayRuns s c = true → rows ≤ 512 →
     (∀ g ∈ sharing h, ∀ b, tget (getCore s c).banks (bankKey tw g bank) = some b → b.free = true) →
     Completes (.bankOpen c tw h bank rows int) s fun t =>
       getCore t c = { getCore s c with banks := (getCore t c).banks } ∧
       tget (getCore t c).banks (bankKey tw h bank) = some (Bank.fresh rows int) ∧
       (∀ g ∈ sharing h, g ≠ h → tget (getCore t c).banks (bankKey tw g bank) = none) ∧
       (∀ y, (∀ g ∈ sharing h, y ≠ bankKey tw g bank) → tget (getCore t c).banks y = tget (getCore s c).banks y) ∧
       OnlyCore s t c ∧ t = { s with cores := t.cores }) ∧
   (∀ (c : CoreId) (tw : TwinId) (h : Half) (bank : Fin 2) (rows : Nat) (int : Bool) (s : State),
     (512 < rows ∨ ∃ g ∈ sharing h, ∃ b, tget (getCore s c).banks (bankKey tw g bank) = some b ∧ b.isOpen = true ∧
       (b.final = false ∨ b.drained < b.rows)) →
     Completes (.bankOpen c tw h bank rows int) s fun t => t = s) ∧
   (∀ (c : CoreId) (tw : TwinId) (h : Half) (bank : Fin 2) (b : Bank) (s : State), arrayRuns s c = true →
     tget (getCore s c).banks (bankKey tw h bank) = some b → Completes (.markFinal c tw h bank) s fun t =>
       getCore t c = { getCore s c with banks := tput (getCore s c).banks (bankKey tw h bank) { b with final := true } } ∧
       OnlyCore s t c ∧ t = { s with cores := t.cores }) ∧
   (∀ (c : CoreId) (op : DrainOp) (b : Bank) (s : State),
     let bk := bankKey op.twin op.half op.bank
     let n := min 2 (b.rows - b.drained)
     arrayRuns s c = true → s.upset = [] → tget (getCore s c).banks bk = some b → b.final = true → b.drained < b.rows →
     (∀ i, i < n → rowDue s c op.half b (b.drained + i) = true) → (b.drained = 0 → tget (getCore s c).staging bk = none) →
     drainCtlOk op.epi = true → Completes (.drainRead c op) s fun t =>
       (tget (getCore t c).banks bk = some { b with drained := b.drained + n }) ∧
       (∃ g : Staging, tget (getCore t c).staging bk = some g ∧
         (b.rows ≤ b.drained + 2 → g.src = some { b with drained := b.rows }) ∧
         (op.epi.raw = true → ∀ r j, b.drained ≤ r → r < b.drained + n → j < halfWidth s c op.half → j < 128 →
           (b.integer = true ∨ (fp32Val (tgetD b.vals (r * 128 + j) 0)).isNaN = false) →
           tgetD g.main.els (r * 128 + j) 0 = (tgetD b.vals (r * 128 + j) 0).toNat)) ∧
       (∀ y, y ≠ bk → tget (getCore t c).banks y = tget (getCore s c).banks y) ∧ OnlyCore s t c ∧ t.mem = s.mem ∧
       t.canal = s.canal ∧ OnlyRegs s t [.coBwdEvent, .bsSpEvent] ∧ EnginesSame s t ∧ Elsewhere s t) ∧
   (∀ (c : CoreId) (op : DrainOp) (b : Bank) (k : Task) (q : Sequ) (s : State),
     let bk := bankKey op.twin op.half op.bank
     arrayRuns s c = true → TaskRuns s c k q → tget (getCore s c).banks bk = some b → b.final = true → b.drained < b.rows →
     (∀ i, i < min 2 (b.rows - b.drained) → rowDue s c op.half b (b.drained + i) = true) →
     (b.drained = 0 → tget (getCore s c).staging bk = none) → drainCtlOk op.epi = false →
     Completes (.drainRead c op) s fun t => TaskEnds t c k q .badCommand 0 ∧ t.mem = s.mem ∧ t.canal = s.canal ∧ t.regs = s.regs) ∧
   (∀ (c : CoreId) (op : DrainOp) (s : State),
     let bk := bankKey op.twin op.half op.bank
     (tget (getCore s c).banks bk = none ∨ ∃ b, tget (getCore s c).banks bk = some b ∧ (b.final = false ∨ b.rows ≤ b.drained ∨
       rowDue s c op.half b b.drained = false ∨ (b.drained = 0 ∧ (tget (getCore s c).staging bk).isSome = true))) →
     Completes (.drainRead c op) s fun t => t = s)) ∧
  ((∀ (c : CoreId) (tw : TwinId) (h : Half) (bank : Fin 2) (off pitch so sp : Nat) (g : Staging) (f : Fmt) (s : State),
     let sk := bankKey tw h bank
     let bs := cover g.silt (packElems f ((List.range (halfWidth s c h)).map (fun n => tgetD g.main.els n 0)))
     retryRuns s c [.commit, .injection] = true → productsEmpty s c = false → tget (getCore s c).staging sk = some g → g.src ≠ none →
     (getCore s c).repeating = false → (g.verdict = some true ∨ (g.verdict = none ∧ needsVerdict s c g = false)) → g.rows = 1 →
     fmtOfCode g.main.fmt = some f → fmtBlock f = 0 → g.second = none → g.epi.pairOff = none → g.epi.recordOff = none →
     off + bs.length ≤ spadBytes → (getCore s c).port.landed = [] → (schedTouch s c true (granOffs off bs.length).eraseDups).2 = true →
     Completes (.tileCommit c tw ⟨h, bank⟩ ⟨(.spad off pitch so sp), none⟩) s fun t =>
       MemStored s t (spadBase c + off) bs ∧ tget (getCore t c).staging sk = none ∧
       rawReg t .coArrTiles c = rawReg s .coArrTiles c + 1 ∧ (g.silt = true → (rawReg t .coArrEvent c).getLsbD 2 = true) ∧
       OnlyCore s t c ∧ t.canal = s.canal ∧ EnginesSame s t ∧ Elsewhere s t ∧
       OnlyRegs s t [.coArrTiles, .coArrEvent, .coFstAmax, .coFstNonzero, .coFstUnder, .coFstOver, .coFstHist, .coBwdEvent]) ∧
   (∀ (c : CoreId) (tw : TwinId) (h : Half) (bank : Fin 2) (dest : CommitDest) (g : Staging) (s : State),
     let sk := bankKey tw h bank
     let p := commitPart g (halfWidth s c h) g.main dest
     let ps := commitPackets s c g.main dest p.runs
     retryRuns s c [.commit, .injection] = true → productsEmpty s c = false → tget (getCore s c).staging sk = some g → g.src ≠ none →
     (getCore s c).repeating = false → (g.verdict = some true ∨ (g.verdict = none ∧ needsVerdict s c g = false)) →
     g.second = none → g.epi.pairOff = none → g.epi.recordOff = none → commitFits g.main dest p.runs = true →
     commitRight s c dest p.runs = true → commitWaits s c ps (commitRings s dest p.runs) = none →
     (∀ off pitch so sp, dest ≠ .spad off pitch so sp) → Completes (.tileCommit c tw ⟨h, bank⟩ ⟨dest, none⟩) s fun t =>
       tget (getCore t c).staging sk = none ∧ rawReg t .coArrTiles c = rawReg s .coArrTiles c + 1 ∧
       ((∀ off pitch, dest ≠ .furrowAdd off pitch) → t.canal = s.canal ++ ps ∧ t.mem = s.mem ∧ OnlyCore s t c ∧ EnginesSame s t) ∧
       (∀ x i n off pitch so sp r, dest = .remote x i n off pitch so sp → p.runs = [r] →
         ps = (dataPackets { mkPkt (taskCls s c) c x (coreStamp s c) 0 0 with index := i, gen := n, wkind := 1#2 }
           ((spadBase x + r.1) / 64) r.2).map (fun q => (PType.write, q))) ∧
       ElsewhereSent s t) ∧
   (∀ (c : CoreId) (tw : TwinId) (h : Half) (bank : Fin 2) (dest : CommitDest) (g : Staging) (why : Cause) (s : State),
     let p := commitPart g (halfWidth s c h) g.main dest
     retryRuns s c [.commit, .injection] = true → productsEmpty s c = false →
     tget (getCore s c).staging (bankKey tw h bank) = some g → g.src ≠ none → (getCore s c).repeating = false →
     (g.verdict = some true ∨ (g.verdict = none ∧ needsVerdict s c g = false)) → g.second = none →
     commitFits g.main dest p.runs = true → commitRight s c dest p.runs = true →
     commitWaits s c (commitPackets s c g.main dest p.runs) (commitRings s dest p.runs) = some why →
     Completes (.tileCommit c tw ⟨h, bank⟩ ⟨dest, none⟩) s fun t =>
       (getCore t c).credit.any (·.cause = why) = true ∧
       getCore t c = { getCore s c with credit := (getCore t c).credit } ∧ OnlyCore s t c ∧ t = { s with cores := t.cores }) ∧
   (∀ (c : CoreId) (tw : TwinId) (h : Half) (bank : Fin 2) (dest : CommitDest) (g : Staging) (k : Task) (q : Sequ) (s : State),
     let p := commitPart g (halfWidth s c h) g.main dest
     retryRuns s c [.commit, .injection] = true → productsEmpty s c = false → TaskRuns s c k q →
     tget (getCore s c).staging (bankKey tw h bank) = some g → g.src ≠ none → (getCore s c).repeating = false →
     (g.verdict = some true ∨ (g.verdict = none ∧ needsVerdict s c g = false)) → g.second = none →
     Completes (.tileCommit c tw ⟨h, bank⟩ ⟨dest, none⟩) s fun t =>
       (commitFits g.main dest p.runs = false → TaskEnds t c k q .badCommand 0 ∧ t.mem = s.mem ∧ t.canal = s.canal ∧ t.regs = s.regs) ∧
       (commitFits g.main dest p.runs = true → commitRight s c dest p.runs = false →
         TaskEnds t c k q .windowViolation ((destPlaces dest).1 / 64) ∧ t.mem = s.mem ∧ t.canal = s.canal ∧ t.regs = s.regs)) ∧
   (∀ (c : CoreId) (tw : TwinId) (h : Half) (bank : Fin 2) (dest : CommitDest) (copy : Option CommitDest) (s : State),
     (∀ g, tget (getCore s c).staging (bankKey tw h bank) = some g →
       g.src = none ∨ (getCore s c).repeating = true ∨ g.verdict = some false ∨ (g.verdict = none ∧ needsVerdict s c g = true)) →
     Completes (.tileCommit c tw ⟨h, bank⟩ ⟨dest, copy⟩) s fun t => t = s))

/-- R73, R79, R90, R230-R232: a drained tile passes its verdict with every comparison within its tolerance; one that fails is
counted, located and held for its repeat; silt, and a core with checks off, has no verdict. R233-R240, Table CHK-4: the repeat of
a failed tile decides it: the first rerun passes and the fault is transient; only the other twin passes and it is permanent, a
suspect event; neither does, and of integers, or of floating point where the second tolerance fails too, it lies in the data, with
silt, status and report; where the second tolerance holds and both reruns agree, it was the tolerance. Its end ends the hold and
logs a captured entry. Model's choices in it: log entries 2, 29, 74, 76. -/
def Obligations.VerdictsAndRepeats : Prop :=
  ((∀ (c : CoreId) (tw : TwinId) (h : Half) (bank : Fin 2) (g : Staging) (b : Bank) (s : State),
     let sk := bankKey tw h bank
     let ok := tilePasses true b b h (halfWidth s c h) (leftWidth s c h)
     arrayRuns s c = true → tget (getCore s c).staging sk = some g → g.src = some b → g.verdict = none → needsVerdict s c g = true →
     Completes (.checksumVerdict c tw ⟨h, bank⟩) s fun t =>
       tget (getCore t c).staging sk = some { g with verdict := some ok } ∧
       (ok = true → getCore t c = { getCore s c with staging := (getCore t c).staging } ∧ t.regs = s.regs) ∧
       (ok = false → rawReg t .coArrChkFail c = rawReg s .coArrChkFail c + 1 ∧ (rawReg t .coArrEvent c).getLsbD 0 = true ∧
         rawReg t .coChkLastLoc c = lastLoc s c tw h (locateFault b h (halfWidth s c h) (leftWidth s c h)) ∧
         (getCore t c).credit = [⟨.repeatRun, 0⟩] ∧ OnlyRegs s t [.coArrChkFail, .coArrEvent, .coChkLastLoc]) ∧
       OnlyCore s t c ∧ t = { s with cores := t.cores, regs := t.regs }) ∧
   (∀ (c : CoreId) (tw : TwinId) (h : Half) (bank : Fin 2) (s : State),
     (∀ g, tget (getCore s c).staging (bankKey tw h bank) = some g → g.src = none ∨ g.verdict ≠ none ∨ needsVerdict s c g = false) →
     Completes (.checksumVerdict c tw ⟨h, bank⟩) s fun t => t = s)) ∧
  ((∀ (c : CoreId) (tw : TwinId) (h : Half) (bank : Fin 2) (own other mag : Rerun) (pass : Nat) (cap : Capture) (g : Staging) (b : Bank)
     (s : State),
     let sk := bankKey tw h bank
     let passes := fun (r : Rerun) => tilePasses true (rerunBank b r) (rerunBank b r) h (halfWidth s c h) (leftWidth s c h)
     let second := tilePasses false (rerunBank b other) (rerunBank b mag) h (halfWidth s c h) (leftWidth s c h)
     let agree := decide ((rerunBank b own).vals = (rerunBank b other).vals ∧ (rerunBank b own).colChk = (rerunBank b other).colChk ∧
       (rerunBank b own).rowChk = (rerunBank b other).rowChk)
     coreLive s c = true → tget (getCore s c).staging sk = some g → g.src = some b → g.verdict = some false → g.decided = false →
     s.head.reload ≠ 2 → Completes (.repeatProcedure c tw ⟨h, bank⟩ own other mag pass cap) s fun t =>
       let permanent := rawReg t .coChkPermanent c = rawReg s .coChkPermanent c + 1 ∧
         rawReg t .coArrChkFail c = rawReg s .coArrChkFail c + 1 ∧ t.head.suspectDue = s.head.suspectDue ++ [(c : Nat)] ∧
         (getCore t c).logDue = some (arrayEntry s c tw h b (locateFault b h (halfWidth s c h) (leftWidth s c h)) pass cap)
       let inData := rawReg t .coChkDataside c = rawReg s .coChkDataside c + 1 ∧
         tget (getCore t c).staging sk = some { g with silt := true, verdict := some true, decided := true } ∧
         Reported t 0x0017 0x06 (corePart s c) c (rawReg s .coChkLastLoc c).toNat
       (∃ g', tget (getCore t c).staging sk = some g' ∧ g'.verdict = some true ∧ g'.decided = true) ∧
       (getCore t c).repeating = true ∧ (rawReg t .coChkEvent c).getLsbD 0 = true ∧ (rawReg t .coArrEvent c).getLsbD 1 = true ∧
       (passes own = true → rawReg t .coChkTransient c = rawReg s .coChkTransient c + 1 ∧
         rawReg t .coArrChkFail c = rawReg s .coArrChkFail c ∧ (getCore t c).logDue = none) ∧
       (passes own = false → passes other = true → permanent) ∧
       (passes own = false → passes other = false → b.integer = false → second = true → agree = false → permanent) ∧
       (passes own = false → passes other = false → b.integer = false → second = true → agree = true →
         rawReg t .coChkTolerance c = rawReg s .coChkTolerance c + 1 ∧ (getCore t c).logDue = none) ∧
       (passes own = false → passes other = false → (b.integer = true ∨ second = false) → inData) ∧
       OnlyCore s t c ∧ (s.upset = [] → MemOutside s t (spadBase c + reserveFrom) (spadBase c + spadBytes)) ∧ t.canal = s.canal ∧
       EnginesSame s t ∧ Elsewhere s t) ∧
   (∀ (c : CoreId) (tw : TwinId) (h : Half) (bank : Fin 2) (g : Staging) (s : State), coreLive s c = true →
     tget (getCore s c).staging (bankKey tw h bank) = some g → (getCore s c).repeating = true → g.decided = true →
     Completes (.repeatComplete c tw ⟨h, bank⟩) s fun t =>
       getCore t c = { getCore s c with
         repeating := false, logDue := none,
         credit := (getCore s c).credit.filter (fun h => h.cause ≠ .repeatRun) } ∧
       ((getCore s c).logDue = none → t.head = s.head ∧ t.regs = s.regs) ∧
       (∀ e, (getCore s c).logDue = some e → t.head.plog.getLast? = some { e with seq := s.head.plogNext % 65536 } ∧
         t.head.plogNext = s.head.plogNext + 1 ∧ (rawReg t .coChkEvent c).getLsbD 2 = true ∧ OnlyRegs s t [.coChkEvent]) ∧
       OnlyCore s t c ∧ t.mem = s.mem ∧ t.canal = s.canal ∧ EnginesSame s t ∧ Elsewhere s t) ∧
   (∀ (c : CoreId) (tw : TwinId) (h : Half) (bank : Fin 2) (s : State),
     ((getCore s c).repeating = false ∨ tget (getCore s c).staging (bankKey tw h bank) = none) →
     Completes (.repeatComplete c tw ⟨h, bank⟩) s fun t => t = s) ∧
   (∀ (c : CoreId) (tw : TwinId) (h : Half) (bank : Fin 2) (own other mag : Rerun) (pass : Nat) (cap : Capture) (s : State),
     (∀ g, tget (getCore s c).staging (bankKey tw h bank) = some g → g.src = none ∨ g.verdict ≠ some false ∨ g.decided = true) →
     Completes (.repeatProcedure c tw ⟨h, bank⟩ own other mag pass cap) s fun t => t = s))

/-- R117-R121, R123, R131: each element-wise instruction reads its operands at issue and puts one result in flight, with its
elements where the mask leaves them on: float arithmetic 4 counts, minimum, maximum, integer operations, conversions and selects
2, products of integers 4, permutes 3, functions by Table VEC-2. Model's choices in it: log entries 7, 23. -/
def Obligations.VectorElements : Prop :=
  (∀ (c : CoreId) (op : FOp) (f : VFmt) (d : Fin 32) (a b x : VSrc) (m : Fin 8) (s : State), coreRuns s c = true →
    let k := getCore s c
    Completes (.vectorFloatArithmetic c op f d a b x m) s fun t =>
      VecDue s t c 4 [regWrite (!is16 f) d ((activeEls k m (vcount f)).map (fun e =>
        ⟨e, vbits f (fop op (srcNeg k f b e) (srcVal k f a e) (srcVal k f b e) (srcVal k f x e)),
          (fopSrcs op a b x).any (fun y => srcSilt k f y e)⟩))] ∧ rawReg t .coVecIssued c = rawReg s .coVecIssued c + 1) ∧
  (∀ (c : CoreId) (mx : Bool) (f : VFmt) (d : Fin 32) (a b : VSrc) (m : Fin 8) (s : State), coreRuns s c = true →
    let k := getCore s c
    Completes (.vectorMinMax c mx f d a b m) s fun t =>
      VecDue s t c 2 [regWrite (!is16 f) d ((activeEls k m (vcount f)).map (fun e =>
        ⟨e, vbits f (if mx then fmax2 (srcVal k f a e) (srcVal k f b e) else fmin2 (srcVal k f a e) (srcVal k f b e)),
          [a, b].any (fun y => srcSilt k f y e)⟩))] ∧ rawReg t .coVecIssued c = rawReg s .coVecIssued c + 1) ∧
  (∀ (c : CoreId) (op : IOp) (d : Fin 32) (a b : VSrc) (m : Fin 8) (s : State), coreRuns s c = true →
    let k := getCore s c
    Completes (.vectorInteger c op d a b m) s fun t =>
      VecDue s t c 2 [regWrite true d ((activeEls k m 512).map (fun e =>
        ⟨e, (iop op (w32 (srcBits k .i32 a e)) (w32 (srcBits k .i32 b e))).toNat, srcSilt k .i32 a e || srcSilt k .i32 b e⟩))] ∧
      rawReg t .coVecIssued c = rawReg s .coVecIssued c + 1) ∧
  (∀ (c : CoreId) (d : Fin 32) (a b : VSrc) (m : Fin 8) (s : State), coreRuns s c = true →
    let k := getCore s c
    Completes (.vectorIntegerMultiply c d a b m) s fun t =>
      VecDue s t c 4 [regWrite true d ((activeEls k m 512).map (fun e =>
        ⟨e, (w32 (srcBits k .i32 a e) * w32 (srcBits k .i32 b e)).toNat, srcSilt k .i32 a e || srcSilt k .i32 b e⟩))] ∧
      rawReg t .coVecIssued c = rawReg s .coVecIssued c + 1) ∧
  (∀ (c : CoreId) (fn : TFn) (f : VFmt) (d : Fin 32) (a : VSrc) (sub : Option VSrc) (m : Fin 8) (s : State), coreRuns s c = true →
    let k := getCore s c
    let y := if fn = .exp ∨ fn = .exp2 then sub else none
    Completes (.vectorTranscendental c fn f d a sub m) s fun t =>
      VecDue s t c (tfnLatency fn) [regWrite (!is16 f) d ((activeEls k m (vcount f)).map (fun e =>
        ⟨e, vbits f (tfn fn (match y with
            | some b => fsub (srcVal k f a e) (srcVal k f b e)
            | none => srcVal k f a e)), (a :: y.toList).any (fun z => srcSilt k f z e)⟩))] ∧
      rawReg t .coVecIssued c = rawReg s .coVecIssued c + 1) ∧
  (∀ (c : CoreId) (op : PermOp) (wide : Bool) (d : Fin 32) (a : VSrc) (m : Fin 8) (s : State), coreRuns s c = true →
    let k := getCore s c
    let w := permWide op wide
    Completes (.vectorPermute c op wide d a m) s fun t =>
      VecDue s t c 3 [regWrite w d ((activeEls k m (if w then 512 else 1024)).map (fun e =>
        ⟨e, (permEl k op w a e).1, (permEl k op w a e).2⟩))] ∧ rawReg t .coVecIssued c = rawReg s .coVecIssued c + 1) ∧
  (∀ (c : CoreId) (op : CmpOp) (f : VFmt) (d : Nat) (a b : VSrc) (k1 k2 : Fin 8) (s : State), coreRuns s c = true →
    let k := getCore s c
    let es := activeEls k k1 (vcount f)
    Completes (.vectorCompareSelect c op f d a b k1 k2) s fun t =>
      (op = .kand → VecDue s t c 2 [.mask d (vmask k k1 &&& vmask k k2) (BitVec.allOnes 1024)]) ∧
      (op = .kor → VecDue s t c 2 [.mask d (vmask k k1 ||| vmask k k2) (BitVec.allOnes 1024)]) ∧
      (op = .knot → VecDue s t c 2 [.mask d (~~~ vmask k k1) (BitVec.allOnes 1024)]) ∧
      (op = .select → VecDue s t c 2 [regWrite (!is16 f) d ((activeEls k k2 (vcount f)).map (fun e =>
        let x := if (vmask k k1).getLsbD e then a else b
        ⟨e, srcBits k f x e, srcSilt k f x e⟩))]) ∧
      (op ∈ [CmpOp.eq, .ne, .lt, .le, .unordered] → VecDue s t c 2
        [.mask d (maskOf (es.filter (fun e => cmpHolds op (srcVal k f a e) (srcVal k f b e)))) (maskOf es)]) ∧
      rawReg t .coVecIssued c = rawReg s .coVecIssued c + 1) ∧
  (∀ (c : CoreId) (op : CvtOp) (d a b : Fin 32) (m : Fin 8) (ctl : Ctl) (s : State), coreRuns s c = true → cvtCtl op = some ctl →
    let k := getCore s c
    let fs := cvtFmts op
    Completes (.vectorRegisterConversion c op d a b m) s fun t =>
      (ctl.rnd ≠ .stoch → VecDue s t c 2 [regWrite (!is16 fs.2) d ((activeEls k m (vcount fs.2)).map (fun e =>
        let g := cvtFrom op a b e
        ⟨e, (encodeElem ctl 0 (vval fs.1 (elBits k (!is16 fs.1) g.1 g.2))).bits, laneSilt k g.1 (laneOf (!is16 fs.1) g.2)⟩))]) ∧
      (∃ w, (getCore t c).vec.due = k.vec.due ++ [(schedCount s c + 2, w)]) ∧ t.mem = s.mem ∧ OnlyCore s t c ∧
      rawReg t .coVecIssued c = rawReg s .coVecIssued c + 1) ∧
  (∀ (c : CoreId) (op : CvtOp) (d a b : Fin 32) (m : Fin 8) (k : Task) (q : Sequ) (s : State), coreRuns s c = true → cvtCtl op = none →
    TaskRuns s c k q → Completes (.vectorRegisterConversion c op d a b m) s fun t =>
      TaskEnds t c k q .badCommand 0 ∧ t.mem = s.mem ∧ t.regs = s.regs)

/-- R41, R52, R117, R120, R122, R129-R131: a load reads its unmasked elements at issue for count 6, a converting load for count 8;
a store puts the bytes of its unmasked elements in flight for count 4 and a converting store for count 6, its checksum rows
gathering what it converts; a misaligned one, a reserved control byte and a block masked in part end the sequence. What is in
flight lands whole: 32-bit elements in their lanes, and the bits written of the bytes of one granule. Model's choices in it: log
entry 30. -/
def Obligations.VectorMemoryAndLanding : Prop :=
  (∀ (c : CoreId) (d : Fin 32) (f : VFmt) (off : Nat) (m : Fin 8) (s : State),
    let w := if is16 f then 2 else 4
    let es := activeEls (getCore s c) m (vcount f)
    coreRuns s c = true → vecRange off 2048 = true → s.upset = [] → (getCore s c).port.landed = [] →
    (schedTouch s c false (elGrans off (8 * w) es)).2 = true → Completes (.vectorLoad c d ⟨f, off⟩ m) s fun t =>
      getCore t c = { getCore s c with port := (getCore t c).port, vec := { (getCore s c).vec with
        due := (getCore s c).vec.due ++ [(schedCount s c + 6, regWrite (!is16 f) d (es.map (fun e =>
          ⟨e, leNat (mreads s.mem (spadBase c + off + w * e) w), isSilt (mreads s.mem (spadBase c + (off + w * e) / 64 * 64) 64)⟩)))] } } ∧
      OnlyCore s t c ∧ t.mem = s.mem ∧ EnginesSame s t ∧ Elsewhere s t ∧ OnlyRegs s t [.coVecIssued, .coVecEvent, .bsSpEvent]) ∧
  (∀ (c : CoreId) (d : Fin 32) (src : Fmt) (f : VFmt) (second : Bool) (off sfOff : Nat) (m : Fin 8) (s : State),
    let bl := fmtBlock src
    let base := if is16 f ∧ second then 512 else 0
    let es := (List.range 512).filter (fun i => (vmask (getCore s c) m).getLsbD (base + i))
    let gs := (elGrans off (fmtWidth src) es ++ elGrans sfOff 8 (if bl = 0 then [] else (es.map (· / bl)).eraseDups)).eraseDups
    let vals := decodeElems src (unpackElems src 512 (mreads s.mem (spadBase c + off) (elemBytes src 512)))
      ((mreads s.mem (spadBase c + sfOff) (if bl = 0 then 0 else 512 / bl)).map (·.toNat))
    let silt := fun (i : Nat) => (elGrans off (fmtWidth src) [i]).any (fun o => isSilt (mreads s.mem (spadBase c + o) 64)) ||
      (bl ≠ 0 && isSilt (mreads s.mem (spadBase c + (sfOff + i / bl) / 64 * 64) 64))
    coreRuns s c = true → cvtRange src off sfOff = true → s.upset = [] → (getCore s c).port.landed = [] →
    (schedTouch s c false gs).2 = true → Completes (.convertingLoad c d src f second off sfOff m) s fun t =>
      getCore t c = { getCore s c with port := (getCore t c).port, vec := { (getCore s c).vec with
        due := (getCore s c).vec.due ++ [(schedCount s c + 8, regWrite (!is16 f) d (es.map (fun i =>
          ⟨base + i, (encodeElem ⟨false, true, .rne, vfmt f⟩ 0 (vals.getD i .nan)).bits, silt i⟩)))] } } ∧
      OnlyCore s t c ∧ t.mem = s.mem ∧ EnginesSame s t ∧ Elsewhere s t ∧ OnlyRegs s t [.coVecIssued, .coVecEvent, .bsSpEvent]) ∧
  (∀ (c : CoreId) (a : Fin 32) (f : VFmt) (off : Nat) (m : Fin 8) (s : State),
    let k := getCore s c
    let w := if is16 f then 2 else 4
    coreRuns s c = true → vecRange off 2048 = true → Completes (.vectorStore c a ⟨f, off⟩ m) s fun t =>
      VecDue s t c 4 (memWrites c ((activeEls k m (vcount f)).flatMap (fun e =>
        ((leBytes w (elBits k (!is16 f) a e)).zip (List.range w)).map (fun b =>
          ⟨off + w * e + b.2, b.1, 0xFF, laneSilt k a (laneOf (!is16 f) e)⟩))))) ∧
  (∀ (c : CoreId) (op : CStoreOp) (ctl : Ctl) (s : State),
    let k := getCore s c
    let base := if is16 op.fmt ∧ op.second then 512 else 0
    let on := fun (i : Nat) => (vmask k op.mask).getLsbD (base + i)
    let silt := fun (i : Nat) => laneSilt k op.src (laneOf (!is16 op.fmt) (base + i))
    let run := convertRow ctl ((List.range 512).map (fun i =>
      (if on i then vval op.fmt (elBits k (!is16 op.fmt) op.src (base + i)) else FV.num false 0 0, 0)))
    coreRuns s c = true → ctlOf op.ctl = some ctl → cvtRange ctl.fmt op.off op.sfOff = true → wholeBlocks ctl.fmt on = true →
    (∀ o, op.pairOff = some o → vecRange o (8 * (pairStore k op).1) = true) → Completes (.convertingStore c op) s fun t =>
      (∃ ws : List VWrite, (getCore t c).vec.due = k.vec.due ++ ws.map (fun w => (schedCount s c + 6, w))) ∧
      (ctl.rnd ≠ .stoch → op.pairOff = none → (getCore t c).vec.due = k.vec.due ++
        (memWrites c (runBytes ctl op.off op.sfOff on run silt)).map (fun w => (schedCount s c + 6, w)) ∧
        (∀ row width, op.rows = some (row, width) → (getCore t c).vec.rows = gatherRows k.vec.rows (fmtIsInt ctl.fmt) row (max 1 width)
          (((List.range 512).filter (fun i => on i && !silt i)).map (fun i =>
            (base + i, (decodeElems ctl.fmt run.bits run.fields).getD i .nan))))) ∧
      OnlyCore s t c ∧ t.mem = s.mem ∧ EnginesSame s t ∧ Elsewhere s t ∧ OnlyRegs s t [.coVecIssued, .coVecEvent, .coFstAmax,
        .coFstNonzero, .coFstUnder, .coFstOver, .coFstHist, .coBwdEvent]) ∧
  (∀ (c : CoreId) (d : Fin 32) (f : VFmt) (off : Nat) (m : Fin 8) (k : Task) (q : Sequ) (s : State), coreRuns s c = true →
    vecRange off 2048 = false → TaskRuns s c k q →
    Completes (.vectorLoad c d ⟨f, off⟩ m) s (fun t => TaskEnds t c k q .badCommand 0 ∧ t.mem = s.mem ∧ t.regs = s.regs) ∧
    Completes (.vectorStore c d ⟨f, off⟩ m) s (fun t => TaskEnds t c k q .badCommand 0 ∧ t.mem = s.mem ∧ t.regs = s.regs)) ∧
  (∀ (c : CoreId) (d : Fin 32) (src : Fmt) (f : VFmt) (second : Bool) (off sfOff : Nat) (m : Fin 8) (k : Task) (q : Sequ) (s : State),
    coreRuns s c = true → cvtRange src off sfOff = false → TaskRuns s c k q →
    Completes (.convertingLoad c d src f second off sfOff m) s fun t => TaskEnds t c k q .badCommand 0 ∧ t.mem = s.mem ∧ t.regs = s.regs) ∧
  (∀ (c : CoreId) (op : CStoreOp) (k : Task) (q : Sequ) (s : State),
    let base := if is16 op.fmt ∧ op.second then 512 else 0
    coreRuns s c = true → TaskRuns s c k q → (ctlOf op.ctl = none ∨ ∃ ctl, ctlOf op.ctl = some ctl ∧
      (cvtRange ctl.fmt op.off op.sfOff = false ∨
        wholeBlocks ctl.fmt (fun i => (vmask (getCore s c) op.mask).getLsbD (base + i)) = false)) →
    Completes (.convertingStore c op) s fun t => TaskEnds t c k q .badCommand 0 ∧ t.mem = s.mem ∧ t.regs = s.regs) ∧
  (∀ (c r : Nat) (els : List VEl) (s : State), (els.map (·.e)).Nodup → (∀ x ∈ els, x.e < 512 ∧ x.bits < 2 ^ 32) →
    (∀ x ∈ els, laneWord (getCore (landVec s c (regWrite true r els)) c) r x.e = w32 x.bits) ∧
    (∀ l, (∀ x ∈ els, x.e ≠ l) →
      laneWord (getCore (landVec s c (regWrite true r els)) c) r l = laneWord (getCore s c) r l)) ∧
  (∀ (c g : Nat) (s : State) (bs : List (Nat × Byte × Byte)), (getCore s c).port.landed = [] →
    (schedTouch s c true [g * 64 - spadBase c]).2 = true →
    MemOutside s (landVec s c (.mem g bs false)) (g * 64) (g * 64 + 64) ∧
    ((bs.map Prod.fst).Nodup → ∀ x ∈ bs, x.1 < 64 → mread (landVec s c (.mem g bs false)).mem (g * 64 + x.1) =
      (mread s.mem (g * 64 + x.1) &&& ~~~ x.2.2) ||| (x.2.1 &&& x.2.2)) ∧
    MemStored s (landVec s c (.mem g bs true)) (g * 64) siltBytes)

/-- R124-R127, Table VEC-3: a reduction combines the unmasked elements of its register by the fixed tree, replaces its accumulator
or folds into it, and its result is readable 8 counts after its issue. -/
def Obligations.ReductionsFold : Prop :=
  (∀ (i : CoreId → RedOp → Instr) (sq : Bool) (c : CoreId) (op : RedOp) (s : State),
    let k := getCore s c
    let now := accNow k op.acc
    let z : FV := .num false 0 0
    let r := redWord op.fmt (redOf (faddV op.fmt) z ((redEls k op).map (fun x => match x with
      | some e => if sq then fmul e.2 e.2 else e.2
      | none => z)))
    (i, sq) ∈ [(Instr.reduceSum, false), (.reduceSumOfSquares, true)] → coreRuns s c = true → Completes (i c op) s fun t =>
      VecDue s t c 8 [if op.init then .acc op.acc r 0 (redSilt k op)
        else .acc op.acc (redWord op.fmt (faddV op.fmt (redVal op.fmt now.1) (redVal op.fmt r))) now.2.1 (redSilt k op || now.2.2)] ∧
      rawReg t .coRedIssued c = rawReg s .coRedIssued c + 1) ∧
  (∀ (i : CoreId → RedOp → Instr) (mx : Bool) (c : CoreId) (op : RedOp) (s : State),
    let k := getCore s c
    let now := accNow k op.acc
    let f := if mx then fmax2 else fmin2
    let r := redOf f (redBig op.fmt mx) ((redEls k op).map (fun x => match x with
      | some e => e.2
      | none => redBig op.fmt mx))
    (i, mx) ∈ [(Instr.reduceMax, true), (.reduceMin, false)] → coreRuns s c = true → Completes (i c op) s fun t =>
      VecDue s t c 8 [if op.init then .acc op.acc (redWord op.fmt r) 0 (redSilt k op)
        else .acc op.acc (redWord op.fmt (f (redVal op.fmt now.1) r)) now.2.1 (redSilt k op || now.2.2)] ∧
      rawReg t .coRedIssued c = rawReg s .coRedIssued c + 1) ∧
  (∀ (c : CoreId) (op : RedOp) (s : State),
    let k := getCore s c
    let now := accNow k op.acc
    let r := lseOf ((redEls k op).map (fun x => x.map Prod.snd))
    let b := lseFold (fp32Val now.1, fp32Val now.2.1) r
    coreRuns s c = true → Completes (.reduceLogSumExp c op) s fun t =>
      VecDue s t c 8 [if op.init then .acc op.acc (fp32Of r.1) (fp32Of r.2) (redSilt k op)
        else .acc op.acc (fp32Of b.1) (fp32Of b.2) (redSilt k op || now.2.2)] ∧
      rawReg t .coRedIssued c = rawReg s .coRedIssued c + 1) ∧
  (∀ (f : FV → FV → FV) (d a b c e : FV), redOf f d [a, b, c, e] = f (f a b) (f c e))

/-- R126: an argmax counts the index of element e from the base index of its instruction, and among equal maxima the lowest index
wins, within a register and in the fold. -/
def Obligations.ArgmaxIndexes : Prop :=
  (∀ (c : CoreId) (op : RedOp) (s : State),
    let k := getCore s c
    let now := accNow k op.acc
    let none_ : FV × Nat := (redBig op.fmt true, 0xFFFFFFFF)
    let r := redOf argBetter none_ ((redEls k op).map (fun x => match x with
      | some e => (e.2, (op.base.toNat + e.1) % 2 ^ 32)
      | none => none_))
    let b := argBetter (redVal op.fmt now.1, now.2.1.toNat) r
    coreRuns s c = true → Completes (.reduceArgmax c op) s fun t =>
      VecDue s t c 8 [if op.init then .acc op.acc (redWord op.fmt r.1) (w32 r.2) (redSilt k op)
        else .acc op.acc (redWord op.fmt b.1) (w32 b.2) (redSilt k op || now.2.2)] ∧
      rawReg t .coRedIssued c = rawReg s .coRedIssued c + 1) ∧
  (∀ (x y : FV) (i j : Nat), x.isNaN = false → y.isNaN = false → x.lt y = false → y.lt x = false →
    (argBetter (x, i) (y, j)).2 = min i j)

/-- R36-R39, R45: a microscaling element is its element value times two to the power of its block's scale byte less 127, and NaN
where that byte is 0xFF; a G12 element likewise, by its bias byte. An MXINT8 element of −128 reads as −2.0, no conversion produces
it, and conversions saturate to ±127. Every NaN converts to its format's canonical one, a block with a NaN gets the scale byte
0xFF, and no payload is carried. A NaN factor makes a product and every sum NaN; infinity times zero is NaN. -/
def Obligations.NumberFormats : Prop :=
  (∀ (f : Fmt) (b x : Nat), f = .mxfp6 ∨ f = .mxfp4 ∨ f = .mxint8 →
    (x < 255 → (decodeElem f b x).isFinite = true ∧ decodeElem f b x = (decodeElem f b 127).scale ((x : Int) - 127)) ∧
    decodeElem f b 255 = .nan) ∧
  (∀ b x : Nat, (x < 255 → decodeElem .g12 b x = (fDecode ⟨6, 5, 31, 62, 31, true⟩ b).scale ((x : Int) - 127)) ∧
    decodeElem .g12 b 255 = .nan) ∧
  decodeElem .mxint8 0x80 127 = .num true 128 (-6) ∧
  (∀ (k : Ctl) (r : Nat) (v : FV), k.fmt = .mxint8 →
    (encodeElem k r v).bits < 256 ∧ (encodeElem k r v).bits ≠ 0x80 ∧
    (∀ (n : Bool) (m : Nat) (e : Int), v = .num n m e → 127 < roundMag k.rnd r m e (-6) →
      (encodeElem k r v).bits = if n then 0x81 else 0x7F)) ∧
  (∀ (k : Ctl) (r : Nat),
    (k.fmt = .fp32 → (encodeElem k r .nan).bits = 0x7FC00000) ∧ (k.fmt = .bf16 → (encodeElem k r .nan).bits = 0x7FC0) ∧
    (k.fmt = .fp16 → (encodeElem k r .nan).bits = 0x7E00) ∧ (k.fmt = .e4m3 → (encodeElem k r .nan).bits = 0x7F) ∧
    (k.fmt = .e5m2 → (encodeElem k r .nan).bits = 0x7E) ∧ (k.fmt = .g12 → (encodeElem k r .nan).bits = 0x7F0)) ∧
  (∀ (k : Ctl) (vs : List FV), k.fmt = .mxfp6 ∨ k.fmt = .mxfp4 ∨ k.fmt = .mxint8 → FV.nan ∈ vs → blockField k vs = 0xFF) ∧
  (∀ w : W32, (fp32Val w).isNaN = true → fp32Of (fp32Val w) = 0x7FC00000#32) ∧
  (∀ v : FV, FV.nan.mul v = .nan ∧ v.mul .nan = .nan) ∧
  (∀ (a b : Bool) (e : Int), (FV.inf a).mul (.num b 0 e) = .nan ∧ (FV.num b 0 e).mul (.inf a) = .nan) ∧
  (∀ (acc : FV) (ps : List (FV × FV)), (acc = .nan ∨ ∃ p ∈ ps, p.1 = .nan ∨ p.2 = .nan) → dotAcc false acc ps = .nan)

/-- R330, R331, R427: a payload flit in order is taken and its ack frees flits; one that fails its FEC or CRC is counted and
starts a discard with a request for a replay; a replay sends every kept flit again and is counted, the 16th in succession from one
flit starting a recovery; an idle flit carries the last number received in order. Model's choices in it: log entry 9. -/
def Obligations.FlitsAndReplays : Prop :=
  (∀ (f : RxFlit) (s : State), linkUp s = true → f.fec ≠ .failed → f.crc.toNat = crc32 f → f.kind = .payload →
    f.fseq.toNat = (s.bv.rxSeq + 1) % 1024 → Completes (.flitReceive f) s fun t =>
      t.bv = { s.bv with rxSeq := f.fseq.toNat, discarding := false, kept := (ackFlits s.bv f.ack.toNat).kept } ∧
      rawReg t .lkBvCrcErr 0 = rawReg s .lkBvCrcErr 0 + BitVec.ofNat 32 ((flitTypes f).filter reservedType).length ∧
      (f.fec = .corrected → rawReg t .lkBvFecCorr 0 = rawReg s .lkBvFecCorr 0 + 1) ∧
      OnlyRegs s t [.lkBvCrcErr, .lkBvFecCorr] ∧ t = { s with bv := t.bv, regs := t.regs }) ∧
  (∀ (f : RxFlit) (s : State), linkUp s = true → (f.fec = .failed ∨ f.crc.toNat ≠ crc32 f) → Completes (.flitReceive f) s fun t =>
      t.bv.discarding = true ∧ t.bv.rxSeq = s.bv.rxSeq ∧ t.bv.tx = s.bv.tx ++ [.replayReq s.bv.rxSeq] ∧
      rawReg t .lkBvCrcErr 0 = rawReg s .lkBvCrcErr 0 + 1 ∧ OnlyRegs s t [.lkBvCrcErr, .lkBvFecCorr] ∧ t.mem = s.mem ∧
      t.cores = s.cores ∧ t.head = s.head ∧ t.boot = s.boot) ∧
  (∀ (ack : BitVec 10) (s : State), linkUp s = true →
    let b := ackFlits s.bv ack.toNat
    Completes (.replayRequest ack) s fun t =>
      (b.kept = [] → t = { s with bv := b }) ∧
      (∀ x rest, b.kept = x :: rest →
        let n := if s.bv.replays ≠ 0 ∧ s.bv.replayAt = x then s.bv.replays + 1 else 1
        t.bv = { b with replays := n, replayAt := x, tx := s.bv.tx ++ (x :: rest).map BvMsg.replay } ∧
        rawReg t .lkBvReplay 0 = rawReg s .lkBvReplay 0 + BitVec.ofNat 32 (rest.length + 1) ∧
        (rawReg t .lkBvEvent 0).getLsbD 0 = true ∧ OnlyRegs s t [.lkBvReplay, .lkBvEvent] ∧
        t.boot = (if 16 ≤ n then { s.boot with bvState := 6 } else s.boot) ∧
        t = { s with bv := t.bv, regs := t.regs, boot := t.boot })) ∧
  (∀ (ack : BitVec 10) (pre post : List Nat) (s : State), s.bv.kept = pre ++ ack.toNat :: post → ack.toNat ∉ pre →
    (ackFlits s.bv ack.toNat).kept = post) ∧
  (∀ s : State, linkUp s = true → Completes .idleFlitSend s fun t =>
      t.bv.tx = s.bv.tx ++ [.idle s.bv.rxSeq] ∧ t.bv.rxSeq = s.bv.rxSeq ∧ t = { s with bv := t.bv, pow := { s.pow with events := t.pow.events } }) ∧
  (∀ s : State, s.boot.bvState = 6 → Completes (.linkRecovery true) s fun t =>
      t.boot.bvState = 5 ∧ t.bv.tx = s.bv.tx ++ s.bv.kept.map BvMsg.replay ∧
      getBits (rawReg t .lkBvRecover 0) 0 16 = min 65535 (getBits (rawReg s .lkBvRecover 0) 0 16 + 1) ∧
      (rawReg t .lkBvEvent 0).getLsbD 1 = true ∧ OnlyRegs s t [.lkBvRecover, .lkBvEvent, .lkBvReplay] ∧
      t = { s with bv := t.bv, regs := t.regs, boot := t.boot }) ∧
  (∀ s : State, s.boot.bvState = 6 → Completes (.linkRecovery false) s fun t =>
      t.boot.bvState = 1 ∧ t.boot.bvWidth = 0 ∧ t.boot.bvTries = 0 ∧ t.boot.readyPin = false ∧
      (rawReg t .lkBvEvent 0).getLsbD 1 = true ∧ OnlyRegs s t [.lkBvRecover, .lkBvEvent] ∧
      t = { s with bv := t.bv, regs := t.regs, boot := t.boot }) ∧
  (∀ (ok : Bool) (s : State), s.boot.bvState ≠ 6 → Completes (.linkRecovery ok) s fun t => t = s) ∧
  (∀ (lanes inv : BitVec 16) (rev : Bool) (s : State), 2 ≤ s.boot.phase → (getRegion s 77).out = true → s.clk.refPresent = true →
    companionUp s = false → s.boot.bvTries < 3 → Completes (.linkRetrain lanes rev inv) s fun t =>
      rawReg t .lkBvLanes 0 = w32 (lanes.toNat + 65536 * inv.toNat) ∧ t.boot.bvTries = s.boot.bvTries + 1 ∧
      t.boot.bvWidth = bvWidthOf lanes.toNat ∧ t.boot.bvReversed = rev ∧
      (s.boot.bvTries = 0 → (rawReg t .lkBvEvent 0).getLsbD 2 = true ∧
        getBits (rawReg t .lkBvRecover 0) 16 16 = min 65535 (getBits (rawReg s .lkBvRecover 0) 16 16 + 1)) ∧
      (bvWidthOf lanes.toNat = 0 → t.bv = s.bv ∧ t.boot.bvState = if s.boot.bvTries = 2 then 7 else 1) ∧
      (bvWidthOf lanes.toNat ≠ 0 → t.boot.bvState = 5 ∧ t.bv.tx = s.bv.tx ++ s.bv.kept.map BvMsg.replay) ∧
      t.mem = s.mem ∧ t.cores = s.cores)

/-- R337-R341, Table HGM-3: the companion reads one word of the control space, takes lines of the shared window clean or to own,
gives them back with or without their data, and gets BAD_COMMAND for anything else; a silted line is answered by POISON_CONSUMED;
each message's credit returns. Model's choices in it: log entries 9, 12. -/
def Obligations.CompanionReadsAndLines : Prop :=
  (∀ (tag : BitVec 11) (line : BitVec 42) (idx : Nat) (x : W32) (s : State), linkUp s = true → line.toNat / 2 ^ 38 = 2 → idx ≤ 15 →
    ctlRead (took s 0 1 1) (line.toNat % 2 ^ 38 * 64 + 4 * idx) = some x → Completes (.rd tag line idx) s fun t =>
      Answered s t (.credit 1 0 0 0) (.cplData tag.toNat (wordLine idx x)) ∧ t.mem = s.mem ∧ t.cores = s.cores ∧ t.regs = s.regs ∧
      t.head = s.head) ∧
  (∀ (tag : BitVec 11) (line : BitVec 42) (idx : Nat) (s : State), linkUp s = true → (line.toNat / 2 ^ 38 ≠ 2 ∨ 15 < idx) →
    Completes (.rd tag line idx) s fun t =>
      Answered s t (.credit 1 0 0 0) (.cpl tag.toNat 0x12) ∧ t = { s with bv := t.bv, pow := { s.pow with events := t.pow.events } }) ∧
  (∀ (i : BitVec 11 → BitVec 42 → Instr) (d : DirSt) (tag : BitVec 11) (line : BitVec 42) (s : State),
    let g := line.toNat
    let bs := mreads s.mem (g * 64) 64
    (i, d) ∈ [(Instr.rdShared, DirSt.shared), (.rdOwn, .modified)] → linkUp s = true → snoopOf s g = none → s.upset = [] →
    Completes (i tag line) s fun t =>
      (inShared s (g * 64) = true → dirOfLine s g ≠ some .modified → isSilt bs = false →
        Answered s t (.credit 1 0 0 0) (.cplData tag.toNat bs) ∧ dirOfLine t g = some d ∧ ∀ x, x ≠ g → dirOfLine t x = dirOfLine s x) ∧
      (inShared s (g * 64) = true → dirOfLine s g ≠ some .modified → isSilt bs = true →
        Answered s t (.credit 1 0 0 0) (.cpl tag.toNat 0x05) ∧ t.bv.dir = s.bv.dir) ∧
      ((inShared s (g * 64) = false ∨ dirOfLine s g = some .modified) →
        Answered s t (.credit 1 0 0 0) (.cpl tag.toNat 0x12) ∧ t.bv.dir = s.bv.dir) ∧
      t = { s with bv := t.bv, pow := { s.pow with events := t.pow.events } }) ∧
  (∀ (i : BitVec 11 → BitVec 42 → Instr) (tag : BitVec 11) (line : BitVec 42) (x : Snoop) (s : State),
    i ∈ [Instr.rdShared, .rdOwn] → snoopOf s line.toNat = some x → Completes (i tag line) s fun t => t = s) ∧
  (∀ (tag : BitVec 11) (line : BitVec 42) (s : State), linkUp s = true → Completes (.evict tag line) s fun t =>
      (inShared s (line.toNat * 64) = true → Answered s t (.credit 1 0 0 0) (.cpl tag.toNat 0x00) ∧ dirOfLine t line.toNat = none ∧
        ∀ x, x ≠ line.toNat → dirOfLine t x = dirOfLine s x) ∧
      (inShared s (line.toNat * 64) = false → Answered s t (.credit 1 0 0 0) (.cpl tag.toNat 0x12) ∧ t.bv.dir = s.bv.dir) ∧
      t = { s with bv := t.bv, pow := { s.pow with events := t.pow.events } }) ∧
  (∀ (tag : BitVec 11) (line : BitVec 42) (data : List Byte) (s : State), linkUp s = true → Completes (.writeback tag line data) s fun t =>
      (inShared s (line.toNat * 64) = true → data.length = 64 → dirOfLine s line.toNat = some .modified →
        Answered s t (.credit 0 0 0 1) (.cpl tag.toNat 0x00) ∧ MemStored s t (line.toNat * 64) data ∧ dirOfLine t line.toNat = none) ∧
      ((inShared s (line.toNat * 64) = false ∨ data.length ≠ 64 ∨ dirOfLine s line.toNat ≠ some .modified) →
        Answered s t (.credit 0 0 0 1) (.cpl tag.toNat 0x12) ∧ t.mem = s.mem ∧ t.bv.dir = s.bv.dir) ∧
      t.cores = s.cores ∧ OnlyRegs s t [.bsPoolInval] ∧ Elsewhere s t)

/-- R135, R159-R164, R339, R340: a companion write of whole lines lands where a window or range of a scratchpad admits it, and a
masked one waits for its bank, which reads the row and merges it; a refused one is counted and writes nothing; a masked write of
one word of the control space writes its register; anything else is BAD_COMMAND. Model's choices in it: log entry 45. -/
def Obligations.CompanionWrites : Prop :=
  (∀ (tag : BitVec 11) (line : BitVec 42) (data : List Byte) (c off n g : Nat) (k : Core) (s : State), linkUp s = true →
    placeOf (line.toNat * 64) = .spad c off → data.length = 64 * n → 1 ≤ n → n ≤ 8 → sinkActive s c = false →
    compAdmit s c (off / 64) n = .ok (g, k) → g + n ≤ spadBytes / 64 → (getCore s c).port = BankPort.reset →
    BanksApart s ((List.range n).map (fun i => spadBase c / 64 + g + i)) → (∀ x, furrowBusy s x = false) →
    Completes (.wr tag line data) s fun t =>
      MemStored s t (spadBase c + 64 * g) data ∧
      getCore t c = { k with port := (getCore t c).port, wins := (getCore t c).wins } ∧
      (∀ x, (tget (getCore t c).wins x).map (fun w => { w with landed := [] }) = (tget k.wins x).map (fun w => { w with landed := [] })) ∧
      (∀ kind x rest, windowAt s c (off / 64) = some (kind, x, rest) → ∀ y, (kind ≠ 1 ∨ y ≠ x) →
        tget (getCore t c).wins y = tget k.wins y) ∧ OnlyCore s t c ∧
      Answered s t (.credit 0 0 0 n) (.cpl tag.toNat 0x00) ∧ t.regs = s.regs ∧ EnginesSame s t ∧ Elsewhere s t) ∧
  (∀ (tag : BitVec 11) (line : BitVec 42) (data : List Byte) (c off n : Nat) (st : St) (s : State), linkUp s = true →
    placeOf (line.toNat * 64) = .spad c off → data.length = 64 * n → 1 ≤ n → n ≤ 8 → sinkActive s c = false →
    compAdmit s c (off / 64) n = .error st → Completes (.wr tag line data) s fun t =>
      t.mem = s.mem ∧ t.cores = s.cores ∧ Answered s t (.credit 0 0 0 n) (.cpl tag.toNat st.code) ∧
      (rawReg t .bsSpEvent c).getLsbD 2 = true ∧ OnlyRegs s t [.bsSpWinRefused, .bsSpCredRefused, .bsSpEvent] ∧ EnginesSame s t) ∧
  (∀ (c gran n : Nat) (s : State), windowAt s c gran = none → compAdmit s c gran n = .error .windowViolation) ∧
  (∀ (tag : BitVec 11) (line : BitVec 42) (data : List Byte) (s : State), linkUp s = true →
    (∀ c off, placeOf (line.toNat * 64) ≠ .spad c off) → Completes (.wr tag line data) s fun t =>
      Answered s t (.credit 0 0 0 (data.length / 64)) (.cpl tag.toNat 0x12) ∧
      t = { s with bv := t.bv, pow := { s.pow with events := t.pow.events } }) ∧
  (∀ (tag : BitVec 11) (line : BitVec 42) (mask : W64) (data : List Byte) (c off g : Nat) (k : Core) (s : State), linkUp s = true →
    placeOf (line.toNat * 64) = .spad c off → mask ≠ 0 → data.length = 64 → sinkActive s c = false → s.upset = [] →
    compAdmit s c (off / 64) 1 = .ok (g, k) → Completes (.wrPart tag line mask data) s fun t =>
      let gr := spadBase c / 64 + g
      let old := mreads s.mem (gr * 64) 64
      (isSilt old = false → bankFree (setCore s c k) (.spad c) gr = true → ⟨gr, mask, data, [], false⟩ ∉ k.partials →
        getCore t c = { k with partials := k.partials ++ [⟨gr, mask, data, mergeMask mask old data, true⟩],
                                 port := { k.port with reads := k.port.reads ++ [gr] } }) ∧
      (isSilt old = false → bankFree (setCore s c k) (.spad c) gr = false →
        getCore t c = { k with partials := k.partials ++ [⟨gr, mask, data, [], false⟩] }) ∧
      (isSilt old = false → Answered s t (.credit 0 0 0 1) (.cpl tag.toNat 0x00)) ∧
      (isSilt old = true → getCore t c = k ∧ Answered s t (.credit 0 0 0 1) (.cpl tag.toNat 0x05)) ∧
      t.mem = s.mem ∧ OnlyCore s t c ∧ OnlyRegs s t [.bsSpEvent] ∧ EnginesSame s t ∧ Elsewhere s t) ∧
  (∀ (tag : BitVec 11) (line : BitVec 42) (mask : W64) (data : List Byte) (off w u e : Nat) (r : Reg) (s : State), linkUp s = true →
    placeOf (line.toNat * 64) = .ctl off → maskWord mask = some w → Reg.ofAddr (off + 4 * w) = some (r, u, e) →
    r ∈ [Reg.bsSpEvent, .coSchWaitLimit, .coVecEvent, .bsEccEvent, .hbEvent, .pwVset, .lkBvEvent] →
    Completes (.wrPart tag line mask data) s fun t =>
      rawReg t r u e = writeBits r (rawReg s r u e) (w32 (leNat ((data.drop (4 * w)).take 4))) ∧ OnlyReg s t r u e ∧
      Answered s t (.credit 0 0 0 1) (.cpl tag.toNat 0x00) ∧
      t = { s with regs := t.regs, bv := t.bv, pow := { s.pow with events := t.pow.events } })

/-- R329, R334, R337, R338, R348: an answered snoop ends, its line no longer owned, its data in memory for a read; one unanswered
for 1 ms leaves silt; a completion acknowledges a device write or ends the task of a refused read; read data reach companion
memory as the device sees it; credits are added, and what waited for them leaves. Model's choices in it: log entries 9, 12. -/
def Obligations.SnoopsAndCompletions : Prop :=
  (∀ (tag : BitVec 11) (st : Byte) (x : Snoop) (s : State), linkUp s = true → s.bv.wait = [] → s.bv.snoops.find? (fun y => y.tag == tag.toNat) = some x →
    Completes (.snpRsp tag st) s fun t =>
      (x.what = .probe → NoWaiter s x.tag → dirOfLine t x.line = none ∧
        t.bv.snoops = s.bv.snoops.filter (fun y => y.tag ≠ x.tag) ∧ t.mem = s.mem ∧
        t.bv.asked = s.bv.asked.filter (fun y => y.1 ≠ x.tag) ∧ t.bv.tx = s.bv.tx ++ [.credit 0 1 0 0] ∧
        t = { s with bv := t.bv, pow := { s.pow with events := t.pow.events } }) ∧
      (∀ data, x.what = .write data none → ∀ n, data.length = 64 * n → dirOfLine t x.line = none ∧ MemStored s t (x.line * 64) data)) ∧
  (∀ (tag : BitVec 11) (data : List Byte) (x : Snoop) (s : State), linkUp s = true → s.bv.wait = [] →
    s.bv.snoops.find? (fun y => y.tag == tag.toNat) = some x → x.what = .probe → NoWaiter s x.tag →
    Completes (.snpRspData tag data) s fun t =>
      (dirOfLine s x.line = some .modified → data.length = 64 → MemStored s t (x.line * 64) data ∧ dirOfLine t x.line = some .shared) ∧
      (dirOfLine s x.line ≠ some .modified → t.mem = s.mem ∧ dirOfLine t x.line = none) ∧
      t.bv.snoops = s.bv.snoops.filter (fun y => y.tag ≠ x.tag) ∧ t.bv.tx = s.bv.tx ++ [.credit 0 0 0 1] ∧ t.cores = s.cores ∧
      OnlyRegs s t [.bsPoolInval] ∧ Elsewhere s t) ∧
  (∀ (line : BitVec 42) (x : Snoop) (s : State), snoopOf s line.toNat = some x → x.sent + msCycles 1 ≤ hgNow s → x.what = .probe →
    NoWaiter s x.tag → s.head.reload ≠ 2 → Completes (.snoopTimeout line) s fun t =>
      MemStored s t (line.toNat * 64) siltBytes ∧ dirOfLine t line.toNat = none ∧ (rawReg t .lkBvEvent 0).getLsbD 3 = true ∧
      Reported t 0x0014 0 none 0 line.toNat ∧ t.bv.snoops = s.bv.snoops.filter (fun y => y.tag ≠ x.tag) ∧ t.cores = s.cores ∧
      OnlyRegs s t [.bsPoolInval, .lkBvEvent] ∧ Elsewhere s t) ∧
  (∀ (line : BitVec 42) (s : State), (∀ x, snoopOf s line.toNat = some x → hgNow s < x.sent + msCycles 1) →
    Completes (.snoopTimeout line) s fun t => t = s) ∧
  (∀ (tag : BitVec 11) (st : Byte) (s : State), linkUp s = true → s.bv.wait = [] → (∀ r ∈ s.bv.reads, r.1 ≠ tag.toNat) →
    Completes (.cpl tag st) s fun t =>
      t.bv.writes = s.bv.writes.filter (fun w => w.1 ≠ tag.toNat) ∧ t.bv.tx = s.bv.tx ++ [.credit 0 1 0 0] ∧
      t = { s with bv := t.bv, pow := { s.pow with events := t.pow.events } }) ∧
  (∀ (tag : BitVec 11) (st : Byte) (r : Nat × Nat × Nat) (k : Task) (q : Sequ) (s : State), linkUp s = true →
    s.bv.reads.find? (fun r => r.1 == tag.toNat) = some r → TaskRuns s r.2.1 k q → Completes (.cpl tag st) s fun t =>
      TaskEnds t r.2.1 k q (stOfCode st.toNat) (3 * 2 ^ 38 + r.2.2) ∧ t.bv.reads = s.bv.reads.filter (fun r => r.1 ≠ tag.toNat) ∧
      t.mem = s.mem ∧ t.regs = s.regs) ∧
  (∀ (tag : BitVec 11) (data : List Byte) (r : Nat × Nat × Nat) (s : State), linkUp s = true → s.bv.wait = [] →
    s.bv.reads.find? (fun r => r.1 == tag.toNat) = some r → NoWaiter s tag.toNat → Completes (.cplData tag data) s fun t =>
      MemStored s t (3 * 2 ^ 44 + 64 * r.2.2) data ∧ t.bv.reads = s.bv.reads.filter (fun r => r.1 ≠ tag.toNat) ∧
      t.bv.tx = s.bv.tx ++ [.credit 0 0 0 ((data.length + 63) / 64)] ∧
      t = { s with mem := t.mem, bv := t.bv, pow := { s.pow with events := t.pow.events } }) ∧
  (∀ (req rsp snp : Byte) (dat : BitVec 12) (s : State), linkUp s = true → Completes (.credit req rsp snp dat) s fun t =>
      (s.bv.wait = [] → t.bv = { s.bv with credReq := s.bv.credReq + req.toNat, credRsp := s.bv.credRsp + rsp.toNat, credSnp := s.bv.credSnp + snp.toNat, credDat := s.bv.credDat + dat.toNat }) ∧
      (∀ tg st, s.bv.wait = [.cpl tg st] → 1 ≤ s.bv.credRsp + rsp.toNat → bvRoom s.bv (.cpl tg st) = true →
        t.bv.tx = s.bv.tx ++ [.cpl tg st] ∧ t.bv.wait = [] ∧ t.bv.credRsp = s.bv.credRsp + rsp.toNat - 1) ∧ t = { s with bv := t.bv })

/-- R442, R471, R472: a port trains at full width, or at half width with a report; the fourth attempt that fails leaves it down
and reported; more than 16 uncorrectable codewords in 1 ms take it down to train again. R164, R308, R398, R472, R473: a received
packet that no target takes is dropped and counted on its context; one for a sluice window lands at the context's place there; a
packet that the partition may export leaves on a port that is up, with its timestamp, or is held with its core; one it may not
export ends the sender's sequence, and so does silt. Model's choices in it: log entries 47, 67. -/
def Obligations.EthernetPorts : Prop :=
  ((∀ (p : PortId) (lanes : Byte) (kr : Bool) (s : State),
     let v := getPort s p
     let w := ethWidthOf (lanesWithout lanes.toNat (fallowLanes s p))
     (getRegion s 76).out = true → s.clk.refPresent = true → s.boot.expected.testBit p = true → v.st ≠ 0 → v.st ≠ 3 → v.st ≠ 5 →
     v.tries < 4 → s.head.reload ≠ 2 → Completes (.ethernetPortTraining p lanes kr) s fun t =>
       (w ≠ 0 → (getPort t p).st = 3 ∧ (getPort t p).width = w ∧ (getPort t p).kr = kr ∧ (getPort t p).tries = v.tries + 1 ∧
         (getPort t p).degraded = decide (w ≠ 3) ∧ (w ≠ 3 → (rawReg t .lkEthEvent p).getLsbD 1 = true ∧ Reported t 0x0019 0x0E none p w)) ∧
       (w = 0 → v.tries < 3 → getPort t p = { v with st := 1, width := 0, tries := v.tries + 1, kr := kr, degraded := false, lanes := lanesWithout lanes.toNat (fallowLanes s p) } ∧
         t = { s with ports := t.ports }) ∧
       (w = 0 → v.tries = 3 → (getPort t p).st = 4 ∧ (rawReg t .hgBootEvent 0).getLsbD 2 = true ∧ Reported t 0x0019 0 none p 0) ∧
       (∀ q, q ≠ (p : Nat) → getPort t q = getPort s q) ∧ t.mem = s.mem ∧ OnlyRegs s t [.lkEthEvent, .hgBootEvent] ∧
       (s.conns = [] → t.cores = s.cores) ∧ t.clk = s.clk) ∧
   (∀ (p : PortId) (n : Nat) (s : State), (getPort s p).st = 3 → s.head.reload ≠ 2 → Completes (.ethFecLimit p n) s fun t =>
       rawReg t .lkEthFecUncorr p = rawReg s .lkEthFecUncorr p + BitVec.ofNat 32 n ∧
       (n ≤ 16 → OnlyReg s t .lkEthFecUncorr p 0 ∧ t = { s with regs := t.regs }) ∧
       (16 < n → getPort t p = { getPort s p with st := 4, width := 0, tries := 0, degraded := false, lanes := 0 } ∧
         (rawReg t .lkEthEvent p).getLsbD 0 = true ∧ (rawReg t .lkEthEvent p).getLsbD 2 = true ∧ Reported t 0x0019 0 none p 0 ∧
         t.boot = { s.boot with fullPorts := markFull s.boot p false } ∧
         OnlyRegs s t [.lkEthFecUncorr, .lkEthEvent] ∧ t = { s with regs := t.regs, ports := t.ports, head := t.head, boot := t.boot })) ∧
   (∀ (p : PortId) (n : Nat) (s : State), (getPort s p).st ≠ 3 → Completes (.ethFecLimit p n) s fun t => t = s)) ∧
  ((∀ (p : PortId) (n : Nat) (data : List Byte) (v : Conn) (s : State), portUp s p = true → n < 8192 → getConn s n = some v →
     connTarget s n = none → Completes (.ethPacketReceive p n data) s fun t =>
       getConn t n = some { v with rx := v.rx ++ [((p : Nat), ethCount s p)], dropped := v.dropped + 1 } ∧
       t = { s with conns := t.conns, pow := { s.pow with events := t.pow.events } }) ∧
   (∀ (p : PortId) (n c index g : Nat) (data : List Byte) (v : Conn) (w : Window) (s : State),
     let off := if w.size < v.off + g then 0 else v.off
     let buf := fun (i : Nat) => if w.ring = 0 then 0 else (off + i) / (w.size / w.ring)
     portUp s p = true → n < 8192 → getConn s n = some v → v.isOpen = true → connTarget s n = some (c, 1, index) →
     corePart s c = some v.part → data.length = 64 * g → 0 < g → sinkActive s c = false → tget (getCore s c).wins index = some w →
     w.isOpen = true → w.wr = true → srcAdmits s c w.kind w.srcId (.conn n) = true → g ≤ w.size → g ≤ 32 →
     w.base + w.size ≤ spadBytes / 64 → (getCore s c).port = BankPort.reset →
     BanksApart s ((List.range g).map (fun i => spadBase c / 64 + (w.base + off) + i)) → (∀ x, furrowBusy s x = false) → Completes (.ethPacketReceive p n data) s fun t =>
       MemStored s t (spadBase c + 64 * (w.base + off)) data ∧
       getCore t c = { getCore s c with
         port := (getCore t c).port, wins := tput (getCore s c).wins index { w with landed := (List.range g).foldl (fun t i => tmod t (buf i) 0 (· + 64)) w.landed } } ∧
       getConn t n = some { v with rx := v.rx ++ [((p : Nat), ethCount s p)], off := off + g } ∧ OnlyCore s t c ∧
       OnlyRegs s t [.cnRtDataFlits, .cnRtCtlFlits] ∧ EnginesSame s t ∧ t.ports = s.ports ∧
       t.clk = { s.clk with crossings := t.clk.crossings }) ∧
   (∀ (p : PortId) (n : Nat) (data : List Byte) (s : State), portUp s p = false ∨ 8192 ≤ n →
     Completes (.ethPacketReceive p n data) s fun t => t = s) ∧
   (∀ (p : PortId) (n bytes part : Nat) (a : Addr) (s : State), bytes ≠ 0 → n < 8192 → ringFenced s n = false →
     (∀ c, sendCore a.toNat = some c → coreRuns s c = true) →
     sendPart s a.toNat n bytes = some part → partAllows s part .exp a.toNat bytes = true → connFree s n part = true → s.upset = [] →
     siltIn s a.toNat bytes = false → Completes (.ethPacketSend p n a bytes) s fun t =>
       let v := connFor s n part
       (∀ q, sendPort s v (some p) = some q →
         getConn t n = some { v with tx := v.tx ++ [(q, ethCount s q, mreads s.mem a.toNat bytes)] } ∧ t.cores = s.cores) ∧
       (sendPort s v (some p) = none →
         getConn t n = some { v with held := v.held ++ [(sendCore a.toNat, mreads s.mem a.toNat bytes)] } ∧
         ∀ c, sendCore a.toNat = some c → (getCore t c).credit.any (·.cause = .injection) = true) ∧
       Charged s t ∧ t = { s with conns := t.conns, cores := t.cores, head := t.head, pow := { s.pow with events := t.pow.events } }) ∧
   (∀ (p : PortId) (n bytes part c : Nat) (a : Addr) (k : Task) (q : Sequ) (s : State), bytes ≠ 0 → n < 8192 → ringFenced s n = false →
     sendCore a.toNat = some c → coreRuns s c = true → sendPart s a.toNat n bytes = some part → TaskRuns s c k q →
     Completes (.ethPacketSend p n a bytes) s fun t =>
       (partAllows s part .exp a.toNat bytes = false → TaskEnds t c k q .windowViolation (a.toNat / 64) ∧ t.mem = s.mem ∧
         t.conns = s.conns) ∧
       (∀ g, partAllows s part .exp a.toNat bytes = true → connFree s n part = true → s.upset = [] → siltIn s a.toNat bytes = true →
         ((List.range ((a.toNat + bytes - 1) / 64 - a.toNat / 64 + 1)).map (a.toNat / 64 + ·)).find?
           (fun g => isSilt (granuleBytes s g)) = some g →
         TaskEnds t c k q .poisonConsumed g ∧ t.mem = s.mem ∧ t.conns = s.conns)))
end

