-- ==== Sys2Proof/Laws/Tab.lean ====
section
/-!
SUPPORT. What a read of a finite table gives after each of its changes.
-/
namespace Sys2Proof.Machine

variable {α : Type}

@[simp] theorem tget_nil (k : Nat) : tget ([] : Tab α) k = none := rfl

@[simp] theorem tget_tput_self (t : Tab α) (k : Nat) (v : α) : tget (tput t k v) k = some v := by
  induction t with
  | nil => simp [tput, tget]
  | cons e t ih =>
    simp only [tput]
    split
    · simp [tget]
    · split
      · simp [tget]
      · simp [tget, *]

theorem tget_tput_ne (t : Tab α) (k : Nat) (v : α) {j : Nat} (h : j ≠ k) : tget (tput t k v) j = tget t j := by
  induction t with
  | nil => simp [tput, tget, h.symm]
  | cons e t ih =>
    simp only [tput]
    split
    · rename_i hk
      simp [tget, h.symm, hk]
    · split
      · simp [tget, h.symm]
      · simp [tget, ih]

theorem tget_tput (t : Tab α) (k j : Nat) (v : α) : tget (tput t k v) j = if j = k then some v else tget t j := by
  split
  · simp_all
  · exact tget_tput_ne t k v ‹_›

@[simp] theorem tgetD_tput_self (t : Tab α) (k : Nat) (v d : α) : tgetD (tput t k v) k d = v := by simp [tgetD]

theorem tgetD_tput_ne (t : Tab α) (k : Nat) (v d : α) {j : Nat} (h : j ≠ k) : tgetD (tput t k v) j d = tgetD t j d := by
  simp [tgetD, tget_tput_ne t k v h]

@[simp] theorem tget_tdel_self (t : Tab α) (k : Nat) : tget (tdel t k) k = none := by
  induction t with
  | nil => rfl
  | cons e t ih =>
    simp only [tdel]
    split
    · exact ih
    · simp [tget, *]

theorem tget_tdel_ne (t : Tab α) {k j : Nat} (h : j ≠ k) : tget (tdel t k) j = tget t j := by
  induction t with
  | nil => rfl
  | cons e t ih =>
    simp only [tdel]
    split
    · rename_i hk
      simp [tget, ih, hk, h.symm]
    · simp [tget, ih]

theorem tget_tfilter (p : Nat → Bool) (t : Tab α) (k : Nat) : tget (tfilter p t) k = if p k then tget t k else none := by
  induction t with
  | nil => simp [tfilter, tget]
  | cons e t ih =>
    simp only [tfilter, List.filter_cons] at ih ⊢
    by_cases hk : e.1 = k
    · by_cases hp : p k = true
      · simp [tget, hk, hp]
      · simp_all [tget]
    · by_cases hp : p e.1 = true
      · simp [tget, hk, hp, ih]
      · simp [tget, hk, hp, ih]

/-- Entries of `tput`: the new one, or one that stood before. -/
theorem mem_tput {t : Tab α} {k : Nat} {v : α} {e : Nat × α} (h : e ∈ tput t k v) : e = (k, v) ∨ e ∈ t := by
  induction t with
  | nil => simpa [tput] using h
  | cons x t ih =>
    simp only [tput] at h
    split at h
    · simp at h; rcases h with h | h <;> simp [h]
    · split at h
      · simp at h; rcases h with h | h | h <;> simp [h]
      · simp at h
        rcases h with h | h
        · simp [h]
        · rcases ih h with h | h <;> simp [h]

theorem mem_tdel {t : Tab α} {k : Nat} {e : Nat × α} (h : e ∈ tdel t k) : e ∈ t ∧ e.1 ≠ k := by
  induction t with
  | nil => simp [tdel] at h
  | cons x t ih =>
    simp only [tdel] at h
    split at h
    · exact ⟨List.mem_cons_of_mem _ (ih h).1, (ih h).2⟩
    · simp at h
      rcases h with h | h
      · subst h; simp [*]
      · exact ⟨List.mem_cons_of_mem _ (ih h).1, (ih h).2⟩


theorem rises_tdel {t : Tab α} (k : Nat) (h : t.Pairwise (fun a b => a.1 < b.1)) : (tdel t k).Pairwise (fun a b => a.1 < b.1) := by
  induction t with
  | nil => simp [tdel]
  | cons x t ih =>
    rw [List.pairwise_cons] at h
    simp only [tdel]
    split
    · exact ih h.2
    · rw [List.pairwise_cons]
      exact ⟨fun y hy => h.1 y (mem_tdel hy).1, ih h.2⟩

theorem rises_tput {t : Tab α} (k : Nat) (v : α) (h : t.Pairwise (fun a b => a.1 < b.1)) :
    (tput t k v).Pairwise (fun a b => a.1 < b.1) := by
  induction t with
  | nil => simp [tput]
  | cons x t ih =>
    have hx := List.pairwise_cons.1 h
    simp only [tput]
    split
    · rename_i hk
      rw [List.pairwise_cons]
      exact ⟨fun y hy => hk ▸ hx.1 y hy, hx.2⟩
    · split
      · rename_i hk
        rw [List.pairwise_cons]
        refine ⟨fun y hy => ?_, h⟩
        rcases List.mem_cons.1 hy with rfl | hy
        · exact hk
        · exact Nat.lt_trans hk (hx.1 y hy)
      · rw [List.pairwise_cons]
        refine ⟨fun y hy => ?_, ih hx.2⟩
        rcases mem_tput hy with rfl | hy
        · rename_i h1 h2; show x.1 < k; omega
        · exact hx.1 y hy

end Sys2Proof.Machine
end

