-- ==== Sys2Proof/Laws/Memory.lean ====
section
/-!
SUPPORT. Memory: a read after a write gives the byte written, a write leaves every other byte alone, and every operation keeps the
canonical form.
-/
namespace Sys2Proof.Machine

theorem knownBase_eq {fs : List Fill} {a : Nat} {b : Byte} (h : knownBase fs a = some b) : baseByte fs a = b := by
  unfold knownBase at h
  unfold baseByte
  cases hf : fillAt fs a with
  | none => simpa [hf] using h
  | some f =>
    rw [hf] at h
    cases hv : f.v <;> simp_all

@[simp] theorem mwrite_fills (m : Memory) (a : Nat) (b : Byte) : (mwrite m a b).fills = m.fills := by
  unfold mwrite; split <;> rfl

@[simp] theorem mread_mwrite_self (m : Memory) (a : Nat) (b : Byte) : mread (mwrite m a b) a = b := by
  unfold mwrite mread
  split
  · rename_i h; simp [knownBase_eq h]
  · simp

theorem mread_mwrite_ne (m : Memory) {a c : Nat} (b : Byte) (h : c ≠ a) : mread (mwrite m a b) c = mread m c := by
  unfold mwrite mread
  split
  · simp [tget_tdel_ne _ h]
  · simp [tget_tput_ne _ _ _ h]

theorem mwrite_wf {m : Memory} (a : Nat) (b : Byte) (h : m.wf = true) : (mwrite m a b).wf = true := by
  simp only [Memory.wf, Bool.and_eq_true, decide_eq_true_eq, List.all_eq_true] at h ⊢
  unfold mwrite
  split
  · exact ⟨rises_tdel a h.1, fun c hc => h.2 c (mem_tdel hc).1⟩
  · rename_i hb
    refine ⟨rises_tput a b h.1, fun c hc => ?_⟩
    rcases mem_tput hc with rfl | hc
    · exact hb
    · exact h.2 c hc

theorem mwrites_wf {m : Memory} (a : Nat) (bs : List Byte) (h : m.wf = true) : (mwrites m a bs).wf = true := by
  induction bs generalizing m a with
  | nil => exact h
  | cons b bs ih => exact ih (a + 1) (mwrite_wf a b h)

@[simp] theorem mwrites_fills (m : Memory) (a : Nat) (bs : List Byte) : (mwrites m a bs).fills = m.fills := by
  induction bs generalizing m a with
  | nil => rfl
  | cons b bs ih => simp [mwrites, ih]

@[simp] theorem mreads_length (m : Memory) (a n : Nat) : (mreads m a n).length = n := by
  induction n generalizing a with
  | zero => rfl
  | succ n ih => simp [mreads, ih]

/-- A run of writes leaves every byte outside it alone. -/
theorem mread_mwrites_outside (m : Memory) (a : Nat) (bs : List Byte) {c : Nat} (h : c < a ∨ a + bs.length ≤ c) :
    mread (mwrites m a bs) c = mread m c := by
  induction bs generalizing m a with
  | nil => rfl
  | cons b bs ih =>
    simp only [List.length_cons] at h
    rw [mwrites, ih _ _ (by omega), mread_mwrite_ne _ _ (by omega)]

/-- A run of writes gives the bytes written, at their places. -/
theorem mread_mwrites_inside (m : Memory) (a : Nat) (bs : List Byte) {i : Nat} (h : i < bs.length) :
    mread (mwrites m a bs) (a + i) = bs[i] := by
  induction bs generalizing m a i with
  | nil => simp at h
  | cons b bs ih =>
    cases i with
    | zero => rw [mwrites, mread_mwrites_outside _ _ _ (by omega)]; simp
    | succ i =>
      simp only [List.length_cons] at h
      have := ih (mwrite m a b) (a + 1) (i := i) (by omega)
      rw [mwrites, show a + (i + 1) = a + 1 + i by omega, this]; simp

theorem mreads_congr {m n : Memory} {a : Nat} (k : Nat) (h : ∀ c, a ≤ c → c < a + k → mread m c = mread n c) :
    mreads m a k = mreads n a k := by
  induction k generalizing a with
  | zero => rfl
  | succ k ih => rw [mreads, mreads, h a (by omega) (by omega), ih (fun c _ _ => h c (by omega) (by omega))]

/-- Read of a whole run just written. -/
@[simp] theorem mreads_mwrites (m : Memory) (a : Nat) (bs : List Byte) : mreads (mwrites m a bs) a bs.length = bs := by
  induction bs generalizing m a with
  | nil => rfl
  | cons b bs ih =>
    rw [List.length_cons, mreads, mwrites, ih, mread_mwrites_outside _ _ _ (by omega)]; simp

theorem mwrites_append (m : Memory) (a : Nat) (xs ys : List Byte) :
    mwrites m a (xs ++ ys) = mwrites (mwrites m a xs) (a + xs.length) ys := by
  induction xs generalizing m a with
  | nil => rfl
  | cons x xs ih => simp [mwrites, ih, Nat.add_assoc, Nat.add_comm 1]

/-- Outside the range of a fill, its fill decides no byte. -/
theorem fillAt_mfill_outside {m : Memory} {x y c : Nat} (v : FillV) (h : c < x ∨ y ≤ c) :
    fillAt (mfill m x y v).fills c = fillAt m.fills c := by
  have hf : ∀ fs : List Fill, (fs.filter (fun f => !(decide (x ≤ f.first) && decide (f.last ≤ y)))).find?
      (fun f => decide (f.first ≤ c ∧ c < f.last)) = fs.find? (fun f => decide (f.first ≤ c ∧ c < f.last)) := by
    intro fs
    induction fs with
    | nil => rfl
    | cons f fs ih =>
      by_cases hin : x ≤ f.first ∧ f.last ≤ y
      · have hno : decide (f.first ≤ c ∧ c < f.last) = false := by simp only [decide_eq_false_iff_not]; omega
        have hk : (!(decide (x ≤ f.first) && decide (f.last ≤ y))) = false := by simp [hin.1, hin.2]
        simp only [List.filter_cons, hk, List.find?_cons, hno, Bool.false_eq_true, if_false, ih]
      · have hk : (!(decide (x ≤ f.first) && decide (f.last ≤ y))) = true := by
          simp only [Bool.not_eq_true', Bool.and_eq_false_imp, decide_eq_true_eq, decide_eq_false_iff_not]; omega
        simp only [List.filter_cons, hk, List.find?_cons, if_true, ih]
  have hno : decide (x ≤ c ∧ c < y) = false := by simp only [decide_eq_false_iff_not]; omega
  simp only [fillAt, mfill, List.find?_cons, hno]
  exact hf m.fills

theorem tget_cells_outside (cs : List Host.Cell) {x y c : Nat} (h : c < x ∨ y ≤ c) :
    tget (cs.filter (fun e => !(decide (x ≤ e.1) && decide (e.1 < y)))) c = tget cs c := by
  have := tget_tfilter (fun a => !(decide (x ≤ a) && decide (a < y))) cs c
  rw [tfilter] at this
  rw [this, if_pos]
  simp only [Bool.not_eq_true', Bool.and_eq_false_imp, decide_eq_true_eq, decide_eq_false_iff_not]; omega

theorem mread_mfill_outside (m : Memory) {x y c : Nat} (v : FillV) (h : c < x ∨ y ≤ c) :
    mread (mfill m x y v) c = mread m c := by
  unfold mread baseByte
  rw [fillAt_mfill_outside v h, show (mfill m x y v).cells = m.cells.filter (fun e => !(decide (x ≤ e.1) && decide (e.1 < y))) from rfl,
    tget_cells_outside _ h]

/-- A zero fill reads as zero. -/
theorem mread_mfill_zero (m : Memory) {x y c : Nat} (h1 : x ≤ c) (h2 : c < y) : mread (mfill m x y .zero) c = 0 := by
  unfold mread baseByte
  have hc := tget_tfilter (fun a => !(decide (x ≤ a) && decide (a < y))) m.cells c
  rw [tfilter, if_neg (by simp [h1, h2])] at hc
  rw [show (mfill m x y .zero).cells = m.cells.filter (fun e => !(decide (x ≤ e.1) && decide (e.1 < y))) from rfl, hc]
  simp [fillAt, mfill, h1, h2]

theorem mfill_wf {m : Memory} (x y : Nat) (v : FillV) (h : m.wf = true) : (mfill m x y v).wf = true := by
  simp only [Memory.wf, Bool.and_eq_true, decide_eq_true_eq, List.all_eq_true] at h ⊢
  refine ⟨h.1.filter _, fun c hc => ?_⟩
  have hm : c ∈ m.cells.filter (fun e => !(decide (x ≤ e.1) && decide (e.1 < y))) := hc
  rw [List.mem_filter] at hm
  have ho : c.1 < x ∨ y ≤ c.1 := by
    have := hm.2
    simp only [Bool.not_eq_true', Bool.and_eq_false_imp, decide_eq_true_eq, decide_eq_false_iff_not] at this; omega
  unfold knownBase
  rw [fillAt_mfill_outside v ho]
  exact h.2 c hm.1

end Sys2Proof.Machine
end

