-- ==== Sys2Proof/Laws/State.lean ====
section
/-!
SUPPORT. What each update of the state does to each field and to each named read: the field it sets, and every other field as it
was.
-/
namespace Sys2Proof.Machine

variable (s : State)

section

variable (r : Reg) (u : Nat) (v : W32) (w : Nat)

@[simp] theorem setReg_pending : (setReg s r u v w).pending = s.pending := rfl
@[simp] theorem setReg_fresh : (setReg s r u v w).fresh = s.fresh := rfl
@[simp] theorem setReg_regs : (setReg s r u v w).regs = tput s.regs (r.addr u w) v := rfl
@[simp] theorem setReg_mem : (setReg s r u v w).mem = s.mem := rfl
@[simp] theorem setReg_upset : (setReg s r u v w).upset = s.upset := rfl
@[simp] theorem setReg_backs : (setReg s r u v w).backs = s.backs := rfl
@[simp] theorem setReg_cores : (setReg s r u v w).cores = s.cores := rfl
@[simp] theorem setReg_fields : (setReg s r u v w).fields = s.fields := rfl
@[simp] theorem setReg_blocks : (setReg s r u v w).blocks = s.blocks := rfl
@[simp] theorem setReg_passes : (setReg s r u v w).passes = s.passes := rfl
@[simp] theorem setReg_furrow : (setReg s r u v w).furrow = s.furrow := rfl
@[simp] theorem setReg_links : (setReg s r u v w).links = s.links := rfl
@[simp] theorem setReg_canal : (setReg s r u v w).canal = s.canal := rfl
@[simp] theorem setReg_outs : (setReg s r u v w).outs = s.outs := rfl
@[simp] theorem setReg_bv : (setReg s r u v w).bv = s.bv := rfl
@[simp] theorem setReg_head : (setReg s r u v w).head = s.head := rfl
@[simp] theorem setReg_clk : (setReg s r u v w).clk = s.clk := rfl
@[simp] theorem setReg_pow : (setReg s r u v w).pow = s.pow := rfl
@[simp] theorem setReg_fuses : (setReg s r u v w).fuses = s.fuses := rfl
@[simp] theorem setReg_boot : (setReg s r u v w).boot = s.boot := rfl
@[simp] theorem setReg_ports : (setReg s r u v w).ports = s.ports := rfl
@[simp] theorem setReg_conns : (setReg s r u v w).conns = s.conns := rfl
@[simp] theorem setReg_hbm : (setReg s r u v w).hbm = s.hbm := rfl
@[simp] theorem getCore_setReg (i : Nat) : getCore (setReg s r u v w) i = getCore s i := rfl
@[simp] theorem getField_setReg (i : Nat) : getField (setReg s r u v w) i = getField s i := rfl
@[simp] theorem getBlock_setReg (i : Nat) : getBlock (setReg s r u v w) i = getBlock s i := rfl
@[simp] theorem getLink_setReg (i j : Nat) : getLink (setReg s r u v w) i j = getLink s i j := rfl
@[simp] theorem getRegion_setReg (i : Nat) : getRegion (setReg s r u v w) i = getRegion s i := rfl
@[simp] theorem getPort_setReg (i : Nat) : getPort (setReg s r u v w) i = getPort s i := rfl
@[simp] theorem getPart_setReg (i : Nat) : getPart (setReg s r u v w) i = getPart s i := rfl
@[simp] theorem getSeq_setReg (i : Nat) : getSeq (setReg s r u v w) i = getSeq s i := rfl
@[simp] theorem getPipe_setReg (i : Nat) : getPipe (setReg s r u v w) i = getPipe s i := rfl
@[simp] theorem hgNow_setReg : hgNow (setReg s r u v w) = hgNow s := rfl

end

section

variable (r : Reg) (u n : Nat)

@[simp] theorem bump_pending : (bump s r u n).pending = s.pending := rfl
@[simp] theorem bump_fresh : (bump s r u n).fresh = s.fresh := rfl
@[simp] theorem bump_mem : (bump s r u n).mem = s.mem := rfl
@[simp] theorem bump_upset : (bump s r u n).upset = s.upset := rfl
@[simp] theorem bump_backs : (bump s r u n).backs = s.backs := rfl
@[simp] theorem bump_cores : (bump s r u n).cores = s.cores := rfl
@[simp] theorem bump_fields : (bump s r u n).fields = s.fields := rfl
@[simp] theorem bump_blocks : (bump s r u n).blocks = s.blocks := rfl
@[simp] theorem bump_passes : (bump s r u n).passes = s.passes := rfl
@[simp] theorem bump_furrow : (bump s r u n).furrow = s.furrow := rfl
@[simp] theorem bump_links : (bump s r u n).links = s.links := rfl
@[simp] theorem bump_canal : (bump s r u n).canal = s.canal := rfl
@[simp] theorem bump_outs : (bump s r u n).outs = s.outs := rfl
@[simp] theorem bump_bv : (bump s r u n).bv = s.bv := rfl
@[simp] theorem bump_head : (bump s r u n).head = s.head := rfl
@[simp] theorem bump_clk : (bump s r u n).clk = s.clk := rfl
@[simp] theorem bump_pow : (bump s r u n).pow = s.pow := rfl
@[simp] theorem bump_fuses : (bump s r u n).fuses = s.fuses := rfl
@[simp] theorem bump_boot : (bump s r u n).boot = s.boot := rfl
@[simp] theorem bump_ports : (bump s r u n).ports = s.ports := rfl
@[simp] theorem bump_conns : (bump s r u n).conns = s.conns := rfl
@[simp] theorem bump_hbm : (bump s r u n).hbm = s.hbm := rfl
@[simp] theorem getCore_bump (i : Nat) : getCore (bump s r u n) i = getCore s i := rfl
@[simp] theorem getField_bump (i : Nat) : getField (bump s r u n) i = getField s i := rfl
@[simp] theorem getBlock_bump (i : Nat) : getBlock (bump s r u n) i = getBlock s i := rfl
@[simp] theorem getLink_bump (i j : Nat) : getLink (bump s r u n) i j = getLink s i j := rfl
@[simp] theorem getRegion_bump (i : Nat) : getRegion (bump s r u n) i = getRegion s i := rfl
@[simp] theorem getPort_bump (i : Nat) : getPort (bump s r u n) i = getPort s i := rfl
@[simp] theorem getPart_bump (i : Nat) : getPart (bump s r u n) i = getPart s i := rfl
@[simp] theorem getSeq_bump (i : Nat) : getSeq (bump s r u n) i = getSeq s i := rfl
@[simp] theorem getPipe_bump (i : Nat) : getPipe (bump s r u n) i = getPipe s i := rfl
@[simp] theorem hgNow_bump : hgNow (bump s r u n) = hgNow s := rfl

end

section

variable (r : Reg) (u lo n w : Nat)

@[simp] theorem bumpSat_pending : (bumpSat s r u lo n w).pending = s.pending := rfl
@[simp] theorem bumpSat_fresh : (bumpSat s r u lo n w).fresh = s.fresh := rfl
@[simp] theorem bumpSat_mem : (bumpSat s r u lo n w).mem = s.mem := rfl
@[simp] theorem bumpSat_upset : (bumpSat s r u lo n w).upset = s.upset := rfl
@[simp] theorem bumpSat_backs : (bumpSat s r u lo n w).backs = s.backs := rfl
@[simp] theorem bumpSat_cores : (bumpSat s r u lo n w).cores = s.cores := rfl
@[simp] theorem bumpSat_fields : (bumpSat s r u lo n w).fields = s.fields := rfl
@[simp] theorem bumpSat_blocks : (bumpSat s r u lo n w).blocks = s.blocks := rfl
@[simp] theorem bumpSat_passes : (bumpSat s r u lo n w).passes = s.passes := rfl
@[simp] theorem bumpSat_furrow : (bumpSat s r u lo n w).furrow = s.furrow := rfl
@[simp] theorem bumpSat_links : (bumpSat s r u lo n w).links = s.links := rfl
@[simp] theorem bumpSat_canal : (bumpSat s r u lo n w).canal = s.canal := rfl
@[simp] theorem bumpSat_outs : (bumpSat s r u lo n w).outs = s.outs := rfl
@[simp] theorem bumpSat_bv : (bumpSat s r u lo n w).bv = s.bv := rfl
@[simp] theorem bumpSat_head : (bumpSat s r u lo n w).head = s.head := rfl
@[simp] theorem bumpSat_clk : (bumpSat s r u lo n w).clk = s.clk := rfl
@[simp] theorem bumpSat_pow : (bumpSat s r u lo n w).pow = s.pow := rfl
@[simp] theorem bumpSat_fuses : (bumpSat s r u lo n w).fuses = s.fuses := rfl
@[simp] theorem bumpSat_boot : (bumpSat s r u lo n w).boot = s.boot := rfl
@[simp] theorem bumpSat_ports : (bumpSat s r u lo n w).ports = s.ports := rfl
@[simp] theorem bumpSat_conns : (bumpSat s r u lo n w).conns = s.conns := rfl
@[simp] theorem bumpSat_hbm : (bumpSat s r u lo n w).hbm = s.hbm := rfl
@[simp] theorem getCore_bumpSat (i : Nat) : getCore (bumpSat s r u lo n w) i = getCore s i := rfl
@[simp] theorem getField_bumpSat (i : Nat) : getField (bumpSat s r u lo n w) i = getField s i := rfl
@[simp] theorem getBlock_bumpSat (i : Nat) : getBlock (bumpSat s r u lo n w) i = getBlock s i := rfl
@[simp] theorem getLink_bumpSat (i j : Nat) : getLink (bumpSat s r u lo n w) i j = getLink s i j := rfl
@[simp] theorem getRegion_bumpSat (i : Nat) : getRegion (bumpSat s r u lo n w) i = getRegion s i := rfl
@[simp] theorem getPort_bumpSat (i : Nat) : getPort (bumpSat s r u lo n w) i = getPort s i := rfl
@[simp] theorem getPart_bumpSat (i : Nat) : getPart (bumpSat s r u lo n w) i = getPart s i := rfl
@[simp] theorem getSeq_bumpSat (i : Nat) : getSeq (bumpSat s r u lo n w) i = getSeq s i := rfl
@[simp] theorem getPipe_bumpSat (i : Nat) : getPipe (bumpSat s r u lo n w) i = getPipe s i := rfl
@[simp] theorem hgNow_bumpSat : hgNow (bumpSat s r u lo n w) = hgNow s := rfl

end

section

variable (r : Reg) (u b : Nat)

@[simp] theorem setEvent_pending : (setEvent s r u b).pending = s.pending := rfl
@[simp] theorem setEvent_fresh : (setEvent s r u b).fresh = s.fresh := rfl
@[simp] theorem setEvent_mem : (setEvent s r u b).mem = s.mem := rfl
@[simp] theorem setEvent_upset : (setEvent s r u b).upset = s.upset := rfl
@[simp] theorem setEvent_backs : (setEvent s r u b).backs = s.backs := rfl
@[simp] theorem setEvent_cores : (setEvent s r u b).cores = s.cores := rfl
@[simp] theorem setEvent_fields : (setEvent s r u b).fields = s.fields := rfl
@[simp] theorem setEvent_blocks : (setEvent s r u b).blocks = s.blocks := rfl
@[simp] theorem setEvent_passes : (setEvent s r u b).passes = s.passes := rfl
@[simp] theorem setEvent_furrow : (setEvent s r u b).furrow = s.furrow := rfl
@[simp] theorem setEvent_links : (setEvent s r u b).links = s.links := rfl
@[simp] theorem setEvent_canal : (setEvent s r u b).canal = s.canal := rfl
@[simp] theorem setEvent_outs : (setEvent s r u b).outs = s.outs := rfl
@[simp] theorem setEvent_bv : (setEvent s r u b).bv = s.bv := rfl
@[simp] theorem setEvent_head : (setEvent s r u b).head = s.head := rfl
@[simp] theorem setEvent_clk : (setEvent s r u b).clk = s.clk := rfl
@[simp] theorem setEvent_pow : (setEvent s r u b).pow = s.pow := rfl
@[simp] theorem setEvent_fuses : (setEvent s r u b).fuses = s.fuses := rfl
@[simp] theorem setEvent_boot : (setEvent s r u b).boot = s.boot := rfl
@[simp] theorem setEvent_ports : (setEvent s r u b).ports = s.ports := rfl
@[simp] theorem setEvent_conns : (setEvent s r u b).conns = s.conns := rfl
@[simp] theorem setEvent_hbm : (setEvent s r u b).hbm = s.hbm := rfl
@[simp] theorem getCore_setEvent (i : Nat) : getCore (setEvent s r u b) i = getCore s i := rfl
@[simp] theorem getField_setEvent (i : Nat) : getField (setEvent s r u b) i = getField s i := rfl
@[simp] theorem getBlock_setEvent (i : Nat) : getBlock (setEvent s r u b) i = getBlock s i := rfl
@[simp] theorem getLink_setEvent (i j : Nat) : getLink (setEvent s r u b) i j = getLink s i j := rfl
@[simp] theorem getRegion_setEvent (i : Nat) : getRegion (setEvent s r u b) i = getRegion s i := rfl
@[simp] theorem getPort_setEvent (i : Nat) : getPort (setEvent s r u b) i = getPort s i := rfl
@[simp] theorem getPart_setEvent (i : Nat) : getPart (setEvent s r u b) i = getPart s i := rfl
@[simp] theorem getSeq_setEvent (i : Nat) : getSeq (setEvent s r u b) i = getSeq s i := rfl
@[simp] theorem getPipe_setEvent (i : Nat) : getPipe (setEvent s r u b) i = getPipe s i := rfl
@[simp] theorem hgNow_setEvent : hgNow (setEvent s r u b) = hgNow s := rfl

end

section

variable (c : Nat) (k : Core)

@[simp] theorem setCore_pending : (setCore s c k).pending = s.pending := rfl
@[simp] theorem setCore_fresh : (setCore s c k).fresh = s.fresh := rfl
@[simp] theorem setCore_regs : (setCore s c k).regs = s.regs := rfl
@[simp] theorem setCore_mem : (setCore s c k).mem = s.mem := rfl
@[simp] theorem setCore_upset : (setCore s c k).upset = s.upset := rfl
@[simp] theorem setCore_backs : (setCore s c k).backs = s.backs := rfl
@[simp] theorem setCore_cores : (setCore s c k).cores = tput s.cores c k := rfl
@[simp] theorem setCore_fields : (setCore s c k).fields = s.fields := rfl
@[simp] theorem setCore_blocks : (setCore s c k).blocks = s.blocks := rfl
@[simp] theorem setCore_passes : (setCore s c k).passes = s.passes := rfl
@[simp] theorem setCore_furrow : (setCore s c k).furrow = s.furrow := rfl
@[simp] theorem setCore_links : (setCore s c k).links = s.links := rfl
@[simp] theorem setCore_canal : (setCore s c k).canal = s.canal := rfl
@[simp] theorem setCore_outs : (setCore s c k).outs = s.outs := rfl
@[simp] theorem setCore_bv : (setCore s c k).bv = s.bv := rfl
@[simp] theorem setCore_head : (setCore s c k).head = s.head := rfl
@[simp] theorem setCore_clk : (setCore s c k).clk = s.clk := rfl
@[simp] theorem setCore_pow : (setCore s c k).pow = s.pow := rfl
@[simp] theorem setCore_fuses : (setCore s c k).fuses = s.fuses := rfl
@[simp] theorem setCore_boot : (setCore s c k).boot = s.boot := rfl
@[simp] theorem setCore_ports : (setCore s c k).ports = s.ports := rfl
@[simp] theorem setCore_conns : (setCore s c k).conns = s.conns := rfl
@[simp] theorem setCore_hbm : (setCore s c k).hbm = s.hbm := rfl
@[simp] theorem rawReg_setCore (a : Reg) (x y : Nat) : rawReg (setCore s c k) a x y = rawReg s a x y := rfl
@[simp] theorem getField_setCore (i : Nat) : getField (setCore s c k) i = getField s i := rfl
@[simp] theorem getBlock_setCore (i : Nat) : getBlock (setCore s c k) i = getBlock s i := rfl
@[simp] theorem getLink_setCore (i j : Nat) : getLink (setCore s c k) i j = getLink s i j := rfl
@[simp] theorem getRegion_setCore (i : Nat) : getRegion (setCore s c k) i = getRegion s i := rfl
@[simp] theorem getPort_setCore (i : Nat) : getPort (setCore s c k) i = getPort s i := rfl
@[simp] theorem getPart_setCore (i : Nat) : getPart (setCore s c k) i = getPart s i := rfl
@[simp] theorem getSeq_setCore (i : Nat) : getSeq (setCore s c k) i = getSeq s i := rfl
@[simp] theorem getPipe_setCore (i : Nat) : getPipe (setCore s c k) i = getPipe s i := rfl
@[simp] theorem hgNow_setCore : hgNow (setCore s c k) = hgNow s := rfl

end

section

variable (c : Nat) (f : Core → Core)

@[simp] theorem modCore_pending : (modCore s c f).pending = s.pending := rfl
@[simp] theorem modCore_fresh : (modCore s c f).fresh = s.fresh := rfl
@[simp] theorem modCore_regs : (modCore s c f).regs = s.regs := rfl
@[simp] theorem modCore_mem : (modCore s c f).mem = s.mem := rfl
@[simp] theorem modCore_upset : (modCore s c f).upset = s.upset := rfl
@[simp] theorem modCore_backs : (modCore s c f).backs = s.backs := rfl
@[simp] theorem modCore_cores : (modCore s c f).cores = tput s.cores c (f (getCore s c)) := rfl
@[simp] theorem modCore_fields : (modCore s c f).fields = s.fields := rfl
@[simp] theorem modCore_blocks : (modCore s c f).blocks = s.blocks := rfl
@[simp] theorem modCore_passes : (modCore s c f).passes = s.passes := rfl
@[simp] theorem modCore_furrow : (modCore s c f).furrow = s.furrow := rfl
@[simp] theorem modCore_links : (modCore s c f).links = s.links := rfl
@[simp] theorem modCore_canal : (modCore s c f).canal = s.canal := rfl
@[simp] theorem modCore_outs : (modCore s c f).outs = s.outs := rfl
@[simp] theorem modCore_bv : (modCore s c f).bv = s.bv := rfl
@[simp] theorem modCore_head : (modCore s c f).head = s.head := rfl
@[simp] theorem modCore_clk : (modCore s c f).clk = s.clk := rfl
@[simp] theorem modCore_pow : (modCore s c f).pow = s.pow := rfl
@[simp] theorem modCore_fuses : (modCore s c f).fuses = s.fuses := rfl
@[simp] theorem modCore_boot : (modCore s c f).boot = s.boot := rfl
@[simp] theorem modCore_ports : (modCore s c f).ports = s.ports := rfl
@[simp] theorem modCore_conns : (modCore s c f).conns = s.conns := rfl
@[simp] theorem modCore_hbm : (modCore s c f).hbm = s.hbm := rfl
@[simp] theorem rawReg_modCore (a : Reg) (x y : Nat) : rawReg (modCore s c f) a x y = rawReg s a x y := rfl
@[simp] theorem getField_modCore (i : Nat) : getField (modCore s c f) i = getField s i := rfl
@[simp] theorem getBlock_modCore (i : Nat) : getBlock (modCore s c f) i = getBlock s i := rfl
@[simp] theorem getLink_modCore (i j : Nat) : getLink (modCore s c f) i j = getLink s i j := rfl
@[simp] theorem getRegion_modCore (i : Nat) : getRegion (modCore s c f) i = getRegion s i := rfl
@[simp] theorem getPort_modCore (i : Nat) : getPort (modCore s c f) i = getPort s i := rfl
@[simp] theorem getPart_modCore (i : Nat) : getPart (modCore s c f) i = getPart s i := rfl
@[simp] theorem getSeq_modCore (i : Nat) : getSeq (modCore s c f) i = getSeq s i := rfl
@[simp] theorem getPipe_modCore (i : Nat) : getPipe (modCore s c f) i = getPipe s i := rfl
@[simp] theorem hgNow_modCore : hgNow (modCore s c f) = hgNow s := rfl

end

section

variable (f : Nat) (v : Field)

@[simp] theorem setField_pending : (setField s f v).pending = s.pending := rfl
@[simp] theorem setField_fresh : (setField s f v).fresh = s.fresh := rfl
@[simp] theorem setField_regs : (setField s f v).regs = s.regs := rfl
@[simp] theorem setField_mem : (setField s f v).mem = s.mem := rfl
@[simp] theorem setField_upset : (setField s f v).upset = s.upset := rfl
@[simp] theorem setField_backs : (setField s f v).backs = s.backs := rfl
@[simp] theorem setField_cores : (setField s f v).cores = s.cores := rfl
@[simp] theorem setField_fields : (setField s f v).fields = tput s.fields f v := rfl
@[simp] theorem setField_blocks : (setField s f v).blocks = s.blocks := rfl
@[simp] theorem setField_passes : (setField s f v).passes = s.passes := rfl
@[simp] theorem setField_furrow : (setField s f v).furrow = s.furrow := rfl
@[simp] theorem setField_links : (setField s f v).links = s.links := rfl
@[simp] theorem setField_canal : (setField s f v).canal = s.canal := rfl
@[simp] theorem setField_outs : (setField s f v).outs = s.outs := rfl
@[simp] theorem setField_bv : (setField s f v).bv = s.bv := rfl
@[simp] theorem setField_head : (setField s f v).head = s.head := rfl
@[simp] theorem setField_clk : (setField s f v).clk = s.clk := rfl
@[simp] theorem setField_pow : (setField s f v).pow = s.pow := rfl
@[simp] theorem setField_fuses : (setField s f v).fuses = s.fuses := rfl
@[simp] theorem setField_boot : (setField s f v).boot = s.boot := rfl
@[simp] theorem setField_ports : (setField s f v).ports = s.ports := rfl
@[simp] theorem setField_conns : (setField s f v).conns = s.conns := rfl
@[simp] theorem setField_hbm : (setField s f v).hbm = s.hbm := rfl
@[simp] theorem rawReg_setField (a : Reg) (x y : Nat) : rawReg (setField s f v) a x y = rawReg s a x y := rfl
@[simp] theorem getCore_setField (i : Nat) : getCore (setField s f v) i = getCore s i := rfl
@[simp] theorem getBlock_setField (i : Nat) : getBlock (setField s f v) i = getBlock s i := rfl
@[simp] theorem getLink_setField (i j : Nat) : getLink (setField s f v) i j = getLink s i j := rfl
@[simp] theorem getRegion_setField (i : Nat) : getRegion (setField s f v) i = getRegion s i := rfl
@[simp] theorem getPort_setField (i : Nat) : getPort (setField s f v) i = getPort s i := rfl
@[simp] theorem getPart_setField (i : Nat) : getPart (setField s f v) i = getPart s i := rfl
@[simp] theorem getSeq_setField (i : Nat) : getSeq (setField s f v) i = getSeq s i := rfl
@[simp] theorem getPipe_setField (i : Nat) : getPipe (setField s f v) i = getPipe s i := rfl
@[simp] theorem hgNow_setField : hgNow (setField s f v) = hgNow s := rfl

end

section

variable (b : Nat) (v : Block)

@[simp] theorem setBlock_pending : (setBlock s b v).pending = s.pending := rfl
@[simp] theorem setBlock_fresh : (setBlock s b v).fresh = s.fresh := rfl
@[simp] theorem setBlock_regs : (setBlock s b v).regs = s.regs := rfl
@[simp] theorem setBlock_mem : (setBlock s b v).mem = s.mem := rfl
@[simp] theorem setBlock_upset : (setBlock s b v).upset = s.upset := rfl
@[simp] theorem setBlock_backs : (setBlock s b v).backs = s.backs := rfl
@[simp] theorem setBlock_cores : (setBlock s b v).cores = s.cores := rfl
@[simp] theorem setBlock_fields : (setBlock s b v).fields = s.fields := rfl
@[simp] theorem setBlock_blocks : (setBlock s b v).blocks = tput s.blocks b v := rfl
@[simp] theorem setBlock_passes : (setBlock s b v).passes = s.passes := rfl
@[simp] theorem setBlock_furrow : (setBlock s b v).furrow = s.furrow := rfl
@[simp] theorem setBlock_links : (setBlock s b v).links = s.links := rfl
@[simp] theorem setBlock_canal : (setBlock s b v).canal = s.canal := rfl
@[simp] theorem setBlock_outs : (setBlock s b v).outs = s.outs := rfl
@[simp] theorem setBlock_bv : (setBlock s b v).bv = s.bv := rfl
@[simp] theorem setBlock_head : (setBlock s b v).head = s.head := rfl
@[simp] theorem setBlock_clk : (setBlock s b v).clk = s.clk := rfl
@[simp] theorem setBlock_pow : (setBlock s b v).pow = s.pow := rfl
@[simp] theorem setBlock_fuses : (setBlock s b v).fuses = s.fuses := rfl
@[simp] theorem setBlock_boot : (setBlock s b v).boot = s.boot := rfl
@[simp] theorem setBlock_ports : (setBlock s b v).ports = s.ports := rfl
@[simp] theorem setBlock_conns : (setBlock s b v).conns = s.conns := rfl
@[simp] theorem setBlock_hbm : (setBlock s b v).hbm = s.hbm := rfl
@[simp] theorem rawReg_setBlock (a : Reg) (x y : Nat) : rawReg (setBlock s b v) a x y = rawReg s a x y := rfl
@[simp] theorem getCore_setBlock (i : Nat) : getCore (setBlock s b v) i = getCore s i := rfl
@[simp] theorem getField_setBlock (i : Nat) : getField (setBlock s b v) i = getField s i := rfl
@[simp] theorem getLink_setBlock (i j : Nat) : getLink (setBlock s b v) i j = getLink s i j := rfl
@[simp] theorem getRegion_setBlock (i : Nat) : getRegion (setBlock s b v) i = getRegion s i := rfl
@[simp] theorem getPort_setBlock (i : Nat) : getPort (setBlock s b v) i = getPort s i := rfl
@[simp] theorem getPart_setBlock (i : Nat) : getPart (setBlock s b v) i = getPart s i := rfl
@[simp] theorem getSeq_setBlock (i : Nat) : getSeq (setBlock s b v) i = getSeq s i := rfl
@[simp] theorem getPipe_setBlock (i : Nat) : getPipe (setBlock s b v) i = getPipe s i := rfl
@[simp] theorem hgNow_setBlock : hgNow (setBlock s b v) = hgNow s := rfl

end

section

variable (r d : Nat) (l : CLink)

@[simp] theorem setLink_pending : (setLink s r d l).pending = s.pending := rfl
@[simp] theorem setLink_fresh : (setLink s r d l).fresh = s.fresh := rfl
@[simp] theorem setLink_regs : (setLink s r d l).regs = s.regs := rfl
@[simp] theorem setLink_mem : (setLink s r d l).mem = s.mem := rfl
@[simp] theorem setLink_upset : (setLink s r d l).upset = s.upset := rfl
@[simp] theorem setLink_backs : (setLink s r d l).backs = s.backs := rfl
@[simp] theorem setLink_cores : (setLink s r d l).cores = s.cores := rfl
@[simp] theorem setLink_fields : (setLink s r d l).fields = s.fields := rfl
@[simp] theorem setLink_blocks : (setLink s r d l).blocks = s.blocks := rfl
@[simp] theorem setLink_passes : (setLink s r d l).passes = s.passes := rfl
@[simp] theorem setLink_furrow : (setLink s r d l).furrow = s.furrow := rfl
@[simp] theorem setLink_links : (setLink s r d l).links = tput s.links (r * 4 + d) l := rfl
@[simp] theorem setLink_canal : (setLink s r d l).canal = s.canal := rfl
@[simp] theorem setLink_outs : (setLink s r d l).outs = s.outs := rfl
@[simp] theorem setLink_bv : (setLink s r d l).bv = s.bv := rfl
@[simp] theorem setLink_head : (setLink s r d l).head = s.head := rfl
@[simp] theorem setLink_clk : (setLink s r d l).clk = s.clk := rfl
@[simp] theorem setLink_pow : (setLink s r d l).pow = s.pow := rfl
@[simp] theorem setLink_fuses : (setLink s r d l).fuses = s.fuses := rfl
@[simp] theorem setLink_boot : (setLink s r d l).boot = s.boot := rfl
@[simp] theorem setLink_ports : (setLink s r d l).ports = s.ports := rfl
@[simp] theorem setLink_conns : (setLink s r d l).conns = s.conns := rfl
@[simp] theorem setLink_hbm : (setLink s r d l).hbm = s.hbm := rfl
@[simp] theorem rawReg_setLink (a : Reg) (x y : Nat) : rawReg (setLink s r d l) a x y = rawReg s a x y := rfl
@[simp] theorem getCore_setLink (i : Nat) : getCore (setLink s r d l) i = getCore s i := rfl
@[simp] theorem getField_setLink (i : Nat) : getField (setLink s r d l) i = getField s i := rfl
@[simp] theorem getBlock_setLink (i : Nat) : getBlock (setLink s r d l) i = getBlock s i := rfl
@[simp] theorem getRegion_setLink (i : Nat) : getRegion (setLink s r d l) i = getRegion s i := rfl
@[simp] theorem getPort_setLink (i : Nat) : getPort (setLink s r d l) i = getPort s i := rfl
@[simp] theorem getPart_setLink (i : Nat) : getPart (setLink s r d l) i = getPart s i := rfl
@[simp] theorem getSeq_setLink (i : Nat) : getSeq (setLink s r d l) i = getSeq s i := rfl
@[simp] theorem getPipe_setLink (i : Nat) : getPipe (setLink s r d l) i = getPipe s i := rfl
@[simp] theorem hgNow_setLink : hgNow (setLink s r d l) = hgNow s := rfl

end

section

variable (r : Nat) (v : Region)

@[simp] theorem setRegion_pending : (setRegion s r v).pending = s.pending := rfl
@[simp] theorem setRegion_fresh : (setRegion s r v).fresh = s.fresh := rfl
@[simp] theorem setRegion_regs : (setRegion s r v).regs = s.regs := rfl
@[simp] theorem setRegion_mem : (setRegion s r v).mem = s.mem := rfl
@[simp] theorem setRegion_upset : (setRegion s r v).upset = s.upset := rfl
@[simp] theorem setRegion_backs : (setRegion s r v).backs = s.backs := rfl
@[simp] theorem setRegion_cores : (setRegion s r v).cores = s.cores := rfl
@[simp] theorem setRegion_fields : (setRegion s r v).fields = s.fields := rfl
@[simp] theorem setRegion_blocks : (setRegion s r v).blocks = s.blocks := rfl
@[simp] theorem setRegion_passes : (setRegion s r v).passes = s.passes := rfl
@[simp] theorem setRegion_furrow : (setRegion s r v).furrow = s.furrow := rfl
@[simp] theorem setRegion_links : (setRegion s r v).links = s.links := rfl
@[simp] theorem setRegion_canal : (setRegion s r v).canal = s.canal := rfl
@[simp] theorem setRegion_outs : (setRegion s r v).outs = s.outs := rfl
@[simp] theorem setRegion_bv : (setRegion s r v).bv = s.bv := rfl
@[simp] theorem setRegion_head : (setRegion s r v).head = s.head := rfl
@[simp] theorem setRegion_clk : (setRegion s r v).clk = { s.clk with regions := tput s.clk.regions r v } := rfl
@[simp] theorem setRegion_pow : (setRegion s r v).pow = s.pow := rfl
@[simp] theorem setRegion_fuses : (setRegion s r v).fuses = s.fuses := rfl
@[simp] theorem setRegion_boot : (setRegion s r v).boot = s.boot := rfl
@[simp] theorem setRegion_ports : (setRegion s r v).ports = s.ports := rfl
@[simp] theorem setRegion_conns : (setRegion s r v).conns = s.conns := rfl
@[simp] theorem setRegion_hbm : (setRegion s r v).hbm = s.hbm := rfl
@[simp] theorem rawReg_setRegion (a : Reg) (x y : Nat) : rawReg (setRegion s r v) a x y = rawReg s a x y := rfl
@[simp] theorem getCore_setRegion (i : Nat) : getCore (setRegion s r v) i = getCore s i := rfl
@[simp] theorem getField_setRegion (i : Nat) : getField (setRegion s r v) i = getField s i := rfl
@[simp] theorem getBlock_setRegion (i : Nat) : getBlock (setRegion s r v) i = getBlock s i := rfl
@[simp] theorem getLink_setRegion (i j : Nat) : getLink (setRegion s r v) i j = getLink s i j := rfl
@[simp] theorem getPort_setRegion (i : Nat) : getPort (setRegion s r v) i = getPort s i := rfl
@[simp] theorem getPart_setRegion (i : Nat) : getPart (setRegion s r v) i = getPart s i := rfl
@[simp] theorem getSeq_setRegion (i : Nat) : getSeq (setRegion s r v) i = getSeq s i := rfl
@[simp] theorem getPipe_setRegion (i : Nat) : getPipe (setRegion s r v) i = getPipe s i := rfl

end

section

variable (g : Nat) (v : VGroup)

@[simp] theorem setVGroup_pending : (setVGroup s g v).pending = s.pending := rfl
@[simp] theorem setVGroup_fresh : (setVGroup s g v).fresh = s.fresh := rfl
@[simp] theorem setVGroup_regs : (setVGroup s g v).regs = s.regs := rfl
@[simp] theorem setVGroup_mem : (setVGroup s g v).mem = s.mem := rfl
@[simp] theorem setVGroup_upset : (setVGroup s g v).upset = s.upset := rfl
@[simp] theorem setVGroup_backs : (setVGroup s g v).backs = s.backs := rfl
@[simp] theorem setVGroup_cores : (setVGroup s g v).cores = s.cores := rfl
@[simp] theorem setVGroup_fields : (setVGroup s g v).fields = s.fields := rfl
@[simp] theorem setVGroup_blocks : (setVGroup s g v).blocks = s.blocks := rfl
@[simp] theorem setVGroup_passes : (setVGroup s g v).passes = s.passes := rfl
@[simp] theorem setVGroup_furrow : (setVGroup s g v).furrow = s.furrow := rfl
@[simp] theorem setVGroup_links : (setVGroup s g v).links = s.links := rfl
@[simp] theorem setVGroup_canal : (setVGroup s g v).canal = s.canal := rfl
@[simp] theorem setVGroup_outs : (setVGroup s g v).outs = s.outs := rfl
@[simp] theorem setVGroup_bv : (setVGroup s g v).bv = s.bv := rfl
@[simp] theorem setVGroup_head : (setVGroup s g v).head = s.head := rfl
@[simp] theorem setVGroup_clk : (setVGroup s g v).clk = s.clk := rfl
@[simp] theorem setVGroup_pow : (setVGroup s g v).pow = { s.pow with groups := tput s.pow.groups g v } := rfl
@[simp] theorem setVGroup_fuses : (setVGroup s g v).fuses = s.fuses := rfl
@[simp] theorem setVGroup_boot : (setVGroup s g v).boot = s.boot := rfl
@[simp] theorem setVGroup_ports : (setVGroup s g v).ports = s.ports := rfl
@[simp] theorem setVGroup_conns : (setVGroup s g v).conns = s.conns := rfl
@[simp] theorem setVGroup_hbm : (setVGroup s g v).hbm = s.hbm := rfl
@[simp] theorem rawReg_setVGroup (a : Reg) (x y : Nat) : rawReg (setVGroup s g v) a x y = rawReg s a x y := rfl
@[simp] theorem getCore_setVGroup (i : Nat) : getCore (setVGroup s g v) i = getCore s i := rfl
@[simp] theorem getField_setVGroup (i : Nat) : getField (setVGroup s g v) i = getField s i := rfl
@[simp] theorem getBlock_setVGroup (i : Nat) : getBlock (setVGroup s g v) i = getBlock s i := rfl
@[simp] theorem getLink_setVGroup (i j : Nat) : getLink (setVGroup s g v) i j = getLink s i j := rfl
@[simp] theorem getRegion_setVGroup (i : Nat) : getRegion (setVGroup s g v) i = getRegion s i := rfl
@[simp] theorem getPort_setVGroup (i : Nat) : getPort (setVGroup s g v) i = getPort s i := rfl
@[simp] theorem getPart_setVGroup (i : Nat) : getPart (setVGroup s g v) i = getPart s i := rfl
@[simp] theorem getSeq_setVGroup (i : Nat) : getSeq (setVGroup s g v) i = getSeq s i := rfl
@[simp] theorem getPipe_setVGroup (i : Nat) : getPipe (setVGroup s g v) i = getPipe s i := rfl
@[simp] theorem hgNow_setVGroup : hgNow (setVGroup s g v) = hgNow s := rfl

end

section

variable (i : Nat) (v : Sensor)

@[simp] theorem setSensor_pending : (setSensor s i v).pending = s.pending := rfl
@[simp] theorem setSensor_fresh : (setSensor s i v).fresh = s.fresh := rfl
@[simp] theorem setSensor_regs : (setSensor s i v).regs = s.regs := rfl
@[simp] theorem setSensor_mem : (setSensor s i v).mem = s.mem := rfl
@[simp] theorem setSensor_upset : (setSensor s i v).upset = s.upset := rfl
@[simp] theorem setSensor_backs : (setSensor s i v).backs = s.backs := rfl
@[simp] theorem setSensor_cores : (setSensor s i v).cores = s.cores := rfl
@[simp] theorem setSensor_fields : (setSensor s i v).fields = s.fields := rfl
@[simp] theorem setSensor_blocks : (setSensor s i v).blocks = s.blocks := rfl
@[simp] theorem setSensor_passes : (setSensor s i v).passes = s.passes := rfl
@[simp] theorem setSensor_furrow : (setSensor s i v).furrow = s.furrow := rfl
@[simp] theorem setSensor_links : (setSensor s i v).links = s.links := rfl
@[simp] theorem setSensor_canal : (setSensor s i v).canal = s.canal := rfl
@[simp] theorem setSensor_outs : (setSensor s i v).outs = s.outs := rfl
@[simp] theorem setSensor_bv : (setSensor s i v).bv = s.bv := rfl
@[simp] theorem setSensor_head : (setSensor s i v).head = s.head := rfl
@[simp] theorem setSensor_clk : (setSensor s i v).clk = s.clk := rfl
@[simp] theorem setSensor_pow : (setSensor s i v).pow = { s.pow with sensors := tput s.pow.sensors i v } := rfl
@[simp] theorem setSensor_fuses : (setSensor s i v).fuses = s.fuses := rfl
@[simp] theorem setSensor_boot : (setSensor s i v).boot = s.boot := rfl
@[simp] theorem setSensor_ports : (setSensor s i v).ports = s.ports := rfl
@[simp] theorem setSensor_conns : (setSensor s i v).conns = s.conns := rfl
@[simp] theorem setSensor_hbm : (setSensor s i v).hbm = s.hbm := rfl
@[simp] theorem rawReg_setSensor (a : Reg) (x y : Nat) : rawReg (setSensor s i v) a x y = rawReg s a x y := rfl
@[simp] theorem getCore_setSensor (i : Nat) : getCore (setSensor s i v) i = getCore s i := rfl
@[simp] theorem getField_setSensor (i : Nat) : getField (setSensor s i v) i = getField s i := rfl
@[simp] theorem getBlock_setSensor (i : Nat) : getBlock (setSensor s i v) i = getBlock s i := rfl
@[simp] theorem getLink_setSensor (i j : Nat) : getLink (setSensor s i v) i j = getLink s i j := rfl
@[simp] theorem getRegion_setSensor (i : Nat) : getRegion (setSensor s i v) i = getRegion s i := rfl
@[simp] theorem getPort_setSensor (i : Nat) : getPort (setSensor s i v) i = getPort s i := rfl
@[simp] theorem getPart_setSensor (i : Nat) : getPart (setSensor s i v) i = getPart s i := rfl
@[simp] theorem getSeq_setSensor (i : Nat) : getSeq (setSensor s i v) i = getSeq s i := rfl
@[simp] theorem getPipe_setSensor (i : Nat) : getPipe (setSensor s i v) i = getPipe s i := rfl
@[simp] theorem hgNow_setSensor : hgNow (setSensor s i v) = hgNow s := rfl

end

section

variable (p : Option Nat) (k n : Nat)

@[simp] theorem meter_pending : (meter s p k n).pending = s.pending := rfl
@[simp] theorem meter_fresh : (meter s p k n).fresh = s.fresh := rfl
@[simp] theorem meter_regs : (meter s p k n).regs = s.regs := rfl
@[simp] theorem meter_mem : (meter s p k n).mem = s.mem := rfl
@[simp] theorem meter_upset : (meter s p k n).upset = s.upset := rfl
@[simp] theorem meter_backs : (meter s p k n).backs = s.backs := rfl
@[simp] theorem meter_cores : (meter s p k n).cores = s.cores := rfl
@[simp] theorem meter_fields : (meter s p k n).fields = s.fields := rfl
@[simp] theorem meter_blocks : (meter s p k n).blocks = s.blocks := rfl
@[simp] theorem meter_passes : (meter s p k n).passes = s.passes := rfl
@[simp] theorem meter_furrow : (meter s p k n).furrow = s.furrow := rfl
@[simp] theorem meter_links : (meter s p k n).links = s.links := rfl
@[simp] theorem meter_canal : (meter s p k n).canal = s.canal := rfl
@[simp] theorem meter_outs : (meter s p k n).outs = s.outs := rfl
@[simp] theorem meter_bv : (meter s p k n).bv = s.bv := rfl
@[simp] theorem meter_head : (meter s p k n).head = s.head := rfl
@[simp] theorem meter_clk : (meter s p k n).clk = s.clk := rfl
@[simp] theorem meter_pow : (meter s p k n).pow = { s.pow with events := tmod s.pow.events (p.getD 60 * 16 + k) 0 (· + n) } := rfl
@[simp] theorem meter_fuses : (meter s p k n).fuses = s.fuses := rfl
@[simp] theorem meter_boot : (meter s p k n).boot = s.boot := rfl
@[simp] theorem meter_ports : (meter s p k n).ports = s.ports := rfl
@[simp] theorem meter_conns : (meter s p k n).conns = s.conns := rfl
@[simp] theorem meter_hbm : (meter s p k n).hbm = s.hbm := rfl
@[simp] theorem rawReg_meter (a : Reg) (x y : Nat) : rawReg (meter s p k n) a x y = rawReg s a x y := rfl
@[simp] theorem getCore_meter (i : Nat) : getCore (meter s p k n) i = getCore s i := rfl
@[simp] theorem getField_meter (i : Nat) : getField (meter s p k n) i = getField s i := rfl
@[simp] theorem getBlock_meter (i : Nat) : getBlock (meter s p k n) i = getBlock s i := rfl
@[simp] theorem getLink_meter (i j : Nat) : getLink (meter s p k n) i j = getLink s i j := rfl
@[simp] theorem getRegion_meter (i : Nat) : getRegion (meter s p k n) i = getRegion s i := rfl
@[simp] theorem getPort_meter (i : Nat) : getPort (meter s p k n) i = getPort s i := rfl
@[simp] theorem getPart_meter (i : Nat) : getPart (meter s p k n) i = getPart s i := rfl
@[simp] theorem getSeq_meter (i : Nat) : getSeq (meter s p k n) i = getSeq s i := rfl
@[simp] theorem getPipe_meter (i : Nat) : getPipe (meter s p k n) i = getPipe s i := rfl
@[simp] theorem hgNow_meter : hgNow (meter s p k n) = hgNow s := rfl

end

section

variable (p : Nat) (v : EthPort)

@[simp] theorem setPort_pending : (setPort s p v).pending = s.pending := rfl
@[simp] theorem setPort_fresh : (setPort s p v).fresh = s.fresh := rfl
@[simp] theorem setPort_regs : (setPort s p v).regs = s.regs := rfl
@[simp] theorem setPort_mem : (setPort s p v).mem = s.mem := rfl
@[simp] theorem setPort_upset : (setPort s p v).upset = s.upset := rfl
@[simp] theorem setPort_backs : (setPort s p v).backs = s.backs := rfl
@[simp] theorem setPort_cores : (setPort s p v).cores = s.cores := rfl
@[simp] theorem setPort_fields : (setPort s p v).fields = s.fields := rfl
@[simp] theorem setPort_blocks : (setPort s p v).blocks = s.blocks := rfl
@[simp] theorem setPort_passes : (setPort s p v).passes = s.passes := rfl
@[simp] theorem setPort_furrow : (setPort s p v).furrow = s.furrow := rfl
@[simp] theorem setPort_links : (setPort s p v).links = s.links := rfl
@[simp] theorem setPort_canal : (setPort s p v).canal = s.canal := rfl
@[simp] theorem setPort_outs : (setPort s p v).outs = s.outs := rfl
@[simp] theorem setPort_bv : (setPort s p v).bv = s.bv := rfl
@[simp] theorem setPort_head : (setPort s p v).head = s.head := rfl
@[simp] theorem setPort_clk : (setPort s p v).clk = s.clk := rfl
@[simp] theorem setPort_pow : (setPort s p v).pow = s.pow := rfl
@[simp] theorem setPort_fuses : (setPort s p v).fuses = s.fuses := rfl
@[simp] theorem setPort_boot : (setPort s p v).boot = s.boot := rfl
@[simp] theorem setPort_ports : (setPort s p v).ports = tput s.ports p v := rfl
@[simp] theorem setPort_conns : (setPort s p v).conns = s.conns := rfl
@[simp] theorem setPort_hbm : (setPort s p v).hbm = s.hbm := rfl
@[simp] theorem rawReg_setPort (a : Reg) (x y : Nat) : rawReg (setPort s p v) a x y = rawReg s a x y := rfl
@[simp] theorem getCore_setPort (i : Nat) : getCore (setPort s p v) i = getCore s i := rfl
@[simp] theorem getField_setPort (i : Nat) : getField (setPort s p v) i = getField s i := rfl
@[simp] theorem getBlock_setPort (i : Nat) : getBlock (setPort s p v) i = getBlock s i := rfl
@[simp] theorem getLink_setPort (i j : Nat) : getLink (setPort s p v) i j = getLink s i j := rfl
@[simp] theorem getRegion_setPort (i : Nat) : getRegion (setPort s p v) i = getRegion s i := rfl
@[simp] theorem getPart_setPort (i : Nat) : getPart (setPort s p v) i = getPart s i := rfl
@[simp] theorem getSeq_setPort (i : Nat) : getSeq (setPort s p v) i = getSeq s i := rfl
@[simp] theorem getPipe_setPort (i : Nat) : getPipe (setPort s p v) i = getPipe s i := rfl
@[simp] theorem hgNow_setPort : hgNow (setPort s p v) = hgNow s := rfl

end

section

variable (b : Boot)

@[simp] theorem setBoot_pending : (setBoot s b).pending = s.pending := rfl
@[simp] theorem setBoot_fresh : (setBoot s b).fresh = s.fresh := rfl
@[simp] theorem setBoot_regs : (setBoot s b).regs = s.regs := rfl
@[simp] theorem setBoot_mem : (setBoot s b).mem = s.mem := rfl
@[simp] theorem setBoot_upset : (setBoot s b).upset = s.upset := rfl
@[simp] theorem setBoot_backs : (setBoot s b).backs = s.backs := rfl
@[simp] theorem setBoot_cores : (setBoot s b).cores = s.cores := rfl
@[simp] theorem setBoot_fields : (setBoot s b).fields = s.fields := rfl
@[simp] theorem setBoot_blocks : (setBoot s b).blocks = s.blocks := rfl
@[simp] theorem setBoot_passes : (setBoot s b).passes = s.passes := rfl
@[simp] theorem setBoot_furrow : (setBoot s b).furrow = s.furrow := rfl
@[simp] theorem setBoot_links : (setBoot s b).links = s.links := rfl
@[simp] theorem setBoot_canal : (setBoot s b).canal = s.canal := rfl
@[simp] theorem setBoot_outs : (setBoot s b).outs = s.outs := rfl
@[simp] theorem setBoot_bv : (setBoot s b).bv = s.bv := rfl
@[simp] theorem setBoot_head : (setBoot s b).head = s.head := rfl
@[simp] theorem setBoot_clk : (setBoot s b).clk = s.clk := rfl
@[simp] theorem setBoot_pow : (setBoot s b).pow = s.pow := rfl
@[simp] theorem setBoot_fuses : (setBoot s b).fuses = s.fuses := rfl
@[simp] theorem setBoot_boot : (setBoot s b).boot = b := rfl
@[simp] theorem setBoot_ports : (setBoot s b).ports = s.ports := rfl
@[simp] theorem setBoot_conns : (setBoot s b).conns = s.conns := rfl
@[simp] theorem setBoot_hbm : (setBoot s b).hbm = s.hbm := rfl
@[simp] theorem rawReg_setBoot (a : Reg) (x y : Nat) : rawReg (setBoot s b) a x y = rawReg s a x y := rfl
@[simp] theorem getCore_setBoot (i : Nat) : getCore (setBoot s b) i = getCore s i := rfl
@[simp] theorem getField_setBoot (i : Nat) : getField (setBoot s b) i = getField s i := rfl
@[simp] theorem getBlock_setBoot (i : Nat) : getBlock (setBoot s b) i = getBlock s i := rfl
@[simp] theorem getLink_setBoot (i j : Nat) : getLink (setBoot s b) i j = getLink s i j := rfl
@[simp] theorem getRegion_setBoot (i : Nat) : getRegion (setBoot s b) i = getRegion s i := rfl
@[simp] theorem getPort_setBoot (i : Nat) : getPort (setBoot s b) i = getPort s i := rfl
@[simp] theorem getPart_setBoot (i : Nat) : getPart (setBoot s b) i = getPart s i := rfl
@[simp] theorem getSeq_setBoot (i : Nat) : getSeq (setBoot s b) i = getSeq s i := rfl
@[simp] theorem getPipe_setBoot (i : Nat) : getPipe (setBoot s b) i = getPipe s i := rfl
@[simp] theorem hgNow_setBoot : hgNow (setBoot s b) = hgNow s := rfl

end

section

variable (p : Power)

@[simp] theorem setPow_pending : (setPow s p).pending = s.pending := rfl
@[simp] theorem setPow_fresh : (setPow s p).fresh = s.fresh := rfl
@[simp] theorem setPow_regs : (setPow s p).regs = s.regs := rfl
@[simp] theorem setPow_mem : (setPow s p).mem = s.mem := rfl
@[simp] theorem setPow_upset : (setPow s p).upset = s.upset := rfl
@[simp] theorem setPow_backs : (setPow s p).backs = s.backs := rfl
@[simp] theorem setPow_cores : (setPow s p).cores = s.cores := rfl
@[simp] theorem setPow_fields : (setPow s p).fields = s.fields := rfl
@[simp] theorem setPow_blocks : (setPow s p).blocks = s.blocks := rfl
@[simp] theorem setPow_passes : (setPow s p).passes = s.passes := rfl
@[simp] theorem setPow_furrow : (setPow s p).furrow = s.furrow := rfl
@[simp] theorem setPow_links : (setPow s p).links = s.links := rfl
@[simp] theorem setPow_canal : (setPow s p).canal = s.canal := rfl
@[simp] theorem setPow_outs : (setPow s p).outs = s.outs := rfl
@[simp] theorem setPow_bv : (setPow s p).bv = s.bv := rfl
@[simp] theorem setPow_head : (setPow s p).head = s.head := rfl
@[simp] theorem setPow_clk : (setPow s p).clk = s.clk := rfl
@[simp] theorem setPow_pow : (setPow s p).pow = p := rfl
@[simp] theorem setPow_fuses : (setPow s p).fuses = s.fuses := rfl
@[simp] theorem setPow_boot : (setPow s p).boot = s.boot := rfl
@[simp] theorem setPow_ports : (setPow s p).ports = s.ports := rfl
@[simp] theorem setPow_conns : (setPow s p).conns = s.conns := rfl
@[simp] theorem setPow_hbm : (setPow s p).hbm = s.hbm := rfl
@[simp] theorem rawReg_setPow (a : Reg) (x y : Nat) : rawReg (setPow s p) a x y = rawReg s a x y := rfl
@[simp] theorem getCore_setPow (i : Nat) : getCore (setPow s p) i = getCore s i := rfl
@[simp] theorem getField_setPow (i : Nat) : getField (setPow s p) i = getField s i := rfl
@[simp] theorem getBlock_setPow (i : Nat) : getBlock (setPow s p) i = getBlock s i := rfl
@[simp] theorem getLink_setPow (i j : Nat) : getLink (setPow s p) i j = getLink s i j := rfl
@[simp] theorem getRegion_setPow (i : Nat) : getRegion (setPow s p) i = getRegion s i := rfl
@[simp] theorem getPort_setPow (i : Nat) : getPort (setPow s p) i = getPort s i := rfl
@[simp] theorem getPart_setPow (i : Nat) : getPart (setPow s p) i = getPart s i := rfl
@[simp] theorem getSeq_setPow (i : Nat) : getSeq (setPow s p) i = getSeq s i := rfl
@[simp] theorem getPipe_setPow (i : Nat) : getPipe (setPow s p) i = getPipe s i := rfl
@[simp] theorem hgNow_setPow : hgNow (setPow s p) = hgNow s := rfl

end

section

variable (b : Bv)

@[simp] theorem setBv_pending : (setBv s b).pending = s.pending := rfl
@[simp] theorem setBv_fresh : (setBv s b).fresh = s.fresh := rfl
@[simp] theorem setBv_regs : (setBv s b).regs = s.regs := rfl
@[simp] theorem setBv_mem : (setBv s b).mem = s.mem := rfl
@[simp] theorem setBv_upset : (setBv s b).upset = s.upset := rfl
@[simp] theorem setBv_backs : (setBv s b).backs = s.backs := rfl
@[simp] theorem setBv_cores : (setBv s b).cores = s.cores := rfl
@[simp] theorem setBv_fields : (setBv s b).fields = s.fields := rfl
@[simp] theorem setBv_blocks : (setBv s b).blocks = s.blocks := rfl
@[simp] theorem setBv_passes : (setBv s b).passes = s.passes := rfl
@[simp] theorem setBv_furrow : (setBv s b).furrow = s.furrow := rfl
@[simp] theorem setBv_links : (setBv s b).links = s.links := rfl
@[simp] theorem setBv_canal : (setBv s b).canal = s.canal := rfl
@[simp] theorem setBv_outs : (setBv s b).outs = s.outs := rfl
@[simp] theorem setBv_bv : (setBv s b).bv = b := rfl
@[simp] theorem setBv_head : (setBv s b).head = s.head := rfl
@[simp] theorem setBv_clk : (setBv s b).clk = s.clk := rfl
@[simp] theorem setBv_pow : (setBv s b).pow = s.pow := rfl
@[simp] theorem setBv_fuses : (setBv s b).fuses = s.fuses := rfl
@[simp] theorem setBv_boot : (setBv s b).boot = s.boot := rfl
@[simp] theorem setBv_ports : (setBv s b).ports = s.ports := rfl
@[simp] theorem setBv_conns : (setBv s b).conns = s.conns := rfl
@[simp] theorem setBv_hbm : (setBv s b).hbm = s.hbm := rfl
@[simp] theorem rawReg_setBv (a : Reg) (x y : Nat) : rawReg (setBv s b) a x y = rawReg s a x y := rfl
@[simp] theorem getCore_setBv (i : Nat) : getCore (setBv s b) i = getCore s i := rfl
@[simp] theorem getField_setBv (i : Nat) : getField (setBv s b) i = getField s i := rfl
@[simp] theorem getBlock_setBv (i : Nat) : getBlock (setBv s b) i = getBlock s i := rfl
@[simp] theorem getLink_setBv (i j : Nat) : getLink (setBv s b) i j = getLink s i j := rfl
@[simp] theorem getRegion_setBv (i : Nat) : getRegion (setBv s b) i = getRegion s i := rfl
@[simp] theorem getPort_setBv (i : Nat) : getPort (setBv s b) i = getPort s i := rfl
@[simp] theorem getPart_setBv (i : Nat) : getPart (setBv s b) i = getPart s i := rfl
@[simp] theorem getSeq_setBv (i : Nat) : getSeq (setBv s b) i = getSeq s i := rfl
@[simp] theorem getPipe_setBv (i : Nat) : getPipe (setBv s b) i = getPipe s i := rfl
@[simp] theorem hgNow_setBv : hgNow (setBv s b) = hgNow s := rfl

end

section

variable (p : Nat) (v : Partition)

@[simp] theorem setPart_pending : (setPart s p v).pending = s.pending := rfl
@[simp] theorem setPart_fresh : (setPart s p v).fresh = s.fresh := rfl
@[simp] theorem setPart_regs : (setPart s p v).regs = s.regs := rfl
@[simp] theorem setPart_mem : (setPart s p v).mem = s.mem := rfl
@[simp] theorem setPart_upset : (setPart s p v).upset = s.upset := rfl
@[simp] theorem setPart_backs : (setPart s p v).backs = s.backs := rfl
@[simp] theorem setPart_cores : (setPart s p v).cores = s.cores := rfl
@[simp] theorem setPart_fields : (setPart s p v).fields = s.fields := rfl
@[simp] theorem setPart_blocks : (setPart s p v).blocks = s.blocks := rfl
@[simp] theorem setPart_passes : (setPart s p v).passes = s.passes := rfl
@[simp] theorem setPart_furrow : (setPart s p v).furrow = s.furrow := rfl
@[simp] theorem setPart_links : (setPart s p v).links = s.links := rfl
@[simp] theorem setPart_canal : (setPart s p v).canal = s.canal := rfl
@[simp] theorem setPart_outs : (setPart s p v).outs = s.outs := rfl
@[simp] theorem setPart_bv : (setPart s p v).bv = s.bv := rfl
@[simp] theorem setPart_head : (setPart s p v).head = { s.head with parts := tput s.head.parts p v } := rfl
@[simp] theorem setPart_clk : (setPart s p v).clk = s.clk := rfl
@[simp] theorem setPart_pow : (setPart s p v).pow = s.pow := rfl
@[simp] theorem setPart_fuses : (setPart s p v).fuses = s.fuses := rfl
@[simp] theorem setPart_boot : (setPart s p v).boot = s.boot := rfl
@[simp] theorem setPart_ports : (setPart s p v).ports = s.ports := rfl
@[simp] theorem setPart_conns : (setPart s p v).conns = s.conns := rfl
@[simp] theorem setPart_hbm : (setPart s p v).hbm = s.hbm := rfl
@[simp] theorem rawReg_setPart (a : Reg) (x y : Nat) : rawReg (setPart s p v) a x y = rawReg s a x y := rfl
@[simp] theorem getCore_setPart (i : Nat) : getCore (setPart s p v) i = getCore s i := rfl
@[simp] theorem getField_setPart (i : Nat) : getField (setPart s p v) i = getField s i := rfl
@[simp] theorem getBlock_setPart (i : Nat) : getBlock (setPart s p v) i = getBlock s i := rfl
@[simp] theorem getLink_setPart (i j : Nat) : getLink (setPart s p v) i j = getLink s i j := rfl
@[simp] theorem getRegion_setPart (i : Nat) : getRegion (setPart s p v) i = getRegion s i := rfl
@[simp] theorem getPort_setPart (i : Nat) : getPort (setPart s p v) i = getPort s i := rfl
@[simp] theorem hgNow_setPart : hgNow (setPart s p v) = hgNow s := rfl

end

section

variable (q : Nat) (v : Sequ)

@[simp] theorem setSeq_pending : (setSeq s q v).pending = s.pending := rfl
@[simp] theorem setSeq_fresh : (setSeq s q v).fresh = s.fresh := rfl
@[simp] theorem setSeq_regs : (setSeq s q v).regs = s.regs := rfl
@[simp] theorem setSeq_mem : (setSeq s q v).mem = s.mem := rfl
@[simp] theorem setSeq_upset : (setSeq s q v).upset = s.upset := rfl
@[simp] theorem setSeq_backs : (setSeq s q v).backs = s.backs := rfl
@[simp] theorem setSeq_cores : (setSeq s q v).cores = s.cores := rfl
@[simp] theorem setSeq_fields : (setSeq s q v).fields = s.fields := rfl
@[simp] theorem setSeq_blocks : (setSeq s q v).blocks = s.blocks := rfl
@[simp] theorem setSeq_passes : (setSeq s q v).passes = s.passes := rfl
@[simp] theorem setSeq_furrow : (setSeq s q v).furrow = s.furrow := rfl
@[simp] theorem setSeq_links : (setSeq s q v).links = s.links := rfl
@[simp] theorem setSeq_canal : (setSeq s q v).canal = s.canal := rfl
@[simp] theorem setSeq_outs : (setSeq s q v).outs = s.outs := rfl
@[simp] theorem setSeq_bv : (setSeq s q v).bv = s.bv := rfl
@[simp] theorem setSeq_head : (setSeq s q v).head = { s.head with seqs := tput s.head.seqs q v } := rfl
@[simp] theorem setSeq_clk : (setSeq s q v).clk = s.clk := rfl
@[simp] theorem setSeq_pow : (setSeq s q v).pow = s.pow := rfl
@[simp] theorem setSeq_fuses : (setSeq s q v).fuses = s.fuses := rfl
@[simp] theorem setSeq_boot : (setSeq s q v).boot = s.boot := rfl
@[simp] theorem setSeq_ports : (setSeq s q v).ports = s.ports := rfl
@[simp] theorem setSeq_conns : (setSeq s q v).conns = s.conns := rfl
@[simp] theorem setSeq_hbm : (setSeq s q v).hbm = s.hbm := rfl
@[simp] theorem rawReg_setSeq (a : Reg) (x y : Nat) : rawReg (setSeq s q v) a x y = rawReg s a x y := rfl
@[simp] theorem getCore_setSeq (i : Nat) : getCore (setSeq s q v) i = getCore s i := rfl
@[simp] theorem getField_setSeq (i : Nat) : getField (setSeq s q v) i = getField s i := rfl
@[simp] theorem getBlock_setSeq (i : Nat) : getBlock (setSeq s q v) i = getBlock s i := rfl
@[simp] theorem getLink_setSeq (i j : Nat) : getLink (setSeq s q v) i j = getLink s i j := rfl
@[simp] theorem getRegion_setSeq (i : Nat) : getRegion (setSeq s q v) i = getRegion s i := rfl
@[simp] theorem getPort_setSeq (i : Nat) : getPort (setSeq s q v) i = getPort s i := rfl
@[simp] theorem hgNow_setSeq : hgNow (setSeq s q v) = hgNow s := rfl

end

section

variable (k : Nat) (o : OutPort)

@[simp] theorem setOut_pending : (setOut s k o).pending = s.pending := rfl
@[simp] theorem setOut_fresh : (setOut s k o).fresh = s.fresh := rfl
@[simp] theorem setOut_regs : (setOut s k o).regs = s.regs := rfl
@[simp] theorem setOut_mem : (setOut s k o).mem = s.mem := rfl
@[simp] theorem setOut_upset : (setOut s k o).upset = s.upset := rfl
@[simp] theorem setOut_backs : (setOut s k o).backs = s.backs := rfl
@[simp] theorem setOut_cores : (setOut s k o).cores = s.cores := rfl
@[simp] theorem setOut_fields : (setOut s k o).fields = s.fields := rfl
@[simp] theorem setOut_blocks : (setOut s k o).blocks = s.blocks := rfl
@[simp] theorem setOut_passes : (setOut s k o).passes = s.passes := rfl
@[simp] theorem setOut_furrow : (setOut s k o).furrow = s.furrow := rfl
@[simp] theorem setOut_links : (setOut s k o).links = s.links := rfl
@[simp] theorem setOut_canal : (setOut s k o).canal = s.canal := rfl
@[simp] theorem setOut_bv : (setOut s k o).bv = s.bv := rfl
@[simp] theorem setOut_head : (setOut s k o).head = s.head := rfl
@[simp] theorem setOut_clk : (setOut s k o).clk = s.clk := rfl
@[simp] theorem setOut_pow : (setOut s k o).pow = s.pow := rfl
@[simp] theorem setOut_fuses : (setOut s k o).fuses = s.fuses := rfl
@[simp] theorem setOut_boot : (setOut s k o).boot = s.boot := rfl
@[simp] theorem setOut_ports : (setOut s k o).ports = s.ports := rfl
@[simp] theorem setOut_conns : (setOut s k o).conns = s.conns := rfl
@[simp] theorem setOut_hbm : (setOut s k o).hbm = s.hbm := rfl
@[simp] theorem rawReg_setOut (a : Reg) (x y : Nat) : rawReg (setOut s k o) a x y = rawReg s a x y := rfl
@[simp] theorem getCore_setOut (i : Nat) : getCore (setOut s k o) i = getCore s i := rfl
@[simp] theorem getField_setOut (i : Nat) : getField (setOut s k o) i = getField s i := rfl
@[simp] theorem getBlock_setOut (i : Nat) : getBlock (setOut s k o) i = getBlock s i := rfl
@[simp] theorem getLink_setOut (i j : Nat) : getLink (setOut s k o) i j = getLink s i j := rfl
@[simp] theorem getRegion_setOut (i : Nat) : getRegion (setOut s k o) i = getRegion s i := rfl
@[simp] theorem getPort_setOut (i : Nat) : getPort (setOut s k o) i = getPort s i := rfl
@[simp] theorem getPart_setOut (i : Nat) : getPart (setOut s k o) i = getPart s i := rfl
@[simp] theorem getSeq_setOut (i : Nat) : getSeq (setOut s k o) i = getSeq s i := rfl
@[simp] theorem getPipe_setOut (i : Nat) : getPipe (setOut s k o) i = getPipe s i := rfl
@[simp] theorem hgNow_setOut : hgNow (setOut s k o) = hgNow s := rfl

end

section

variable (x : Nat) (c : Crossing)

@[simp] theorem setCrossing_pending : (setCrossing s x c).pending = s.pending := rfl
@[simp] theorem setCrossing_fresh : (setCrossing s x c).fresh = s.fresh := rfl
@[simp] theorem setCrossing_regs : (setCrossing s x c).regs = s.regs := rfl
@[simp] theorem setCrossing_mem : (setCrossing s x c).mem = s.mem := rfl
@[simp] theorem setCrossing_upset : (setCrossing s x c).upset = s.upset := rfl
@[simp] theorem setCrossing_backs : (setCrossing s x c).backs = s.backs := rfl
@[simp] theorem setCrossing_cores : (setCrossing s x c).cores = s.cores := rfl
@[simp] theorem setCrossing_fields : (setCrossing s x c).fields = s.fields := rfl
@[simp] theorem setCrossing_blocks : (setCrossing s x c).blocks = s.blocks := rfl
@[simp] theorem setCrossing_passes : (setCrossing s x c).passes = s.passes := rfl
@[simp] theorem setCrossing_furrow : (setCrossing s x c).furrow = s.furrow := rfl
@[simp] theorem setCrossing_links : (setCrossing s x c).links = s.links := rfl
@[simp] theorem setCrossing_canal : (setCrossing s x c).canal = s.canal := rfl
@[simp] theorem setCrossing_outs : (setCrossing s x c).outs = s.outs := rfl
@[simp] theorem setCrossing_bv : (setCrossing s x c).bv = s.bv := rfl
@[simp] theorem setCrossing_head : (setCrossing s x c).head = s.head := rfl
@[simp] theorem setCrossing_clk : (setCrossing s x c).clk = { s.clk with crossings := tput s.clk.crossings x c } := rfl
@[simp] theorem setCrossing_pow : (setCrossing s x c).pow = s.pow := rfl
@[simp] theorem setCrossing_fuses : (setCrossing s x c).fuses = s.fuses := rfl
@[simp] theorem setCrossing_boot : (setCrossing s x c).boot = s.boot := rfl
@[simp] theorem setCrossing_ports : (setCrossing s x c).ports = s.ports := rfl
@[simp] theorem setCrossing_conns : (setCrossing s x c).conns = s.conns := rfl
@[simp] theorem setCrossing_hbm : (setCrossing s x c).hbm = s.hbm := rfl
@[simp] theorem rawReg_setCrossing (a : Reg) (x y : Nat) : rawReg (setCrossing s x c) a x y = rawReg s a x y := rfl
@[simp] theorem getCore_setCrossing (i : Nat) : getCore (setCrossing s x c) i = getCore s i := rfl
@[simp] theorem getField_setCrossing (i : Nat) : getField (setCrossing s x c) i = getField s i := rfl
@[simp] theorem getBlock_setCrossing (i : Nat) : getBlock (setCrossing s x c) i = getBlock s i := rfl
@[simp] theorem getLink_setCrossing (i j : Nat) : getLink (setCrossing s x c) i j = getLink s i j := rfl
@[simp] theorem getPort_setCrossing (i : Nat) : getPort (setCrossing s x c) i = getPort s i := rfl
@[simp] theorem getPart_setCrossing (i : Nat) : getPart (setCrossing s x c) i = getPart s i := rfl
@[simp] theorem getSeq_setCrossing (i : Nat) : getSeq (setCrossing s x c) i = getSeq s i := rfl
@[simp] theorem getPipe_setCrossing (i : Nat) : getPipe (setCrossing s x c) i = getPipe s i := rfl

end

section

variable (k : Nat) (v : Pipe)

@[simp] theorem setPipe_pending : (setPipe s k v).pending = s.pending := rfl
@[simp] theorem setPipe_fresh : (setPipe s k v).fresh = s.fresh := rfl
@[simp] theorem setPipe_regs : (setPipe s k v).regs = s.regs := rfl
@[simp] theorem setPipe_mem : (setPipe s k v).mem = s.mem := rfl
@[simp] theorem setPipe_upset : (setPipe s k v).upset = s.upset := rfl
@[simp] theorem setPipe_backs : (setPipe s k v).backs = s.backs := rfl
@[simp] theorem setPipe_cores : (setPipe s k v).cores = s.cores := rfl
@[simp] theorem setPipe_fields : (setPipe s k v).fields = s.fields := rfl
@[simp] theorem setPipe_blocks : (setPipe s k v).blocks = s.blocks := rfl
@[simp] theorem setPipe_passes : (setPipe s k v).passes = s.passes := rfl
@[simp] theorem setPipe_furrow : (setPipe s k v).furrow = s.furrow := rfl
@[simp] theorem setPipe_links : (setPipe s k v).links = s.links := rfl
@[simp] theorem setPipe_canal : (setPipe s k v).canal = s.canal := rfl
@[simp] theorem setPipe_outs : (setPipe s k v).outs = s.outs := rfl
@[simp] theorem setPipe_bv : (setPipe s k v).bv = s.bv := rfl
@[simp] theorem setPipe_head : (setPipe s k v).head = { s.head with pipes := tput s.head.pipes k v } := rfl
@[simp] theorem setPipe_clk : (setPipe s k v).clk = s.clk := rfl
@[simp] theorem setPipe_pow : (setPipe s k v).pow = s.pow := rfl
@[simp] theorem setPipe_fuses : (setPipe s k v).fuses = s.fuses := rfl
@[simp] theorem setPipe_boot : (setPipe s k v).boot = s.boot := rfl
@[simp] theorem setPipe_ports : (setPipe s k v).ports = s.ports := rfl
@[simp] theorem setPipe_conns : (setPipe s k v).conns = s.conns := rfl
@[simp] theorem setPipe_hbm : (setPipe s k v).hbm = s.hbm := rfl
@[simp] theorem rawReg_setPipe (a : Reg) (x y : Nat) : rawReg (setPipe s k v) a x y = rawReg s a x y := rfl
@[simp] theorem getCore_setPipe (i : Nat) : getCore (setPipe s k v) i = getCore s i := rfl
@[simp] theorem getField_setPipe (i : Nat) : getField (setPipe s k v) i = getField s i := rfl
@[simp] theorem getBlock_setPipe (i : Nat) : getBlock (setPipe s k v) i = getBlock s i := rfl
@[simp] theorem getLink_setPipe (i j : Nat) : getLink (setPipe s k v) i j = getLink s i j := rfl
@[simp] theorem getRegion_setPipe (i : Nat) : getRegion (setPipe s k v) i = getRegion s i := rfl
@[simp] theorem getPort_setPipe (i : Nat) : getPort (setPipe s k v) i = getPort s i := rfl
@[simp] theorem hgNow_setPipe : hgNow (setPipe s k v) = hgNow s := rfl

end
/-! ### A named read after the update of its own record -/

@[simp] theorem getCore_setCore_self (c : Nat) (k : Core) : getCore (setCore s c k) c = k := by simp [getCore]
theorem getCore_setCore_ne {c d : Nat} (k : Core) (h : d ≠ c) : getCore (setCore s c k) d = getCore s d :=
  tgetD_tput_ne _ _ _ _ h
@[simp] theorem getCore_modCore_self (c : Nat) (f : Core → Core) : getCore (modCore s c f) c = f (getCore s c) := by
  simp [modCore]
theorem getCore_modCore_ne {c d : Nat} (f : Core → Core) (h : d ≠ c) : getCore (modCore s c f) d = getCore s d :=
  getCore_setCore_ne s _ h
@[simp] theorem getField_setField_self (f : Nat) (v : Field) : getField (setField s f v) f = v := by simp [getField]
theorem getField_setField_ne {f g : Nat} (v : Field) (h : g ≠ f) : getField (setField s f v) g = getField s g :=
  tgetD_tput_ne _ _ _ _ h
@[simp] theorem getBlock_setBlock_self (b : Nat) (v : Block) : getBlock (setBlock s b v) b = v := by simp [getBlock]
theorem getBlock_setBlock_ne {b d : Nat} (v : Block) (h : d ≠ b) : getBlock (setBlock s b v) d = getBlock s d :=
  tgetD_tput_ne _ _ _ _ h
@[simp] theorem getLink_setLink_self (r d : Nat) (l : CLink) : getLink (setLink s r d l) r d = l := by simp [getLink]
theorem getLink_setLink_ne {r d x y : Nat} (l : CLink) (h : x * 4 + y ≠ r * 4 + d) :
    getLink (setLink s r d l) x y = getLink s x y :=
  tgetD_tput_ne _ _ _ _ h
@[simp] theorem getRegion_setRegion_self (r : Nat) (v : Region) : getRegion (setRegion s r v) r = v := by simp [getRegion]
theorem getRegion_setRegion_ne {r x : Nat} (v : Region) (h : x ≠ r) : getRegion (setRegion s r v) x = getRegion s x :=
  tgetD_tput_ne _ _ _ _ h
@[simp] theorem getPort_setPort_self (p : Nat) (v : EthPort) : getPort (setPort s p v) p = v := by simp [getPort]
theorem getPort_setPort_ne {p x : Nat} (v : EthPort) (h : x ≠ p) : getPort (setPort s p v) x = getPort s x :=
  tgetD_tput_ne _ _ _ _ h
@[simp] theorem getVGroup_setVGroup_self (g : Nat) (v : VGroup) : getVGroup (setVGroup s g v) g = v := by simp [getVGroup]
theorem getVGroup_setVGroup_ne {g x : Nat} (v : VGroup) (h : x ≠ g) : getVGroup (setVGroup s g v) x = getVGroup s x :=
  tgetD_tput_ne _ _ _ _ h
@[simp] theorem getSensor_setSensor_self (i : Nat) (v : Sensor) : getSensor (setSensor s i v) i = v := by simp [getSensor]
theorem getSensor_setSensor_ne {i x : Nat} (v : Sensor) (h : x ≠ i) : getSensor (setSensor s i v) x = getSensor s x :=
  tgetD_tput_ne _ _ _ _ h
@[simp] theorem getPart_setPart_self (p : Nat) (v : Partition) : getPart (setPart s p v) p = some v := by simp [getPart]
theorem getPart_setPart_ne {p x : Nat} (v : Partition) (h : x ≠ p) : getPart (setPart s p v) x = getPart s x :=
  tget_tput_ne _ _ _ h
@[simp] theorem getSeq_setSeq_self (q : Nat) (v : Sequ) : getSeq (setSeq s q v) q = some v := by simp [getSeq]
theorem getSeq_setSeq_ne {q x : Nat} (v : Sequ) (h : x ≠ q) : getSeq (setSeq s q v) x = getSeq s x :=
  tget_tput_ne _ _ _ h
@[simp] theorem getPipe_setPipe_self (k : Nat) (v : Pipe) : getPipe (setPipe s k v) k = some v := by simp [getPipe]
theorem getPipe_setPipe_ne {k x : Nat} (v : Pipe) (h : x ≠ k) : getPipe (setPipe s k v) x = getPipe s x :=
  tget_tput_ne _ _ _ h

/-! ### Register words -/

@[simp] theorem rawReg_setReg_self (r : Reg) (u : Nat) (v : W32) (w : Nat) : rawReg (setReg s r u v w) r u w = v := by
  simp [rawReg]

/-- A word of another address reads as before. -/
theorem rawReg_setReg_ne {r a : Reg} {u w x y : Nat} (v : W32) (h : a.addr x y ≠ r.addr u w) :
    rawReg (setReg s r u v w) a x y = rawReg s a x y :=
  tgetD_tput_ne _ _ _ _ h

@[simp] theorem rawReg_bump_self (r : Reg) (u n : Nat) : rawReg (bump s r u n) r u = rawReg s r u + BitVec.ofNat 32 n := by
  simp [bump]
theorem rawReg_bump_ne {r a : Reg} {u x y : Nat} (n : Nat) (h : a.addr x y ≠ r.addr u 0) :
    rawReg (bump s r u n) a x y = rawReg s a x y := rawReg_setReg_ne s _ h
@[simp] theorem rawReg_setEvent_self (r : Reg) (u b : Nat) :
    rawReg (setEvent s r u b) r u = (rawReg s r u ||| BitVec.ofNat 32 (2 ^ b)) := by
  simp [setEvent]
theorem rawReg_setEvent_ne {r a : Reg} {u x y : Nat} (b : Nat) (h : a.addr x y ≠ r.addr u 0) :
    rawReg (setEvent s r u b) a x y = rawReg s a x y := rawReg_setReg_ne s _ h

/-- The words of two registers of one block lie apart where their copies are the same. -/
theorem addr_ne_of_off {r a : Reg} (u : Nat) (hb : r.row.blk = a.row.blk) (ho : r.row.off ≠ a.row.off) : a.addr u 0 ≠ r.addr u 0 := by
  simp only [Reg.addr, hb]; omega

/-! ### Metered events -/

/-- A charge changes nothing but the sequences. -/
theorem chargeTask_eq (c cls n : Nat) :
    ∃ seqs, chargeTask s c cls n = { s with head := { s.head with seqs := seqs } } := by
  unfold chargeTask
  split
  · exact ⟨s.head.seqs, rfl⟩
  · split
    · exact ⟨s.head.seqs, rfl⟩
    · exact ⟨_, rfl⟩

/-- What a core meters changes nothing but the counted events and the sequences. -/
theorem meterCore_eq (c cls n : Nat) : ∃ events seqs, meterCore s c cls n =
    { s with pow := { s.pow with events := events }, head := { s.head with seqs := seqs } } := by
  obtain ⟨q, e⟩ := chargeTask_eq (meter s (corePart s c) cls n) c cls n
  exact ⟨_, q, e⟩

theorem meterRows_eq (c part : Option Nat) (wr : Bool) (a n : Nat) : ∃ events seqs, meterRows s c part wr a n =
    { s with pow := { s.pow with events := events }, head := { s.head with seqs := seqs } } := by
  unfold meterRows
  split
  · exact ⟨s.pow.events, s.head.seqs, rfl⟩
  · dsimp only
    split
    · exact meterCore_eq _ _ _ _
    · split
      · obtain ⟨q, e⟩ := chargeTask_eq (meter s ((rangeOf s _ _).map (·.part)) (6 + if wr then 1 else 0) ((a + n - 1) / 64 - a / 64 + 1)) _
          (6 + if wr then 1 else 0) ((a + n - 1) / 64 - a / 64 + 1)
        exact ⟨_, q, e⟩
      · exact ⟨_, s.head.seqs, rfl⟩
    · exact ⟨_, s.head.seqs, rfl⟩
    · exact ⟨s.pow.events, s.head.seqs, rfl⟩

/-! ### Packets put on the canal -/

@[simp] theorem getCrossing_setCrossing_self (x : Nat) (c : Crossing) : getCrossing (setCrossing s x c) x = c := by simp [getCrossing]
theorem getCrossing_setCrossing_ne {x y : Nat} (c : Crossing) (h : y ≠ x) : getCrossing (setCrossing s x c) y = getCrossing s y :=
  tgetD_tput_ne _ _ _ _ h

/-- Entries that come into a crossing change its fill alone. -/
theorem fifoPut_eq (x : Option Nat) (n : Nat) : (∃ xs, fifoPut s x n = { s with clk := { s.clk with crossings := xs } }) ∧
    ∀ y, getCrossing (fifoPut s x n) y = { getCrossing s y with fill := (getCrossing (fifoPut s x n) y).fill } := by
  cases x with
  | none => exact ⟨⟨s.clk.crossings, rfl⟩, fun _ => rfl⟩
  | some x =>
    refine ⟨⟨_, rfl⟩, fun y => ?_⟩
    by_cases h : y = x
    · subst h; simp [fifoPut]
    · simp [fifoPut, getCrossing_setCrossing_ne s _ h]

/-- A packet sent stands at the end of those in flight; beside that a crossing and an output port have taken it. -/
theorem sendPkt_eq (t : PType) (p : Packet) : ∃ xs outs, sendPkt s t p =
    { s with canal := s.canal ++ [(t, p)], outs := outs, clk := { s.clk with crossings := xs } } := by
  unfold sendPkt
  split
  · exact ⟨s.clk.crossings, s.outs, rfl⟩
  · dsimp only
    obtain ⟨⟨xs, e⟩, -⟩ := fifoPut_eq { s with canal := s.canal ++ [(t, p)] } ((endCrossings p.src).map Prod.fst)
      (flightStart { s with canal := s.canal ++ [(t, p)] } t p).left
    rw [e]
    exact ⟨xs, _, rfl⟩

/-! ### Records of the headgate -/

/-- An event changes nothing but the telemetry of the headgate. -/
theorem telemeter_eq (kind region : Nat) (part : Option Nat) (body : List Byte) :
    ∃ tel telNext telLost telGone telPush telBuf, telemeter s kind region part body = { s with head := { s.head with
      tel := tel, telNext := telNext, telLost := telLost, telGone := telGone, telPush := telPush, telBuf := telBuf } } := by
  unfold telemeter
  dsimp only
  split
  · split <;> exact ⟨_, _, _, _, _, _, rfl⟩
  · exact ⟨_, _, _, _, _, _, rfl⟩

theorem report_eq (code status : Nat) (part : Option Nat) (unit detail region : Nat) :
    ∃ tel telNext telLost telGone telPush telBuf, report s code status part unit detail region = { s with head := { s.head with
      tel := tel, telNext := telNext, telLost := telLost, telGone := telGone, telPush := telPush, telBuf := telBuf } } :=
  telemeter_eq s 3 region part _

/-- A completion joins those that are due, or those that wait for the end of a reload (R358). -/
theorem postCpl_eq (c : Cpl) (h : s.head.reload ≠ 2) :
    postCpl s c = { s with head := { s.head with cplDue := s.head.cplDue ++ [c] } } := by simp [postCpl, h]

/-- The ring of records keeps the newest record while that record alone fits. -/
theorem trimTel_append (n : Nat) (l : List TRec) (r : TRec) (h : 16 + r.body.length ≤ 0x1000000) :
    ∃ l', trimTel n (l ++ [r]) = l' ++ [r] := by
  induction n generalizing l with
  | zero => exact ⟨l, rfl⟩
  | succ n ih =>
    simp only [trimTel]
    split
    · exact ⟨l, rfl⟩
    · cases l with
      | nil => rename_i hn; simp at hn; omega
      | cons x l => exact ih l

end Sys2Proof.Machine
end

