-- ==== Sys2Proof/Laws/Keeps.lean ====
section
/-!
SUPPORT. One relation for what every operation of the device keeps (the queue, the fuses and the ledger, the canonical form of
memory, the bound of the replay buffer), closed under composition, and shown of the operations that write these.
-/
namespace Sys2Proof.Machine

/-- What no operation of the device breaks. -/
def Keeps (s t : State) : Prop := t.pending = s.pending ∧ Kept s t ∧ (Inv s → Inv t)

theorem kept_refl (s : State) : Kept s s :=
  ⟨rfl, rfl, rfl, rfl, rfl, rfl, Nat.le_refl _, fun _ h => h, List.prefix_refl _⟩

theorem kept_trans {s t u : State} : Kept s t → Kept t u → Kept s u
  | ⟨a1, a2, a3, a4, a5, a6, a7, a8, a9⟩, ⟨b1, b2, b3, b4, b5, b6, b7, b8, b9⟩ =>
    ⟨b1.trans a1, b2.trans a2, b3.trans a3, b4.trans a4, b5.trans a5, b6.trans a6, Nat.le_trans a7 b7, fun k h => b8 k (a8 k h), a9.trans b9⟩

theorem Keeps.refl (s : State) : Keeps s s := ⟨rfl, kept_refl s, id⟩

theorem Keeps.trans {s t u : State} (a : Keeps s t) (b : Keeps t u) : Keeps s u :=
  ⟨b.1.trans a.1, kept_trans a.2.1 b.2.1, fun h => b.2.2 (a.2.2 h)⟩

theorem kept_of_eq {s t : State} (hf : t.fuses = s.fuses) (hl : t.head.ledger = s.head.ledger) : Kept s t := by
  unfold Kept
  rw [hf, hl]
  exact kept_refl s

/-- An update that leaves the queue, the fuses and the ledger, and keeps memory's form and the replay buffer's bound. -/
theorem Keeps.of_parts {r s t : State} (h : Keeps r s) (hp : t.pending = s.pending) (hf : t.fuses = s.fuses)
    (hl : t.head.ledger = s.head.ledger) (hm : s.mem.wf = true → t.mem.wf = true)
    (hb : s.bv.kept.length ≤ 512 → t.bv.kept.length ≤ 512) : Keeps r t :=
  h.trans ⟨hp, kept_of_eq hf hl, fun hi => ⟨hm hi.1, hb hi.2⟩⟩

/-- A change of the Brivlink that keeps its bound. -/
theorem Keeps.of_bv {r s t : State} (h : Keeps r s) (hp : t.pending = s.pending) (hf : t.fuses = s.fuses)
    (hl : t.head.ledger = s.head.ledger) (hm : t.mem = s.mem) (hb : s.bv.kept.length ≤ 512 → t.bv.kept.length ≤ 512) : Keeps r t :=
  h.of_parts hp hf hl (hm ▸ id) hb

/-- A write to memory that keeps its form. -/
theorem Keeps.of_mem {r s t : State} (h : Keeps r s) (hp : t.pending = s.pending) (hf : t.fuses = s.fuses)
    (hl : t.head.ledger = s.head.ledger) (hm : s.mem.wf = true → t.mem.wf = true) (hb : t.bv.kept = s.bv.kept) : Keeps r t :=
  h.of_parts hp hf hl hm (hb ▸ id)

/-- An update of anything else. -/
theorem Keeps.of_eq {r s t : State} (h : Keeps r s) (hp : t.pending = s.pending) (hf : t.fuses = s.fuses)
    (hl : t.head.ledger = s.head.ledger) (hm : t.mem = s.mem) (hb : t.bv.kept = s.bv.kept) : Keeps r t :=
  h.of_mem hp hf hl (hm ▸ id) hb

/-- A fold of operations that keep it. -/
theorem Keeps.foldl {α : Type} {r s : State} (f : State → α → State) (l : List α) (h : Keeps r s)
    (hf : ∀ x a, Keeps r x → Keeps r (f x a)) : Keeps r (l.foldl f s) := by
  induction l generalizing s with
  | nil => exact h
  | cons a l ih => exact ih (hf s a h)

/-! ### The operations that write the replay buffer or the device memory -/

theorem keeps_setBv (r s : State) (b : Bv) (h : Keeps r s) (e : s.bv.kept.length ≤ 512 → b.kept.length ≤ 512) : Keeps r (setBv s b) :=
  Keeps.of_bv h rfl rfl rfl rfl e

theorem bvEmit_kept (b : Bv) (m : BvMsg) : (bvEmit b m).kept.length ≤ 512 := by
  simp only [bvEmit, List.length_drop]; omega

theorem bvTry_kept (b : Bv) (m : BvMsg) (h : b.kept.length ≤ 512) : (bvTry b m).kept.length ≤ 512 := by
  unfold bvTry
  split
  · exact bvEmit_kept _ _
  · split
    · exact bvEmit_kept _ _
    · exact h

theorem bvFlush_kept (b : Bv) (h : b.kept.length ≤ 512) : (bvFlush b).kept.length ≤ 512 := by
  unfold bvFlush
  have : ∀ (l : List BvMsg) (x : Bv), x.kept.length ≤ 512 → (l.foldl bvTry x).kept.length ≤ 512 := by
    intro l
    induction l with
    | nil => intro x hx; exact hx
    | cons m l ih => intro x hx; exact ih _ (bvTry_kept x m hx)
  exact this _ _ h

theorem ackFlits_kept (b : Bv) (a : Nat) (h : b.kept.length ≤ 512) : (ackFlits b a).kept.length ≤ 512 := by
  unfold ackFlits
  split
  · simp only [List.length_drop]
    have := (List.dropWhile_sublist (fun x => decide (x ≠ a)) (l := b.kept)).length_le
    omega
  · exact h

theorem keeps_bvSendFor (r s : State) (p : Option Nat) (m : BvMsg) (h : Keeps r s) : Keeps r (bvSendFor s p m) :=
  Keeps.of_bv h rfl rfl rfl rfl (bvTry_kept s.bv m)

theorem keeps_telemeter (r s : State) (kind region : Nat) (part : Option Nat) (body : List Byte) (h : Keeps r s) :
    Keeps r (telemeter s kind region part body) := by
  obtain ⟨_, _, _, _, _, _, e⟩ := telemeter_eq s kind region part body
  rw [e]; exact Keeps.of_eq h rfl rfl rfl rfl rfl

theorem keeps_meterRows (r s : State) (c part : Option Nat) (wr : Bool) (a n : Nat) (h : Keeps r s) :
    Keeps r (meterRows s c part wr a n) := by
  obtain ⟨_, _, e⟩ := meterRows_eq s c part wr a n
  rw [e]; exact Keeps.of_eq h rfl rfl rfl rfl rfl

/-- A charge gives the sequences energy and nothing else. -/
theorem energyOnly_chargeTask (s : State) (c cls n : Nat) : EnergyOnly s (chargeTask s c cls n) := by
  intro x
  unfold chargeTask
  split
  · rfl
  · rename_i t _
    split
    · rfl
    · rename_i q hq
      by_cases hx : x = t.seq
      · subst hx; rw [getSeq_setSeq_self, hq]; rfl
      · rw [getSeq_setSeq_ne s _ hx]

theorem markDirty_eq (s : State) (g : Nat) (old : List Byte) :
    ∃ x, markDirty s g old = { s with head := { s.head with secure := x } } := by
  unfold markDirty; split
  · exact ⟨s.head.secure, rfl⟩
  · exact ⟨_, rfl⟩

theorem keeps_markDirty (r s : State) (g : Nat) (old : List Byte) (h : Keeps r s) : Keeps r (markDirty s g old) := by
  obtain ⟨x, e⟩ := markDirty_eq s g old
  rw [e]; exact Keeps.of_eq h rfl rfl rfl rfl rfl

theorem keeps_putGranule (r s : State) (g : Nat) (bs : List Byte) (h : Keeps r s) : Keeps r (putGranule s g bs) := by
  unfold putGranule
  exact keeps_markDirty _ _ _ _ (Keeps.of_mem h rfl rfl rfl (mwrites_wf _ _) rfl)

theorem keeps_scrub (r s : State) (a b : Nat) (h : Keeps r s) : Keeps r (scrub s a b) :=
  Keeps.of_mem h rfl rfl rfl (mfill_wf _ _ _) rfl
theorem keeps_undefine (r s : State) (a b : Nat) (h : Keeps r s) : Keeps r (undefine s a b) :=
  Keeps.of_mem h rfl rfl rfl (mfill_wf _ _ _) rfl

theorem keeps_compMsg (r s : State) (a : Nat) (bs : List Byte) (ctx : Nat) (tag : W32) (h : Keeps r s) :
    Keeps r (compMsg s a bs ctx tag) := by
  unfold compMsg
  split
  · exact h
  · exact keeps_bvSendFor _ _ _ _ (Keeps.of_mem (s := s) h rfl rfl rfl (mwrites_wf _ _) rfl)

theorem keeps_sendPkt (r s : State) (t : PType) (p : Packet) (h : Keeps r s) : Keeps r (sendPkt s t p) := by
  obtain ⟨xs, outs, e⟩ := sendPkt_eq s t p
  rw [e]; exact Keeps.of_eq h rfl rfl rfl rfl rfl

theorem keeps_captured (r : State) (n : Nat) (s : State) (h : Keeps r s) : Keeps r (captured n s).2 := by
  induction n generalizing s with
  | zero => exact h
  | succ n ih => exact ih _ (Keeps.of_eq h rfl rfl rfl rfl rfl)

theorem keeps_fuLinear (r s : State) (o : FuOp) (q : FuReq) (d : FuDesc) (tf sf : Fmt) (ctl : Ctl) (checked : Bool) (h : Keeps r s)
    (h1 : ∀ x f t a n y, Keeps r x → Keeps r (engineElems x f t a n y).2.2)
    (h2 : ∀ x q f c sd tg tt ft a al be ch sl nw, Keeps r x → Keeps r (furrowStore x q f c sd tg tt ft a al be ch sl nw)) :
    Keeps r (fuLinear s o q d tf sf ctl checked) := by
  unfold fuLinear
  refine h2 _ _ _ _ _ _ _ _ _ _ _ _ _ _ ?_
  split
  · exact h1 _ _ _ _ _ _ h
  · exact h1 _ _ _ _ _ _ (h1 _ _ _ _ _ _ h)

end Sys2Proof.Machine
end

