-- ==== Sys2Proof/WellFormed.lean ====
section
/-!
DEFINITION. Well-formed commands: every operand fits the field, the range of numbers or the unit of data that the manual gives it.
What the manual refuses at run time (a wrong partition, an unaligned address) is well-formed: its refusal is a meaning.
-/
namespace Sys2Proof

/-- A value fits a field of n bits. -/
def wide (n v : Nat) : Bool := decide (v < 2 ^ n)

/-- Header of Table HGM-7: class code in 2 bits, partition in a byte. -/
def hdrOk (h : Hdr) : Bool := decide (h.cls < 4) && wide 8 h.part

/-- Packet of Table CAN-2: field widths, and at most 8 data flits of 512 bytes. -/
def pktOk (p : Packet) : Bool :=
  wide 4 p.len && wide 9 p.dst && wide 9 p.src && wide 6 p.part && wide 8 p.index && decide (p.data.length ≤ 4096)

/-- DMA descriptor of Table BASIN-9: field widths. -/
def dmaOperandOk (d : DmaDesc) : Bool :=
  wide 32 d.count && wide 32 d.rows && wide 32 d.srcPitch && wide 32 d.dstPitch && wide 16 d.target && wide 8 d.index && wide 16 d.unit

/-- Six shape variables of 16 bits (R351). -/
def shapeOk (l : List Nat) : Bool := l.length == 6 && l.all (wide 16)

/-- A word of the control space (R341). -/
def wordOff (o : Nat) : Bool := wide 44 o && o % 4 == 0

/-- One line, and 1 to 8 lines, of the Brivlink (R328). -/
def lineOk (d : List Byte) : Bool := d.length == 64
def linesOk (d : List Byte) : Bool := d.length % 64 == 0 && decide (64 ≤ d.length) && decide (d.length ≤ 512)

/-- Whole granules of 64 bytes, at least one. -/
def granulesOk (d : List Byte) : Bool := d.length % 64 == 0 && decide (64 ≤ d.length)

/-- An offset in a scratchpad of 48 MiB. -/
def inSpad (o : Nat) : Bool := decide (o < 0x03000000)

/-- Disturbed symbols: position 0-35, pattern of 16 bits (R281). -/
def upsetOk (u : List (Nat × Nat)) : Bool := u.all (fun e => decide (e.1 < 36) && wide 16 e.2)

/-- A crossing of log entry 20: 416 pairs, two directions. -/
def crossingOk (x : Nat) : Bool := decide (x < 832)

/-- A core, or an engine block field × 32 + block. -/
def unitOk (isBlock : Bool) (u : Nat) : Bool := if isBlock then decide (u < 384) else decide (u < 240)

/-- Well-formed commands. -/
def Instr.wf : Instr → Bool
  | .identify h _ => hdrOk h
  | .partitionCreate h _ => hdrOk h
  | .partitionDestroy h => hdrOk h
  | .partitionReset h => hdrOk h
  | .clusterReset h cluster => hdrOk h && wide 16 cluster
  | .coreReset h core => hdrOk h && wide 16 core
  | .programLoad h _ bytes reserved _ => hdrOk h && wide 32 bytes && wide 8 reserved
  | .programUnload h program => hdrOk h && wide 16 program
  | .modelAttach h program policies tensors _ _ => hdrOk h && wide 16 program && wide 16 policies && wide 32 tensors
  | .pinWeights h _ _ n k fmt destKind _ destBytes => hdrOk h && wide 32 n && wide 32 k && wide 8 fmt && wide 8 destKind && wide 32 destBytes
  | .unpinWeights h handle => hdrOk h && wide 16 handle
  | .dispatch h model steps _ _ _ deadline shape => hdrOk h && wide 16 model && wide 32 steps && wide 32 deadline && shapeOk shape
  | .cancel h _ => hdrOk h
  | .windowOpen h core kind index _ => hdrOk h && wide 16 core && wide 8 kind && wide 8 index
  | .windowClose h core kind index => hdrOk h && wide 16 core && wide 8 kind && wide 8 index
  | .creditGrant h core index units => hdrOk h && wide 16 core && wide 8 index && wide 32 units
  | .secureConfig h n _ bytes => hdrOk h && wide 32 n && wide 32 bytes
  | .reliefAssign h role _ bytes => hdrOk h && wide 8 role && wide 32 bytes
  | .reliefTakeOver h role _ bytes => hdrOk h && wide 8 role && wide 32 bytes
  | .reliefStandDown h role _ bytes => hdrOk h && wide 8 role && wide 32 bytes
  | .checkpointExport h _ bytes _ path conn => hdrOk h && wide 64 bytes && wide 8 path && wide 32 conn
  | .allotmentSet h scope allot window ceiling => hdrOk h && wide 8 scope && wide 32 allot && wide 32 window && wide 32 ceiling
  | .telemetryRead h _ bytes first => hdrOk h && wide 32 bytes && wide 32 first
  | .surveyRun h scope target _ _ => hdrOk h && wide 8 scope && wide 16 target
  | .fallowRead h _ first count => hdrOk h && wide 16 first && wide 16 count
  | .attest h _ bytes _ => hdrOk h && wide 32 bytes
  | .firmwareReload h _ bytes => hdrOk h && wide 32 bytes
  | .reloadProper => true
  | .commandDoorbell _ _ => true
  | .completionConsumerWrite _ _ => true
  | .contextConfigWrite _ _ => true
  | .contextRingBaseWrite _ _ _ => true
  | .commandRead _ => true
  | .descriptorReadFail _ => true
  | .completionWrite _ _ => true
  | .interruptWrite _ => true
  | .telemetryPush => true
  | .bootGo => true
  | .bootCtlDeviceReset => true
  | .hbIlvWrite _ _ => true
  | .sharedWindowWrite _ => true
  | .scrubCfgWrite _ _ => true
  | .telemetryCfgWrite _ => true
  | .emergencyAllotmentWrite _ => true
  | .headgateCountLoRead => true
  | .ethTsLoRead _ => true
  | .registerWrite off _ => wordOff off
  | .i3cPointerWrite _ => true
  | .i3cPrivateRead => true
  | .i3cDynamicAddress _ => true
  | .jtagBypass => true
  | .jtagIdcode => true
  | .jtagSamplePreload _ => true
  | .jtagExtest => true
  | .feedPresent _ _ _ => true
  | .feedOvervoltage _ _ => true
  | .feedLost _ => true
  | .bothFeedsLost _ => true
  | .resetNAssert _ => true
  | .resetNRelease => true
  | .powerBrakeAssert _ => true
  | .emergencyEnd => true
  | .deviceReset => true
  | .vaonGood _ _ _ => true
  | .headgatePowerUp => true
  | .rotationWave _ => true
  | .generatorLock _ => true
  | .brivlinkTraining _ _ _ => true
  | .imageFetch => true
  | .imageVerify => true
  | .firmwareStart => true
  | .laneSurvey _ => true
  | .hbmInitialisation _ _ => true
  | .ethernetPortTraining _ _ _ => true
  | .startUpSurvey _ => true
  | .ledgerEntryProgram _ => true
  | .readinessDecision => true
  | .fuseUpdate => true
  | .bootScrub => true
  | .flitReceive _ => true
  | .replayRequest _ => true
  | .idleFlitSend => true
  | .linkRecovery _ => true
  | .linkRetrain _ _ _ => true
  | .rd _ _ lines => wide 4 lines
  | .rdShared _ _ => true
  | .rdOwn _ _ => true
  | .evict _ _ => true
  | .wr _ _ data => linesOk data
  | .wrPart _ _ _ data => lineOk data
  | .writeback _ _ data => lineOk data
  | .snpRsp _ _ => true
  | .snpRspData _ data => lineOk data
  | .cpl _ _ => true
  | .cplData _ data => linesOk data
  | .credit _ _ _ _ => true
  | .snoopTimeout _ => true
  | .write p => pktOk p
  | .writeAdd p => pktOk p
  | .readReq p => pktOk p
  | .readReply p => pktOk p
  | .writeToken p => pktOk p
  | .freeToken p => pktOk p
  | .check p => pktOk p
  | .engineReq p => pktOk p
  | .ack p => pktOk p
  | .error p => pktOk p
  | .ctrl p => pktOk p
  | .inval p => pktOk p
  | .flitCrcError _ _ => true
  | .creditWord _ _ _ => true
  | .canalLinkDown _ _ => true
  | .routeRecompute => true
  | .taskStart _ _ => true
  | .weightLoadIssue _ _ => true
  | .transposingLoadIssue _ _ => true
  | .stepUnitSlot _ _ => true
  | .bankOpen _ _ _ _ _ _ => true
  | .markFinal _ _ _ _ => true
  | .drainRead _ _ => true
  | .checksumVerdict _ _ _ => true
  | .tileCommit _ _ _ _ => true
  | .repeatProcedure _ _ _ _ _ _ _ _ => true
  | .repeatComplete _ _ _ => true
  | .vectorFloatArithmetic _ _ _ _ _ _ _ _ => true
  | .vectorMinMax _ _ _ _ _ _ _ => true
  | .vectorCompareSelect _ _ _ d _ _ _ _ => decide (d < 32)
  | .vectorInteger _ _ _ _ _ _ => true
  | .vectorIntegerMultiply _ _ _ _ _ => true
  | .vectorRegisterConversion _ _ _ _ _ _ => true
  | .vectorTranscendental _ _ _ _ _ _ _ => true
  | .vectorPermute _ _ _ _ _ _ => true
  | .vectorLoad _ _ place _ => inSpad place.off
  | .convertingLoad _ _ _ _ _ off sfOff _ => inSpad off && inSpad sfOff
  | .vectorStore _ _ place _ => inSpad place.off
  | .convertingStore _ _ => true
  | .reduceSum _ _ => true
  | .reduceSumOfSquares _ _ => true
  | .reduceMax _ _ => true
  | .reduceMin _ _ => true
  | .reduceArgmax _ _ => true
  | .reduceLogSumExp _ _ => true
  | .transposedRead _ off _ _ => inSpad off
  | .dmaCopy _ d => dmaOperandOk d
  | .dmaConvertingCopy _ d => dmaOperandOk d
  | .dmaZeroFill _ d => dmaOperandOk d
  | .flumePassIssue _ _ => true
  | .flumePassStart _ => true
  | .flumeInputFilled _ => true
  | .flumeVerdict _ _ => true
  | .flumePassComplete _ => true
  | .acc _ _ => true
  | .axpby _ _ => true
  | .scatterAdd _ _ => true
  | .momentum _ _ => true
  | .adam _ _ => true
  | .furrowRowWrite _ _ _ _ => true
  | .furrowRequestComplete _ => true
  | .tokenSend _ _ => true
  | .waitPoint _ _ => true
  | .rowFence _ _ _ => true
  | .stepBoundaryCheck _ => true
  | .grantInstruction _ index _ => wide 8 index
  | .scheduleWindowOpen _ _ index _ => wide 8 index
  | .scheduleWindowClose _ _ index => wide 8 index
  | .maskSlotSpill _ _ off => inSpad off
  | .maskSlotFill _ _ off => inSpad off
  | .commitCheck _ upset => upset.all (fun e => upsetOk e.2)
  | .intakePass _ _ _ _ off _ _ => inSpad off
  | .sideTableRefresh _ _ _ _ _ _ _ _ => true
  | .eccHoldEnd _ => true
  | .stallReport _ => true
  | .deferredWriteLand _ => true
  | .partialWriteLand _ => true
  | .correctionWriteBack _ => true
  | .patrolScrub _ upset => upsetOk upset
  | .hbmRead _ port part upset => upsetOk upset && wide 9 port && wide 6 part
  | .hbmWrite _ port part data => granulesOk data && wide 9 port && wide 6 part
  | .hbmRefresh _ => true
  | .poolRead _ _ upset => upsetOk upset
  | .cacheFillReturn _ _ => true
  | .mergeTargetSplit _ _ _ => true
  | .poolRangeChange _ _ => true
  | .admissionFillSlot _ _ => true
  | .programSwitch _ _ => true
  | .juniorDeadlineExpiry _ => true
  | .stepBoundaryActions _ _ => true
  | .governorDecision _ _ _ => true
  | .bestEffortSample _ _ _ _ => true
  | .suspectEvent isBlock unit => unitOk isBlock unit
  | .inFieldSurvey isBlock unit _ _ => unitOk isBlock unit
  | .coreSilenceTimeout _ => true
  | .stageLost _ => true
  | .reliefPlacementApply _ _ _ => true
  | .surveyDue _ => true
  | .surveyDeferralLimit _ => true
  | .surveyOverdueReport _ => true
  | .checksDisabledReport part => decide (part < 60)
  | .powerSample _ _ _ _ domains => domains.all (fun d => decide (d.1 < 80))
  | .allotmentControl _ _ _ => true
  | .allotmentWindowEnd _ => true
  | .overrunReport _ _ => true
  | .phaseGroupLatch _ => true
  | .phaseGroupRepower _ => true
  | .setpointRaise _ => true
  | .setpointRelax _ => true
  | .settingChange _ => true
  | .temperatureSample readings => readings.all (fun r => decide (r.1 < 96))
  | .thermalLevelAct _ => true
  | .thermalLadderStep _ => true
  | .clusterShed _ => true
  | .fieldShed _ => true
  | .shedHaltTimeout _ _ => true
  | .shedReturn _ => true
  | .hardwareTrip _ _ => true
  | .gaugeWarning _ margin => wide 7 margin
  | .spillRequest _ margin => wide 7 margin
  | .spill _ => true
  | .lockLoss _ => true
  | .holdoverReport _ => true
  | .referenceLoss => true
  | .referenceReturn => true
  | .bypassReengage crossing => crossingOk crossing
  | .correlationMark => true
  | .correlationRecord _ => true
  | .securePointCapture part => decide (part < 60)
  | .secureSend part => decide (part < 60)
  | .epochCommit _ => true
  | .commitNotice _ _ => true
  | .heartbeat => true
  | .heartbeatReceive _ _ => true
  | .memberLost _ => true
  | .selfFence _ => true
  | .reliefDeviceSilent => true
  | .takeover _ _ _ _ _ => true
  | .rollbackNotice _ => true
  | .ethFecLimit _ _ => true
  | .ethPacketReceive _ conn _ => wide 13 conn
  | .ethPacketSend _ conn _ _ => wide 13 conn
  | .generatorRelock _ => true
  | .crossingSkewLeftWindow crossing => crossingOk crossing
  | .powerBrakeRelease => true
  | .orderlyPowerDown => true

end Sys2Proof
end

