-- ==== Sys2Proof/Tests/Slice0.lean ====
section
/-!
SUPPORT. The model's own tests: ill-formed commands that the checks refuse, the manual's worked examples, and for each statement
with hypotheses a state and operands that meet them.
-/
/-! ### The states that the tests and witnesses stand in -/

namespace Sys2Proof.Tests
open Sys2Proof.Machine
set_option Elab.async false

/-- A region that runs, late enough for every delay of the manual to have passed. -/
def onRegion : Region := { Region.reset with powered := true, running := true, locked := true, out := true, count := 10 ^ 16 }

/-- Partition 1: cluster 5, and segments with every right over most of HBM, space 1 and companion memory. -/
def part1 : Partition :=
  { clusters := [5], senior := 0, standard := 100, junior := 0, checks := false, sample := 4, segs := [⟨0, 0xBFFFFFF, true, true, true, true, 0⟩, ⟨2 ^ 32, 2 ^ 33 - 1, true, true, true, true, 0⟩, ⟨3 * 2 ^ 32, 2 ^ 34 - 1, true, true, true, true, 0⟩],
    ctxFirst := 4, ctxCount := 4, queueLimit := 16, imgBase := 0xC800000000, imgBytes := 4096, telFrom := 0,
    pow := { Scope.partition with allot := some 1000 }, vtStd := 0, vtJun := 0, vtCtx := [], sampleSkipped := 0, chkAt := 0, deferH := 6, cyc := 0 }

/-- Program 0 with one stage of one step on core 5, position 0 of pipeline 0. -/
def stage5 : StageRec :=
  { core := 5, pipe := 0, pos := 0, layer := none, layerIn := none, scaleOff := none, gscaleOff := none, width := 128, left := 64, bytes := 64, waitLimit := 4096, budget := 1000, products := [], loops := [],
    sched := [], variants := [], commit := [], persistent := [], twoD := [], tokens := 0, rings := [], reliefs := [] }

def img0 : Image :=
  { version := 1, lanes := 512, checks := false, trained := false, depths := [1], stages := [stage5], windows := [], groups := [], poolRanges := [],
    tensors := [], governed := 0 }

def prog0 : Program := ⟨img0, 1, 0xC800000000, 4096, 0, false⟩

def model0 : Model := ⟨0, 1, [], []⟩

def pipe0 : Pipe := ⟨[5], [9], true, false, false, false, 0, [[]], false⟩

/-- Sequence 9, in flight in pipeline 0. -/
def seq9 : Sequ :=
  { ctx := 0, tag := 9, irq := false, part := 1, cls := 1, model := 0, shape := [], steps := 2, done := 0, seed := 0, input := 3 * 2 ^ 44,
    output := 3 * 2 ^ 44, deadline := none, st := .flight, front := false, pipe := 0, cancel := false, bell := 0, ackAt := 0, startAt := 0,
    energy := 0, cyc := 0, held := [] }

def task5 : Task := ⟨0, 0, 0, 9, 0, 0, 0, 0, 1, 3 * 2 ^ 44, 3 * 2 ^ 44, [], 0, 9⟩

/-- Core 5 at its task, with window 0 over its first 64 granules and turnout range 0 of four units of 1 KiB, both admitting core 4. -/
def win0 : Window := ⟨0, 64, 0, 0, true, true, 4, 1, true, false, []⟩

def range0 : CRange := ⟨64, 4, 4, 0, true, 4, 1, true, false, 4, 0⟩

def core5 : Core := { Core.reset with task := some task5, wins := [(0, win0)], rngs := [(0, range0)] }

/-- The device in service: every region runs, the Brivlink is up, partition 1 runs program 0 on core 5. -/
def live : State :=
  { State.reset with
    clk := { Clocks.reset with regions := (List.range 80).map (fun r => (r, onRegion)) },
    boot := { Boot.reset with phase := 8, vaon := true, hgState := 2, ready := true, bvState := 5, bvWidth := 3 },
    pow := { Power.reset with presentA := true, presentB := true },
    ports := (List.range 16).map (fun p => (p, { EthPort.reset with st := 3, addr := p })),
    cores := [(5, core5)],
    head := { Head.reset with parts := [(1, part1)], progs := [(0, prog0)], models := [(0, model0)], pipes := [(0, pipe0)],
                              seqs := [(9, seq9)], nextSeq := 10 } }

def inBoot (s : State) (f : Boot → Boot) : State := { s with boot := f s.boot }
def inHead (s : State) (f : Head → Head) : State := { s with head := f s.head }
def inPow (s : State) (f : Power → Power) : State := { s with pow := f s.pow }
def inBv (s : State) (f : Bv → Bv) : State := { s with bv := f s.bv }
/-- The device in service with bytes standing at an address. -/
def withBytes (s : State) (a : Nat) (bs : List Byte) : State := { s with mem := mwrites s.mem a bs }

/-- A command of management context 0 for partition 1. -/
def hd0 : Hdr := ⟨0, 7, false, false, false, 1, 1, false⟩

/-- An aligned address of companion memory. -/
def comp0 : W64 := 0x300000000000

/-- A parameter block that creates a partition of cluster 2. -/
def block2 : List Byte := leBytes 8 4 ++ [0, 100, 0, 0, 0, 0] ++ leBytes 2 8 ++ leBytes 2 1 ++ [0, 0] ++ leBytes 4 1 ++ leBytes 8 (0xC800000000 + 8192) ++ leBytes 8 0 ++ List.replicate 24 0

/-- A pinned matrix of one output on core 5. -/
def pin3 : Pin :=
  { part := 1, field := none, core := some 5, base := spadBase 5 + 65536, bytes := 64, n := 1, k := 128, fmt := 4, matrix := 0, side := 4096,
    segOut := 1, segs := 1, blocks := [], lost := false, unpin := false }

/-- The first 208 bytes of an image of one stage: its header and nine empty sections. -/
def imgBytes : List Byte :=
  [0x4E, 0x47, 0x50, 0x49] ++ leBytes 2 1 ++ leBytes 2 512 ++ leBytes 2 1 ++ [1, 0] ++ leBytes 2 9 ++ leBytes 2 0 ++ leBytes 8 208 ++
  List.replicate 40 0 ++ (List.range 9).flatMap (fun i => leBytes 4 (i + 1) ++ [if i = 1 then 1 else 0] ++ List.replicate 11 0)

/-- A configuration block that secures 64 bytes of HBM, with its area at 0xC0_0000_0000. -/
def secureBlock : List Byte :=
  leBytes 2 1 ++ [0, 0] ++ leBytes 4 0 ++ leBytes 8 0xC000000000 ++ leBytes 8 0x100000 ++ leBytes 4 0 ++ leBytes 4 0 ++
  leBytes 8 0 ++ leBytes 8 64 ++ List.replicate 16 0

/-- A ring of this member, number 7, and the relief device behind it. -/
def ring1 : Ring :=
  { id := 7, role := 1, index := 0, beat := 50, reliefBase := 0, reliefBytes := 4096, members := [⟨0, 1, 0, false, false⟩, ⟨1, 2, 0, false, false⟩],
    fenced := false, reliefLost := false, beats := 0, restored := 0, takenOver := none, sent := [] }

/-- The same ring as the relief device sees it. -/
def ring2 : Ring := { ring1 with role := 2, index := 1 }

def reliefBlock (action : Byte) : List Byte := leBytes 2 7 ++ [1, 0, action, 0] ++ leBytes 2 50 ++ List.replicate 24 0 ++ List.replicate 32 0

/-- Context 4 enabled for partition 1, with rings of 16 entries, one command rung and not yet read, one completion due. -/
def ctx4 : State :=
  inHead (withBytes (setReg (setReg live .hgCtxCfg 4 0x1001) .hgDbCmd 4 1) (3 * 2 ^ 44) ([1, 0] ++ leBytes 2 4))
    (fun h => { h with cplDue := [⟨4, 9, 0, false, 0, 0, 0, 0, true⟩], irqDue := [4] })

def rec0 : TRec := ⟨0, 3, 78, 0, none, [0]⟩

/-- A window over the last granule of a scratchpad, written by core 4. -/
def winDesc : BitVec 128 := BitVec.ofNat 128 (786431 + 2 ^ 20 + 2 ^ 46 + 4 * 2 ^ 48)

def atRegion (s : State) (r : Nat) (f : Region → Region) : State := setRegion s r (f (getRegion s r))

/-- The device in service with a sensor above its shed level. -/
def hotAt (s : State) (i : Nat) : State := setSensor s i { Sensor.reset with t := 2000, high := 2000, warn := true, step := true, shed := true }

/-- A tensor at granule 0, dirty, whose local copy holds 64 zeros. -/
def tens0 : STensor :=
  { base := 0, bytes := 64, method := 1, slot := 0, now := 1, highLast := false, lowRun := 0, was := 1, dirty := [0],
    copy := [(0, List.replicate 64 0)], delta := [] }

def secure1 : Secure :=
  { n := 1, rMax := 64, defer := 0, mirrorMax := 0, areaBase := 0xC000000000, areaBytes := 0x100000, step0 := 0, tensors := [tens0], epoch := 1,
    committed := 0, phase := 0, capturedAt := 0, sentAt := 0, step := 0, hold := 0, dirtyBytes := 64, holdFrom := none, cur := 1, cstep := 0 }

/-- Partition 1 secured by a ring, at a phase of its open secure point. -/
def securing (phase : Nat) : State :=
  inHead live (fun h => { h with ring := some ring1, secure := [(1, { secure1 with phase := phase })] })

/-- The device with sequence 9 waiting and nothing on core 5; `f` changes the pipeline. -/
def waits (f : Pipe → Pipe) (cls : Nat) : State :=
  { inHead live (fun h => { h with pipes := [(0, f { pipe0 with slots := [] })], seqs := [(9, { seq9 with st := .queued, cls := cls, pipe := 0 })] })
    with cores := [(5, { core5 with task := none })] }

/-- The device with core 5 between steps, in a program whose stage may move to core 25. -/
def movable : State :=
  { inHead live (fun h => { h with progs := [(0, { prog0 with img := { img0 with stages := [{ stage5 with reliefs := [⟨25, 128, 64, [], []⟩] }] } })] })
    with cores := [(5, { core5 with task := none })] }

def govSum0 : GovSum := ⟨0, 0, 0, 0, 0, true⟩

def gov0 : Gov := ⟨0x040C0434, 1, 0, 0, 4, 0, 0, govSum0, none⟩

def survey0 : Survey := ⟨0, true, 0, none, 0⟩

/-- A packet of core 4 for core 5, at a granule. -/
def toCore (granule aux : Nat) : Packet := mkPkt .standard 4 5 1 granule aux

/-- A write of one granule of ones. -/
def wrPkt (granule aux : Nat) (kind : BitVec 2) : Packet :=
  { toCore granule aux with len := 1, gen := 1, wkind := kind, data := List.replicate 64 1 }

/-- Field 1 with a pinned pool range, and a cached one over the first 2^28 bytes of HBM; `f` changes the field. -/
def pooled (f : Field → Field) : State :=
  { live with fields := [(1, f { Field.reset with ranges := [(0, ⟨0, 1, 1, 1, 0, 0, none⟩), (1, ⟨1, 1, 2, 1, 0, 0xFFFF, none⟩)] })] }

def merge0 : Merge := ⟨0, [25, 45], true, 0, 1, 0, [], false⟩

def held0 : HeldReply := ⟨5, 0, 1, 1, List.replicate 256 0, 0⟩

/-- Field 1 with a cached line, a reply of it held for core 5, and the crossing to core 5 full. -/
def splitting : State :=
  { pooled (fun f => { f with held := [held0], lines := [⟨0, 1, List.replicate 256 0, []⟩] })
    with clk := { live.clk with crossings := [(11, ⟨true, false, 8, some 0⟩)] } }

/-- The device with core 5 changed. -/
def at5 (f : Core → Core) : State := { live with cores := [(5, f core5)] }

def ctlPkt (aux : Nat) : Packet := { mkPkt .standard 393 5 63 (Reg.coSchWaitLimit.addr 5 0) aux with len := 1, data := leBytes 4 8192 }

def load0 : LoadPend := ⟨⟨.whole, .int8, 128, 128, 64, 0, 0, 0⟩, false, [0], []⟩

/-- The scratchpad of core 5, and its engine block. -/
def sp5 : Nat := spadBase 5

def blk5 : Nat := coreField 5 * 32 + spadIndex 5

/-- A furrow request on one granule or chunk of FP32 at sp5 + 64 KiB, its operand at sp5 + 128 KiB and its parameters at sp5 + 256 KiB. -/
def fuReq (op af rows : Nat) : BitVec 256 :=
  BitVec.ofNat 256 (op + 16 + 256 + 4096 * af + 65536 + 2 ^ 24 + 2 ^ 44 * ((sp5 + 65536 - 2 ^ 44) / 64) + 2 ^ 82 * ((sp5 + 131072 - 2 ^ 44) / 64) +
    (if af = 0 then 0 else 2 ^ 160 * (sp5 + 262144)) + 2 ^ 224 * rows)

def ctl32 : Ctl := ⟨false, false, .rne, .fp32⟩

/-- Parameters with the moments at sp5 + 192 KiB and at `v`. -/
def moments (v : Nat) : State := withBytes live (sp5 + 262144) (leBytes 8 (sp5 + 196608) ++ leBytes 8 v)

def row0 : FuRow := ⟨0, sp5 / 64, List.replicate 64 1, false, false, false, [], .num false 0 0⟩

def fuq0 : FuReq := ⟨5, false, 0, 0, [], true, none, false, 0, false, none⟩

/-- Core 5's block with a row to write, of request 0. -/
def furrowing (q : FuReq) : State := { live with blocks := [(blk5, ⟨[], [], [row0], false⟩)], furrow := [(0, q)] }

def pass0 (st : PassState) : Pass := ⟨5, none, 3 + 4 * 2 ^ 26, false, st, [], [], 0, [], 0, 0, 0⟩

/-- Core 5 with a pinned matrix and a pass of it. -/
def passing (st : PassState) : State := { inHead live (fun h => { h with pins := [(3, pin3)] }) with passes := [(0, pass0 st)] }

/-- A transfer of one granule from HBM. -/
def dma0 (op kind : Byte) (dst : Nat) : DmaDesc :=
  { op := op, kind := kind, srcFmt := 0, ctl := 0, count := 1, src := 0, dst := BitVec.ofNat 64 dst, srcSf := 0, dstSf := 0, rows := 1, srcPitch := 0,
    dstPitch := 0, target := 25, index := 0, gen := 0, buf := 0, flags := 0, unit := 0, rsvd := 0 }

def bank0 : Bank :=
  { isOpen := true, final := false, integer := false, rows := 1, entered := [], drained := 0, silt := false, kSum := 0, wfmt := 4, xfmt := 4, vals := [],
    colChk := [], rowChk := [] }

/-- An epilogue that converts to FP32 and does nothing else. -/
def epi0 : Epilogue :=
  { scaleOff := none, biasOff := none, func := .identity, slope := 0, lo := 0, hi := 0, backward := false, sideOff := 0, sidePitch := 0,
    sideFmt := .fp32, fnSlot := none, keepSlot := none, dropout := none, stream := none, governed := false, ctl := 1, group := 0, nTile := 0,
    raw := false, pairOff := none, recordOff := none, copy := none }

def drain0 : DrainOp := ⟨0, .whole, 0, epi0⟩

def staged (verdict : Option Bool) : Staging :=
  { rows := 1, main := ⟨1, [(0, 7)], [], [], []⟩, second := none, silt := false, stats := FmtStats.zero, hist := [],
    nanSrc := false, verdict := verdict, decided := false, epi := epi0, src := some bank0 }

/-- Core 5 with a staged tile of twin 0. -/
def staging (g : Staging) : State := at5 (fun k => { k with staging := [(0, g)] })

/-- A tile of two columns, and a load of a whole tile of the own scratchpad. -/
def tile0 : WTile := ⟨.e4m3, 128, 2, 1, false, List.replicate 128 [0x38, 0x40], [], [], false⟩

def loadOp0 : LoadOp := ⟨.whole, .e4m3, 128, 128, 64, BitVec.ofNat 48 sp5, BitVec.ofNat 48 sp5, BitVec.ofNat 48 sp5⟩

def step0 : StepOp := ⟨0, .whole, false, false, 0, .e4m3, 0, .plain 0 128 0 0, 0, 512, []⟩

/-- The device with the crossing from core 5 to its router full. -/
def full5 : State := { live with clk := { live.clk with crossings := [(10, ⟨true, false, 8, some 0⟩)] } }

/-- Core 5's first engine with parts of 16 remote requests. -/
def crowded : State :=
  { live with blocks := [(blk5, ⟨[], [], (List.range 16).map (fun i => { row0 with req := i }), false⟩)],
              furrow := (List.range 16).map (fun i => (i, { fuq0 with core := 4, remote := true })) }

/-- The program of a state with 64 bytes at an address to check before a commit. -/
def committing (a : Nat) (s : State) : State :=
  inHead s (fun h => { h with progs := [(0, { prog0 with img := { img0 with stages := [{ stage5 with commit := [⟨a, 64⟩] }] } })] })

/-- The device with checks on in partition 1. -/
def checked : State := inHead live (fun h => { h with parts := [(1, { part1 with checks := true })] })

/-- Core 5 with a tile in force and a bank of two rows open. -/
def tiled (s : State) : State := { s with cores := [(5, { core5 with active := [(0, tile0)], banks := [(0, { bank0 with rows := 2 })] })] }

/-- Core 5 with two active lanes in mask 1. -/
def lanes2 : State := at5 (fun k => { k with vec := { k.vec with masks := [(1, 3)], regs := [(0, 0x3F800000), (1, 0xC0000000)] } })

def red0 : RedOp := ⟨.f32, 0, 1, 0, true, 0⟩

def cstore0 : CStoreOp :=
  { src := 0, mask := 1, fmt := .f32, second := false, ctl := 1, off := spadBytes - 2048, sfOff := 0, stream := none, governed := false, mTile := 0,
    nTile := 0, reseed := false, rows := none, pairOff := none }

/-- A payload flit in order, its code word corrected, with one message header of a reserved type. -/
def flit1 : RxFlit := ⟨.corrected, 1, 2, .payload, 0, [0x1F], 0⟩

def flit0 : RxFlit := { flit1 with crc := BitVec.ofNat 32 (crc32 flit1) }

/-- A snoop of HBM line 5, sent when the headgate counted to 10^16 - 1,400,000. -/
def snoop5 : Snoop := ⟨5, 7, .probe, none, 10 ^ 16 - 1400000⟩

/-- A device with the shared window over the first GiB of HBM, which the companion owns line 5 of. -/
def coherent (f : Bv → Bv) : State := inBv (setReg live .lkBvWin 0 1) (fun b => f { b with dir := [(5, .modified)] })

/-- Connection context 3 of partition 1, opened on port 2. -/
def conn3 : Conn := ⟨1, [2], true, 0, 0, 63, [], [], []⟩

/-- The device with context 3 and a sluice window of core 5 that it writes. -/
def connected : State :=
  { live with conns := [(3, conn3)], cores := [(5, { core5 with wins := [(0, { win0 with kind := 2, srcId := 3 })] })] }

/-- An answer is the success that a test of its value finds. -/
theorem eq_ok {ε α : Type} [DecidableEq α] {e : Except ε α} {x : α}
    (h : (match e with | .ok y => decide (y = x) | .error _ => false) = true) : e = .ok x := by
  cases e with
  | ok y => simpa using h
  | error _ => cases h

theorem exists_ok {ε α : Type} {e : Except ε α} (h : (match e with | .ok _ => true | .error _ => false) = true) : ∃ x, e = .ok x := by
  cases e with
  | ok y => exact ⟨y, rfl⟩
  | error _ => cases h

/-- No bank of the device in service is in use. -/
theorem test_no_bank_is_touched (u : BankUnit) : (getBanks live u).touched = [] := by
  cases u with
  | pool f => rfl
  | spad c =>
    by_cases h : c = 5
    · subst h; rfl
    · simp [getBanks, getCore, tgetD, tget, live, Ne.symm h]; rfl

/-- The device with silt in the first granule of HBM. -/
def silted : State := withBytes live 0 siltBytes

/-- Pinning one output of 128 elements from silt in core 5 succeeds. -/
theorem test_pins_a_matrix : ∃ x, pinMatrix silted 1 0 0x100000 1 128 4 0x100083000000 0x40000 = .ok x := exists_ok (by decide +kernel)

/-! ### Ill-formed commands, one for each check of WellFormed -/

theorem test_wf_takes_a_packet : (Instr.write (wrPkt 0 0 1)).wf = true := by decide
theorem test_wf_wide : (Instr.windowOpen hd0 65536 1 0 0).wf = false := by decide
theorem test_wf_hdrOk : (Instr.partitionDestroy { hd0 with cls := 4 }).wf = false := by decide
theorem test_wf_pktOk : (Instr.write { wrPkt 0 0 1 with dst := 512 }).wf = false := by decide
theorem test_wf_dmaOperandOk : (Instr.dmaCopy 5 { dma0 1 0 0 with count := 2 ^ 32 }).wf = false := by decide
theorem test_wf_shapeOk : (Instr.dispatch hd0 0 1 0 comp0 comp0 0 [1, 2, 3, 4, 5]).wf = false := by decide
theorem test_wf_wordOff : (Instr.registerWrite 0x1001 0).wf = false := by decide
theorem test_wf_lineOk : (Instr.writeback 7 0 (List.replicate 63 0)).wf = false := by decide
theorem test_wf_linesOk : (Instr.wr 7 0 (List.replicate 576 0)).wf = false := by decide +kernel
theorem test_wf_granulesOk : (Instr.hbmWrite 0 300 1 []).wf = false := by decide
theorem test_wf_inSpad : (Instr.vectorLoad 5 0 ⟨.f32, 0x03000000⟩ 0).wf = false := by decide
theorem test_wf_upsetOk : (Instr.patrolScrub 0 [(36, 1)]).wf = false := by decide
theorem test_wf_crossingOk : (Instr.bypassReengage 832).wf = false := by decide
theorem test_wf_unitOk : (Instr.suspectEvent false 240).wf = false := by decide
theorem test_wf_mask_destination : (Instr.vectorCompareSelect 5 .lt .f32 32 (.reg 0) (.reg 1) 1 1).wf = false := by decide
theorem test_wf_sensor : (Instr.temperatureSample [(96, 0)]).wf = false := by decide

/-! ### The manual's worked examples -/

/-- 00_scope, "Units and notation" before it: where core 137 lies. -/
theorem test_core_137 : (coreField 137, coreCluster 137, coreRegion 137, fieldRegion (coreField 137)) = (7, 37, 37, 67) ∧
    clusterCores 37 = [97, 117, 137, 157] := by decide

/-- 01_organisation: scratchpad and pool of core 137. -/
theorem test_basin_of_core_137 : (spadIndex 137, spadBase 137, poolBase 7) = (10, 0x10039E000000, 0x1003BC000000) ∧
    placeOf 0x1003A0FFFFFF = .spad 137 0x2FFFFFF := by decide

/-- 01_organisation: corner to corner costs 70 cycles, and one hop in a cluster 2. -/
theorem test_corner_to_corner : (hopCycles (pathXY 0 239), (pathXY 0 239).length, hopCycles (pathXY 97 117)) = (70, 31, 2) := by decide +kernel

/-- 02_number_formats: a block of G12 with amax 3.0e-7 and an element -1.0e-9, both to 2^-60. -/
theorem test_g12_block :
    let a : FV := .num false 345876451382 (-60)
    let e : FV := .num true 1152921505 (-60)
    let k : Ctl := ⟨false, false, .rne, .g12⟩
    blockField k [a, e] = 0x4B ∧ (convertRun k [(a, 0), (e, 0)]).bits = [0x7A8, 0xEA2] := by decide +kernel

/-- 03_matrix_arrays: cube columns 17 of one twin and 40 of the other give width 124, and presented column 70 is physical column 72. -/
theorem test_bypassed_columns :
    let s := inBoot live (fun b => { b with newEntries := [0x20000005 + 17 * 512, 0x20000105 + 40 * 512] })
    coreWidths s 5 = (124, 62, 62) ∧ physColumn s 5 (presentedCol s 5 .right 8) = 72 := by decide +kernel

/-- 11_hbm_ecc_poison: in mode 0 the granule at 0x1234_5680 is in stack 21, channel 15, and endpoint 379 serves it. -/
theorem test_hbm_map : hbmDecode false 0x12345680 = (21, 15, 0, 3106) ∧ hbmPort false 0x12345680 = 379 := by decide +kernel

/-- 10_canal: with field 5 dark, the via of router 102 for 134 is 62, and the route costs 42 cycles; else it costs 30. -/
theorem test_via_round_a_dark_field :
    let s : State := { live with fields := [(5, { Field.reset with dark := true })] }
    viaFor s 102 134 = some 62 ∧ hopCycles (pathXY 102 62 ++ (pathXY 62 134).drop 1) = 42 ∧ hopCycles (pathXY 102 134) = 30 := by decide +kernel

/-- 20_reference: the capability words of core 137 with the ledger entry 0x2400_4789. -/
theorem test_capability_of_core_137 :
    let s := inBoot live (fun b => { b with newEntries := [0x24004789], decided := true })
    ctlRead s 0x848 = some 0x003E407E ∧ ctlRead s 0x84C = some 0x04000200 := by decide +kernel

/-- 13_brivlink_headgate: the first completion of context 0, for tag 7, lands in slot 0 with the phase 1. -/
theorem test_first_completion :
    let s := setReg (setReg (setReg live .hgCtxCfg 0 0x289) (ringBaseReg 2) 0 0x10000) (ringBaseReg 3) 0 0x40
    let s := inHead s (fun h => { h with cplDue := [⟨0, 7, 0, false, 5, 0, 0, 0, true⟩] })
    (match exec (.completionWrite 0 true) s with
      | .next t => mreads t.mem 0x304000010000 16
      | _ => []) = [7, 0, 0, 0, 0, 1, 0, 0, 5, 0, 0, 0, 0, 0, 0, 0] := by decide +kernel

/-- 11_hbm_ecc_poison, R283: no, one and two disturbed symbols. -/
theorem test_code_corrects : eccDecode [] = .fast ∧ eccDecode [(5, 0x1234)] = .slow [(5, 0x1234)] ∧ eccDecode [(0, 1), (35, 0x8000)] = .slow [(0, 1), (35, 0x8000)] := by decide +kernel

/-! ### Single steps -/

/-- A read of a word after reset shows its reset value (R341). -/
theorem test_reset_register : ctlRead State.reset (Reg.pwEmerg.addr 0 0) = some (rawReg State.reset .pwEmerg 0 0) := by decide +kernel

/-- The front command runs with the rest of the queue. -/
theorem test_step_takes_the_front :
    (match step { live with pending := [.resetNAssert 0, .jtagBypass] } with | .next t => t.pending | _ => []) = [.jtagBypass] := by decide +kernel

/-- Reset meets the invariant. -/
theorem test_reset_invariant : State.reset.mem.wf = true ∧ State.reset.bv.kept.length ≤ 512 := by decide

/-! ### Witnesses of the statements' hypotheses -/

/-- States and operands that meet the hypotheses of each part of StepRunsFront. -/
theorem witness_StepRunsFront :
    (∃ (s : State) (c : Instr) (rest : List Instr), s.pending = c :: rest) ∧
    (∃ (s : State), s.pending = []) :=
  ⟨⟨{ live with pending := [.deviceReset] }, .deviceReset, [], by decide +kernel⟩,
    ⟨live, by decide +kernel⟩⟩

/-- States and operands that meet the hypotheses of each part of ExecKeepsQueue. -/
theorem witness_ExecKeepsQueue :
    (∃ (i : Instr) (s : State) (t : State), exec i s = .next t) :=
  ⟨.resetNAssert 0, live, live, rfl⟩

/-- States and operands that meet the hypotheses of each part of StepKeepsInvariant. -/
theorem witness_StepKeepsInvariant :
    (∃ (s : State) (t : State), Inv s ∧ step s = .next t) :=
  ⟨{ live with pending := [.resetNAssert 0] }, live, by and_intros <;> first | decide +kernel | (unfold Sys2Proof.Inv; decide +kernel) | exact rfl⟩

/-- States and operands that meet the hypotheses of each part of StepKeepsFuses. -/
theorem witness_StepKeepsFuses :
    (∃ (s : State) (t : State), step s = .next t) :=
  ⟨{ live with pending := [.resetNAssert 0] }, live, rfl⟩

/-- States and operands that meet the hypotheses of each part of MailboxDecidesAndRecords. -/
theorem witness_MailboxDecidesAndRecords :
    (∃ (i : Instr) (h : Hdr) (op : Nat) (s : State), mailboxOf i = some (h, op) ∧ decides s h op = false) ∧
    (∃ (i : Instr) (h : Hdr) (op : Nat) (s : State), ∃ st, mailboxOf i = some (h, op) ∧ decides s h op = true ∧ headCheck s h op = some st) ∧
    (∃ (h : Hdr) (dest : W64) (s : State), Accepts s h 0x01 ∧ compAddr dest = true) ∧
    (∃ (h : Hdr) (buf : W64) (s : State), Accepts s h 0x51 ∧ compAddr buf = true) ∧
    (∃ (h : Hdr) (buf : W64) (s : State), Accepts s h 0x61 ∧ compAddr buf = true) ∧
    (∃ (h : Hdr) (buf : W64) (bytes : Nat) (s : State), Accepts s h 0x70 ∧ compAddr buf = true ∧ 512 + s.fuses.cert.length ≤ bytes) :=
  ⟨⟨.identify hd0 comp0, hd0, 1, inBoot live (fun b => { b with hgState := 1 }), by and_intros <;> decide +kernel⟩,
    ⟨.identify hd0 comp0, hd0, 1, inHead live (fun b => { b with parts := [] }), St.badCommand, by and_intros <;> decide +kernel⟩,
    ⟨hd0, comp0, live, by and_intros <;> first | decide +kernel | (unfold Accepts; decide +kernel)⟩,
    ⟨hd0, comp0, live, by and_intros <;> first | decide +kernel | (unfold Accepts; decide +kernel)⟩,
    ⟨hd0, comp0, live, by and_intros <;> first | decide +kernel | (unfold Accepts; decide +kernel)⟩,
    ⟨hd0, comp0, 512, live, by and_intros <;> first | decide +kernel | (unfold Accepts; decide +kernel)⟩⟩

/-- States and operands that meet the hypotheses of each part of PartitionsComeAndGo. -/
theorem witness_PartitionsComeAndGo :
    (∃ (h : Hdr) (block : W64) (id : Nat) (s : State),
      let b := blockBytes s block (64 + 16 * bytesNat (blockBytes s block 64) 13 1)
      let n := partOfBlock s b
      Accepts s h 0x02 ∧ compAddr block = true ∧ blockBad b n = false ∧ partClash s n = false ∧ tfree s.head.parts 60 = some id) ∧
    (∃ (h : Hdr) (v : Partition) (s : State), Accepts s h 0x03 ∧ getPart s h.part = some v) ∧
    (∃ (h : Hdr) (s : State) (i : Instr) (level : Nat) (cores : List Nat), Accepts s h 0x04 ∧ (i = .partitionReset h ∧ level = 0 ∧ cores = partCores s
      h.part ∨ (∃ cl v, i = .clusterReset h cl ∧ level = 1 ∧ cores = clusterCores cl ∧ getPart s h.part = some v ∧ v.clusters.contains cl = true) ∨ (∃
      c, i = .coreReset h c ∧ level = 2 ∧ cores = [c] ∧ c < 240 ∧ corePart s c = some h.part)) ∧ s.head.resets.find? (fun r => decide (r.level ≤
      level) && r.cores.any cores.contains) = none) :=
  ⟨⟨hd0, comp0, 0, withBytes (inHead live (fun h => { h with parts := [] })) comp0.toNat block2,
      by and_intros <;> first | decide +kernel | (unfold Accepts; decide +kernel)⟩,
    ⟨hd0, part1, live, by and_intros <;> first | decide +kernel | (unfold Accepts; decide +kernel)⟩,
    ⟨hd0, live, .coreReset hd0 5, 2, [5], by exact ⟨by unfold Accepts; decide, Or.inr (Or.inr ⟨5, by decide⟩), by decide⟩⟩⟩

/-- States and operands that meet the hypotheses of each part of ProgramsAndModels. -/
theorem witness_ProgramsAndModels :
    (∃ (h : Hdr) (image : W64) (bytes : Nat) (reserved : Nat) (img : Image) (v : Partition) (id : Nat) (base : Nat) (s : State), Accepts s h 0x10 ∧
      getPart s h.part = some v ∧ loadRefusal s h.part v image bytes reserved img = none ∧ tfree s.head.progs 1024 = some id ∧ imagePlace s v bytes =
      some base ∧ base % 64 = 0 ∧ base + bytes ≤ hbmTop) ∧
    (∃ (h : Hdr) (program : Nat) (g : Program) (s : State), Accepts s h 0x11 ∧ tget s.head.progs program = some g ∧ g.part = h.part ∧ progSeqs s
      program true = []) ∧
    (∃ (h : Hdr) (program : Nat) (g : Program) (s : State), Accepts s h 0x11 ∧ tget s.head.progs program = some g ∧ g.part = h.part ∧ progSeqs s
      program true ≠ []) ∧
    (∃ (h : Hdr) (program : Nat) (policies : Nat) (tensors : Nat) (id : Nat) (table : W64) (policyArray : W64) (g : Program) (s : State),
      let pol := attachPolicies s policyArray policies g.img.governed
      let ents := (List.range tensors).map (fun i => mreads s.mem (table.toNat + 32 * i) 32)
      Accepts s h 0x12 ∧ tget s.head.progs program = some g ∧ g.part = h.part ∧ g.unloading = false ∧ argAddr table = true ∧ (policies = 0 ∨ argAddr
        policyArray = true ∧ policies = g.img.governed) ∧ tensors = g.img.tensors.length ∧ (∀ b ∈ ents, bytesNat b 28 4 = 0) ∧ pol.all polOk = true ∧
        cmdReadable s h.part table (32 * tensors) = true ∧ (policies = 0 ∨ cmdReadable s h.part policyArray (8 * policies) = true) ∧ tfree
        s.head.models 4096 = some id) ∧
    (∃ (h : Hdr) (matrix : W64) (side : W64) (dest : W64) (n : Nat) (k : Nat) (fmt : Nat) (kind : Nat) (bytes : Nat) (used : Nat) (id : Nat) (p : Pin)
      (s : State) (s' : State), Accepts s h 0x13 ∧ argAddr matrix = true ∧ matrix.toNat / 2 ^ 44 = 0 ∧ argAddr side = true ∧ argAddr dest = true ∧
      destKindOk kind dest.toNat = true ∧ pinMatrix s h.part matrix.toNat side.toNat n k fmt dest.toNat bytes = .ok (p, used, s') ∧ tfree s.head.pins
      65536 = some id) ∧
    (∃ (h : Hdr) (handle : Nat) (p : Pin) (s : State), Accepts s h 0x14 ∧ tget s.head.pins handle = some p ∧ p.part = h.part) :=
  ⟨⟨hd0, comp0, 208, 0, { img0 with stages := [{ stage5 with core := 25 }] }, part1, 1, 0xC800000000, withBytes (inHead live (fun h =>
      { h with progs := [(0, { prog0 with base := 0 })] })) comp0.toNat imgBytes,
      by and_intros <;> first | decide +kernel | (unfold Accepts; decide +kernel)⟩,
    ⟨hd0, 0, prog0, inHead live (fun h => { h with seqs := [] }), by and_intros <;> first | decide +kernel | (unfold Accepts; decide +kernel)⟩,
    ⟨hd0, 0, prog0, live, by and_intros <;> first | decide +kernel | (unfold Accepts; decide +kernel)⟩,
    ⟨hd0, 0, 0, 0, 1, comp0, 0, prog0, live, by and_intros <;> first | decide +kernel | (unfold Accepts; decide +kernel)⟩,
    ⟨hd0, 0, 0x100000, 0x100083000000, 1, 128, 4, 1, 0x40000, test_pins_a_matrix.choose.2.1, 0, test_pins_a_matrix.choose.1, silted,
      test_pins_a_matrix.choose.2.2,
      by and_intros <;> first | decide +kernel | (unfold Accepts; decide +kernel) | exact test_pins_a_matrix.choose_spec⟩,
    ⟨hd0, 3, pin3, inHead live (fun h => { h with pins := [(3, pin3)] }), by and_intros <;> first | decide +kernel | (unfold Accepts; decide +kernel)⟩⟩

/-- States and operands that meet the hypotheses of each part of DispatchAndCancel. -/
theorem witness_DispatchAndCancel :
    (∃ (h : Hdr) (model : Nat) (steps : Nat) (deadline : Nat) (input : W64) (output : W64) (shape : List Nat) (m : Model) (g : Program) (v :
      Partition) (s : State), Accepts s h 0x20 ∧ tget s.head.models model = some m ∧ tget s.head.progs m.prog = some g ∧ getPart s h.part = some v ∧
      m.part = h.part ∧ g.unloading = false ∧ 0 < steps ∧ steps < 2 ^ 32 ∧ (deadline = 0 ∨ h.cls = 2) ∧ argAddr input = true ∧ argAddr output = true ∧
      dispatchRefusal s h m.prog g.img v.queueLimit shape = none) ∧
    (∃ (h : Hdr) (model : Nat) (steps : Nat) (deadline : Nat) (input : W64) (output : W64) (shape : List Nat) (m : Model) (g : Program) (v :
      Partition) (st : St) (s : State), Accepts s h 0x20 ∧ tget s.head.models model = some m ∧ tget s.head.progs m.prog = some g ∧ getPart s h.part =
      some v ∧ m.part = h.part ∧ g.unloading = false ∧ 0 < steps ∧ steps < 2 ^ 32 ∧ (deadline = 0 ∨ h.cls = 2) ∧ argAddr input = true ∧ argAddr output
      = true ∧ dispatchRefusal s h m.prog g.img v.queueLimit shape = some st) ∧
    (∃ (h : Hdr) (target : W32) (s : State), Accepts s h 0x21 ∧ s.head.seqs.find? (fun e => e.2.ctx == (h.ctx : Nat) && e.2.tag == target) = none) ∧
    (∃ (h : Hdr) (target : W32) (s : State), ∃ e, Accepts s h 0x21 ∧ s.head.seqs.find? (fun e => e.2.ctx == (h.ctx : Nat) && e.2.tag == target) = some
      e ∧ e.2.st = .flight) ∧
    (∃ (h : Hdr) (target : W32) (s : State), ∃ e, Accepts s h 0x21 ∧ s.head.seqs.find? (fun e => e.2.ctx == (h.ctx : Nat) && e.2.tag == target) = some
      e ∧ e.2.st ≠ .flight ∧ getSeq s e.1 = some e.2) :=
  ⟨⟨hd0, 0, 1, 0, comp0, comp0, [], model0, prog0, part1, live, by and_intros <;> first | decide +kernel | (unfold Accepts; decide +kernel)⟩,
    ⟨hd0, 0, 1, 0, comp0, comp0, [], model0, prog0, { part1 with pow := { part1.pow with shedS := true } }, St.refusedAllotment, inHead live (fun h =>
      { h with parts := [(1, { part1 with pow := { part1.pow with shedS := true } })] }),
      by and_intros <;> first | decide +kernel | (unfold Accepts; decide +kernel)⟩,
    ⟨hd0, 8, live, by and_intros <;> first | decide +kernel | (unfold Accepts; decide +kernel)⟩,
    ⟨hd0, 9, live, ((9, seq9) : Nat × Sequ), by and_intros <;> first | decide +kernel | (unfold Accepts; decide +kernel)⟩,
    ⟨hd0, 9, inHead live (fun h => { h with seqs := [(9, { seq9 with st := .queued })] }), ((9, { seq9 with st := .queued }) : Nat × Sequ),
      by and_intros <;> first | decide +kernel | (unfold Accepts; decide +kernel)⟩⟩

/-- States and operands that meet the hypotheses of each part of WindowsOpenCloseGrant. -/
theorem witness_WindowsOpenCloseGrant :
    (∃ (h : Hdr) (core : Nat) (kind : Nat) (index : Nat) (desc : BitVec 128) (s : State), Accepts s h 0x30 ∧ windowArgsOk s h core kind index = true ∧
      descOk (kind == 1) desc = true ∧ slotOpen (getCore s core) (kind == 1) index = false ∧ (openSpans (getCore s core)).any (spansMeet (descSpan
      (kind == 1) desc)) = false) ∧
    (∃ (h : Hdr) (core : Nat) (kind : Nat) (index : Nat) (s : State), Accepts s h 0x31 ∧ windowArgsOk s h core kind index = true) ∧
    (∃ (h : Hdr) (core : Nat) (index : Nat) (units : Nat) (r : CRange) (s : State), Accepts s h 0x32 ∧ windowArgsOk s h core 1 index = true ∧ tget
      (getCore s core).rngs index = some r ∧ r.isOpen = true ∧ r.granted + units - r.admitted ≤ r.units) ∧
    (∃ (core : CoreId) (turnout : Bool) (index : Nat) (desc : BitVec 128) (s : State), coreRuns s core = true ∧ index < slotLimit turnout ∧ descOk
      turnout desc = true ∧ slotOpen (getCore s core) turnout index = false ∧ (openSpans (getCore s core)).any (spansMeet (descSpan turnout desc)) =
      false) ∧
    (∃ (core : CoreId) (index : Nat) (units : Nat) (r : CRange) (s : State), coreRuns s core = true ∧ tget (getCore s core).rngs index = some r ∧
      r.isOpen = true ∧ r.granted + units - r.admitted ≤ r.units) :=
  ⟨⟨hd0, 5, 0, 255, winDesc, live, by and_intros <;> first | decide +kernel | (unfold Accepts; decide +kernel)⟩,
    ⟨hd0, 5, 1, 0, live, by and_intros <;> first | decide +kernel | (unfold Accepts; decide +kernel)⟩,
    ⟨hd0, 5, 0, 0, range0, live, by and_intros <;> first | decide +kernel | (unfold Accepts; decide +kernel)⟩,
    ⟨5, false, 255, winDesc, live, by and_intros <;> decide +kernel⟩,
    ⟨5, 0, 0, range0, live, by and_intros <;> decide +kernel⟩⟩

/-- States and operands that meet the hypotheses of each part of SecuringCommands. -/
theorem witness_SecuringCommands :
    (∃ (h : Hdr) (block : W64) (bytes : Nat) (s : State), Accepts s h 0x40 ∧ argAddr block = true ∧ (bytes = 0 ∨ 32 ≤ bytes ∧ secureBlockBad s h.part
      0 (blockBytes s block bytes) bytes [] = false) ∧ cmdReadable s h.part block bytes = true) ∧
    (∃ (h : Hdr) (n : Nat) (block : W64) (bytes : Nat) (s : State),
      let b := blockBytes s block bytes
      let ts := (List.range (bytesNat b 0 2)).map (fun i => tensorEntry (b.drop (32 + 32 * i)))
      Accepts s h 0x40 ∧ n ≠ 0 ∧ 32 ≤ bytes ∧ argAddr block = true ∧ secureBlockBad s h.part n b bytes ts = false ∧ cmdReadable s h.part block bytes =
        true ∧ secureClash s h.part ts = false ∧ secureAreaBad s h.part (bytesNat b 8 8) (bytesNat b 16 8) ts = false ∧ (∀ r, s.head.ring = some r →
        r.role = 1 → r.reliefLost = false → Config.reliefRoom s.fresh = true)) ∧
    (∃ (h : Hdr) (role : Nat) (block : W64) (bytes : Nat) (s : State),
      let b := blockBytes s block bytes
      Accepts s h 0x41 ∧ argAddr block = true ∧ reliefBad role 0 b bytes = false ∧ cmdReadable s h.part block bytes = true) ∧
    (∃ (h : Hdr) (role : Nat) (block : W64) (bytes : Nat) (r : Ring) (m : Member) (s : State),
      let b := blockBytes s block bytes
      Accepts s h 0x41 ∧ argAddr block = true ∧ reliefBad role 1 b bytes = false ∧ cmdReadable s h.part block bytes = true ∧ s.head.ring = some r ∧
        r.role = 2 ∧ r.fenced = false ∧ r.id = bytesNat b 0 2 ∧ bytesNat b 5 1 < ringSize r ∧ r.members[bytesNat b 5 1]? = some m) ∧
    (∃ (h : Hdr) (role : Nat) (block : W64) (bytes : Nat) (s : State), Accepts s h 0x41 ∧ argAddr block = true ∧ reliefBad role 2 (blockBytes s block
      bytes) bytes = false ∧ cmdReadable s h.part block bytes = true) ∧
    (∃ (h : Hdr) (src : W64) (bytes : Nat) (dest : W64) (s : State), Accepts s h 0x42 ∧ argAddr src = true ∧ src.toNat / 2 ^ 44 ≤ 1 ∧ bytes % 64 = 0 ∧
      compAddr dest = true ∧ (bytes = 0 ∨ partAllows s h.part .exp src.toNat bytes = true)) ∧
    (∃ (h : Hdr) (src : W64) (bytes : Nat) (conn : Nat) (s : State), Accepts s h 0x42 ∧ argAddr src = true ∧ src.toNat / 2 ^ 44 ≤ 1 ∧ bytes % 64 = 0 ∧
      connFree s conn h.part = true ∧ (bytes = 0 ∨ partAllows s h.part .exp src.toNat bytes = true)) :=
  ⟨⟨hd0, comp0, 0, live, by and_intros <;> first | decide +kernel | (unfold Accepts; decide +kernel)⟩,
    ⟨hd0, 1, comp0, 64, withBytes live comp0.toNat secureBlock, by and_intros <;> first | decide +kernel | (unfold Accepts; decide +kernel)⟩,
    ⟨hd0, 1, comp0, 64, withBytes live comp0.toNat (reliefBlock 0), by and_intros <;> first | decide +kernel | (unfold Accepts; decide +kernel)⟩,
    ⟨hd0, 0, comp0, 64, ring2, ⟨0, 1, 0, false, false⟩, withBytes (inHead live (fun h => { h with ring := some ring2 })) comp0.toNat (reliefBlock 1),
      by and_intros <;> first | decide +kernel | (unfold Accepts; decide +kernel)⟩,
    ⟨hd0, 0, comp0, 64, withBytes live comp0.toNat (reliefBlock 2), by and_intros <;> first | decide +kernel | (unfold Accepts; decide +kernel)⟩,
    ⟨hd0, 64, 64, comp0, live, by and_intros <;> first | decide +kernel | (unfold Accepts; decide +kernel)⟩,
    ⟨hd0, 64, 64, 3, live, by and_intros <;> first | decide +kernel | (unfold Accepts; decide +kernel)⟩⟩

/-- States and operands that meet the hypotheses of each part of AllotmentSets. -/
theorem witness_AllotmentSets :
    (∃ (h : Hdr) (allot : Nat) (window : Nat) (s : State), Accepts s h 0x50 ∧ (h.ctx : Nat) < 4 ∧ 500 ≤ window ∧ window ≤ 10000 ∧ 2000 ≤ allot ∧ allot
      ≤ 9000) ∧
    (∃ (h : Hdr) (allot : Nat) (window : Nat) (ceiling : Nat) (v : Partition) (s : State), Accepts s h 0x50 ∧ (h.ctx : Nat) < 4 ∧ getPart s h.part =
      some v ∧ 500 ≤ window ∧ window ≤ 10000 ∧ 100 ≤ allot ∧ allot ≤ 9000 ∧ (ceiling = 0 ∨ allot ≤ ceiling ∧ ceiling ≤ 9000)) ∧
    (∃ (h : Hdr) (allot : Nat) (window : Nat) (v : Partition) (s : State), Accepts s h 0x50 ∧ 4 ≤ (h.ctx : Nat) ∧ getPart s h.part = some v ∧ 500 ≤
      window ∧ window ≤ 10000 ∧ 100 ≤ allot ∧ allot ≤ 9000) ∧
    (∃ (h : Hdr) (allot : Nat) (window : Nat) (s : State), Accepts s h 0x50 ∧ (window < 500 ∨ 10000 < window ∨ allot < 2000 ∨ 9000 < allot)) ∧
    (∃ (h : Hdr) (allot : Nat) (window : Nat) (s : State), Accepts s h 0x50 ∧ (window < 500 ∨ 10000 < window ∨ allot < 100 ∨ 9000 < allot)) :=
  ⟨⟨hd0, 2000, 500, live, by and_intros <;> first | decide +kernel | (unfold Accepts; decide +kernel)⟩,
    ⟨hd0, 100, 10000, 100, part1, live, by and_intros <;> first | decide +kernel | (unfold Accepts; decide +kernel)⟩,
    ⟨{ hd0 with ctx := 4 }, 9000, 500, part1, setReg live .hgCtxCfg 4 0x1000,
      by and_intros <;> first | decide +kernel | (unfold Accepts; decide +kernel)⟩,
    ⟨hd0, 1999, 500, live, by and_intros <;> first | decide +kernel | (unfold Accepts; decide +kernel)⟩,
    ⟨hd0, 99, 500, live, by and_intros <;> first | decide +kernel | (unfold Accepts; decide +kernel)⟩⟩

/-- States and operands that meet the hypotheses of each part of SurveyAndReload. -/
theorem witness_SurveyAndReload :
    (∃ (h : Hdr) (scope : Nat) (target : Nat) (kinds : Byte) (cs : List Nat) (s : State), Accepts s h 0x60 ∧ surveyTargets scope target = some cs ∧
      kinds.toNat < 16 ∧ s.head.pipes = [] ∧ s.head.seqs = []) ∧
    (∃ (h : Hdr) (image : W64) (bytes : Nat) (s : State), Accepts s h 0x71 ∧ compAddr image = true ∧ bytes ≤ 0x1000000) ∧
    (∃ (s : State), s.head.reload = 1 ∧ reloadReady s = true) ∧
    (∃ (s : State), s.head.reload = 2) :=
  ⟨⟨hd0, 3, 0, 15, List.range 240, inHead live (fun h => { h with pipes := [], seqs := [] }),
      by and_intros <;> first | decide +kernel | (unfold Accepts; decide +kernel)⟩,
    ⟨hd0, comp0, 0, live, by and_intros <;> first | decide +kernel | (unfold Accepts; decide +kernel)⟩,
    ⟨inHead live (fun h => { h with reload := 1 }), by and_intros <;> decide +kernel⟩,
    ⟨inHead live (fun h => { h with reload := 2 }), by decide +kernel⟩⟩

/-- States and operands that meet the hypotheses of each part of RingsServed. -/
theorem witness_RingsServed :
    (∃ (x : CtxId) (v : W32) (s : State), s.boot.vaon = true ∧ sub32 v (rawReg s .hgCmdCons x) ≤ ringEntries s x 1) ∧
    (∃ (x : CtxId) (v : W32) (s : State), s.boot.vaon = true ∧ ringEntries s x 1 < sub32 v (rawReg s .hgCmdCons x)) ∧
    (∃ (x : CtxId) (s : State), s.boot.hgState = 2 ∧ s.boot.ready = true ∧ s.head.reload = 0 ∧ commandWaits s x = true ∧ 2 ≤ cplRoom s x ∧ knownOp
      (bytesNat (frontDesc s x) 0 1) = true ∧ bytesNat (frontDesc s x) 2 2 % 4096 = x) ∧
    (∃ (x : CtxId) (c : Cpl) (s : State), nextCpl s x = some c ∧ ctxEnabled s x = true) ∧
    (∃ (x : CtxId) (s : State), s.head.irqDue.contains (x : Nat) = true ∧ (∀ u, tget s.head.irqAt x = some u → u + usCycles (getBits (rawReg s
      .hgIrqMod 0) 0 8) ≤ hgNow s)) ∧
    (∃ (r : TRec) (s : State),
      let n := getBits (rawReg s .hgTelCfg 0) 0 5
      let size := 2 ^ n * 1024
      s.head.telPush = [r] ∧ s.head.telLost = 0 ∧ n ≠ 0 ∧ sub32 (rawReg s .hgTelHead 0) (rawReg s .hgTelTail 0) + (recBytes r).length ≤ size) :=
  ⟨⟨4, 16, live, by and_intros <;> decide +kernel⟩,
    ⟨4, 17, live, by and_intros <;> decide +kernel⟩,
    ⟨4, ctx4, by and_intros <;> decide +kernel⟩,
    ⟨4, ⟨4, 9, 0, false, 0, 0, 0, 0, true⟩, ctx4, by and_intros <;> decide +kernel⟩,
    ⟨4, ctx4, by and_intros <;> decide +kernel⟩,
    ⟨rec0, inHead (setReg live .hgTelCfg 0 4) (fun h => { h with telPush := [rec0] }), by and_intros <;> decide +kernel⟩⟩

/-- States and operands that meet the hypotheses of each part of ContextConfigured. -/
theorem witness_ContextConfigured :
    (∃ (x : CtxId) (v : W32) (s : State), s.boot.vaon = true ∧ ctxEnabled s x = false ∧ mayEnable s x = true ∧ v.getLsbD 0 = true) ∧
    (∃ (x : CtxId) (s : State), s.boot.vaon = true ∧ ctxEnabled s x = true) :=
  ⟨⟨4, 1, setReg live .hgCtxCfg 4 0x1000, by and_intros <;> decide +kernel⟩,
    ⟨4, ctx4, by and_intros <;> decide +kernel⟩⟩

/-- States and operands that meet the hypotheses of each part of RegisterWrites. -/
theorem witness_RegisterWrites :
    (∃ (off : Nat) (r : Reg) (u : Nat) (w : Nat) (s : State), s.boot.vaon = true ∧ Reg.ofAddr off = some (r, u, w) ∧ r ∉ [Reg.hgDbCmd, .hgDbCpl,
      .hgCtxCfg, .hgCmdBaseLo, .hgCmdBaseHi, .hgCplBaseLo, .hgCplBaseHi, .hbIlv, .hbScrubCfg, .lkBvWin, .hgTelCfg, .pwEmerg, .hgBootCtl]) ∧
    (∃ (off : Nat) (s : State), s.boot.vaon = true ∧ Reg.ofAddr off = none) ∧
    (∃ (off : Nat) (s : State) (x : CtxId), s.boot.vaon = true ∧ Reg.ofAddr off = some (.hgDbCmd, (x : Nat), 0)) ∧
    (∃ (off : Nat) (s : State) (x : CtxId), s.boot.vaon = true ∧ Reg.ofAddr off = some (.hgDbCpl, (x : Nat), 0)) ∧
    (∃ (off : Nat) (s : State) (x : CtxId), s.boot.vaon = true ∧ Reg.ofAddr off = some (.hgCtxCfg, (x : Nat), 0)) ∧
    (∃ (off : Nat) (s : State) (x : CtxId) (w : Fin 4), s.boot.vaon = true ∧ Reg.ofAddr off = some (ringBaseReg w, (x : Nat), 0)) ∧
    (∃ (off : Nat) (s : State) (d : SideId), s.boot.vaon = true ∧ Reg.ofAddr off = some (.hbIlv, (d : Nat), 0)) ∧
    (∃ (off : Nat) (s : State) (d : SideId), s.boot.vaon = true ∧ Reg.ofAddr off = some (.hbScrubCfg, (d : Nat), 0)) ∧
    (∃ (off : Nat) (s : State), s.boot.vaon = true ∧ Reg.ofAddr off = some (.lkBvWin, 0, 0)) ∧
    (∃ (off : Nat) (s : State), s.boot.vaon = true ∧ Reg.ofAddr off = some (.hgTelCfg, 0, 0)) ∧
    (∃ (off : Nat) (s : State), s.boot.vaon = true ∧ Reg.ofAddr off = some (.pwEmerg, 0, 0)) ∧
    (∃ (off : Nat) (v : W32) (s : State), s.boot.vaon = true ∧ Reg.ofAddr off = some (.hgBootCtl, 0, 0) ∧ v.getLsbD 1 = true) ∧
    (∃ (off : Nat) (v : W32) (s : State), s.boot.vaon = true ∧ Reg.ofAddr off = some (.hgBootCtl, 0, 0) ∧ v.getLsbD 1 = false ∧ v.getLsbD 0 = true) :=
  ⟨⟨Reg.pwCoef.addr 0 3, .pwCoef, 0, 3, live, by and_intros <;> decide +kernel⟩,
    ⟨1, live, by and_intros <;> decide +kernel⟩,
    ⟨Reg.hgDbCmd.addr 4095 0, live, 4095, by and_intros <;> decide +kernel⟩,
    ⟨Reg.hgDbCpl.addr 5 0, live, 5, by and_intros <;> decide +kernel⟩,
    ⟨Reg.hgCtxCfg.addr 5 0, live, 5, by and_intros <;> decide +kernel⟩,
    ⟨(ringBaseReg 3).addr 5 0, live, 5, 3, by and_intros <;> decide +kernel⟩,
    ⟨Reg.hbIlv.addr 3 0, live, 3, by and_intros <;> decide +kernel⟩,
    ⟨Reg.hbScrubCfg.addr 3 0, live, 3, by and_intros <;> decide +kernel⟩,
    ⟨Reg.lkBvWin.addr 0 0, live, by and_intros <;> decide +kernel⟩,
    ⟨Reg.hgTelCfg.addr 0 0, live, by and_intros <;> decide +kernel⟩,
    ⟨Reg.pwEmerg.addr 0 0, live, by and_intros <;> decide +kernel⟩,
    ⟨Reg.hgBootCtl.addr 0 0, 2, live, by and_intros <;> decide +kernel⟩,
    ⟨Reg.hgBootCtl.addr 0 0, 1, live, by and_intros <;> decide +kernel⟩⟩

/-- States and operands that meet the hypotheses of each part of OutsidePorts. -/
theorem witness_OutsidePorts :
    (∃ (v : W32) (s : State), s.boot.vaon = true ∧ i3cServes s s.boot.ptr = true ∧ ctlRead s (i3cOffset s.boot.ptr) = some v) ∧
    (∃ (s : State), s.boot.vaon = true ∧ i3cServes s s.boot.ptr = false) ∧
    (∃ (s : State), (getRegion s 77).out = true) ∧
    (∃ (s : State), s.boot.vaon = true ∧ s.boot.phase ≤ 2) ∧
    (∃ (s : State), s.boot.vaon = true ∧ 2 < s.boot.phase) :=
  ⟨⟨(ctlRead live 0).getD 0, live, by and_intros <;> decide +kernel⟩,
    ⟨inBoot live (fun b => { b with ptr := 2 }), by and_intros <;> decide +kernel⟩,
    ⟨live, by decide +kernel⟩,
    ⟨inBoot live (fun b => { b with phase := 2 }), by and_intros <;> decide +kernel⟩,
    ⟨inBoot live (fun b => { b with phase := 3 }), by and_intros <;> decide +kernel⟩⟩

/-- States and operands that meet the hypotheses of each part of PowerFailsAndReturns. -/
theorem witness_PowerFailsAndReturns :
    (∃ (ns : Nat) (s : State), s.boot.vaon = true ∧ 10000 ≤ ns) ∧
    (∃ (ns : Nat), ns < 10000) ∧
    (∃ (s : State), s.boot.resetLow = true) ∧
    (∃ (ns : Nat) (s : State), s.pow.presentA = false ∧ s.pow.presentB = false ∧ 50000 < ns) ∧
    (∃ (i : SensorId) (c : Nat) (s : State), s.boot.vaon = true ∧ s.boot.halted = false ∧ (thresholds i).2.2.2 ≤ c) ∧
    (∃ (g : GroupId) (s : State), (g : Nat) = 72 ∧ s.boot.vaon = true ∧ s.boot.halted = false ∧ (getVGroup s 72).latches = []) ∧
    (∃ (g : GroupId) (s : State), (g : Nat) < 60 ∧ (getRegion s g).powered = true ∧ (getVGroup s g).off = false) ∧
    (∃ (g : GroupId) (s : State), (g : Nat) < 60 ∧ (getVGroup s g).off = true ∧ (getVGroup s g).stay = false ∧ s.head.reload ≠ 2 ∧ (getVGroup s
      g).offAt + msCycles 100 ≤ hgNow s ∧ (getRegion s (60 + g / 5)).powered = true) ∧
    (∃ (cv : BitVec 16), 3800 ≤ cv.toNat ∧ cv.toNat ≤ 6300) ∧
    (∃ (cv : BitVec 16), 6300 < cv.toNat) :=
  ⟨⟨10000, live, by and_intros <;> decide +kernel⟩,
    ⟨9999, by decide +kernel⟩,
    ⟨inBoot live (fun b => { b with resetLow := true }), by decide +kernel⟩,
    ⟨50001, inPow live (fun p => { p with presentA := false, presentB := false }), by and_intros <;> decide +kernel⟩,
    ⟨0, (thresholds 0).2.2.2, live, by and_intros <;> decide +kernel⟩,
    ⟨72, live, by and_intros <;> decide +kernel⟩,
    ⟨59, live, by and_intros <;> decide +kernel⟩,
    ⟨0, atRegion (setVGroup live 0 { VGroup.reset with off := true }) 0 (fun r => { r with powered := false }), by and_intros <;> decide +kernel⟩,
    ⟨3800, by and_intros <;> decide +kernel⟩,
    ⟨6301, by decide +kernel⟩⟩

/-- States and operands that meet the hypotheses of each part of PowerIsGoverned. -/
theorem witness_PowerIsGoverned :
    (∃ (ns : Nat) (s : State), s.boot.vaon = true ∧ s.pow.emergency = false ∧ 1000 ≤ ns) ∧
    (∃ (ns : Nat), ns < 1000) ∧
    (∃ (s : State), s.boot.vaon = true ∧ s.pow.emergency = true ∧ s.pow.presentA = s.pow.presentB ∧ s.pow.clearAt = none) ∧
    (∃ (u : Nat) (s : State), s.head.reload ≠ 2 ∧ s.pow.emergency = true ∧ s.pow.clearAt = some u ∧ emergencyCause s = false ∧ u + secCycles 1 ≤ hgNow
      s) ∧
    (∃ (a : Nat) (pms : Nat) (pwin : Nat) (s : State), s.head.reload ≠ 2 ∧ s.pow.dev.allot = some a ∧ 99 * a < 100 * pwin ∧ 98 * a ≤ 100 * pms ∧
      s.pow.dev.k < 16) ∧
    (∃ (a : Nat) (pms : Nat) (pwin : Nat) (s : State), s.head.reload ≠ 2 ∧ s.pow.dev.allot = some a ∧ 100 * pwin < 95 * a ∧ 100 * pms < 95 * a ∧
      s.pow.dev.lastChange + msCycles 10 ≤ hgNow s ∧ s.pow.emergency = false) ∧
    (∃ (p : Nat) (a : Nat) (v : Partition) (s : State), s.head.reload ≠ 2 ∧ getPart s p = some v ∧ v.pow.allot = some a) ∧
    (∃ (s : State), s.head.reload ≠ 2 ∧ ((List.range 61).map (modelledUnits s)).sum ≠ 0) ∧
    (∃ (x : Scope) (a : Nat) (mean : Nat) (s : State), s.head.reload ≠ 2 ∧ s.pow.dev = x ∧ x.allot = some a ∧ x.shedJ = true ∧ x.shedS = true ∧ a <
      mean ∧ (∀ u, x.overrunAt = some u → u + secCycles 1 ≤ hgNow s)) :=
  ⟨⟨1000, live, by and_intros <;> decide +kernel⟩,
    ⟨999, by decide +kernel⟩,
    ⟨inPow live (fun p => { p with emergency := true, brake := true }), by and_intros <;> decide +kernel⟩,
    ⟨0, inPow live (fun p => { p with emergency := true, clearAt := some 0 }), by and_intros <;> decide +kernel⟩,
    ⟨8400, 8232, 8317, live, by and_intros <;> decide +kernel⟩,
    ⟨8400, 7979, 7979, inPow live (fun p => { p with dev := { p.dev with k := 1 } }), by and_intros <;> decide +kernel⟩,
    ⟨1, 1000, part1, live, by and_intros <;> decide +kernel⟩,
    ⟨inPow (setReg live .pwCoef 0 256) (fun p => { p with events := [(16, 1000000)] }), by and_intros <;> decide +kernel⟩,
    ⟨{ Scope.device with shedJ := true, shedS := true }, 8400, 8401, inPow live (fun p =>
      { p with dev := { p.dev with shedJ := true, shedS := true } }), by and_intros <;> decide +kernel⟩⟩

/-- States and operands that meet the hypotheses of each part of SettingsAndHeat. -/
theorem witness_SettingsAndHeat :
    (∃ (r : RegionId) (g : Nat) (s : State), regionGroup r = some g ∧ s.head.reload ≠ 2 ∧ setpoint s g < 850 ∧ (getRegion s r).below3 = true ∧
      (getRegion s r).margin < 16 ∧ (getVGroup s g).raisedAt + usCycles 100 ≤ hgNow s) ∧
    (∃ (r : RegionId) (g : Nat) (s : State), regionGroup r = some g ∧ s.head.reload ≠ 2 ∧ 24 ≤ (getRegion s r).margin ∧ (getRegion s r).highSince +
      secCycles 10 ≤ hgNow s ∧ (getVGroup s g).loweredAt + secCycles 10 ≤ hgNow s) ∧
    (∃ (r : RegionId) (s : State), (r : Nat) < 72 ∧ (getRegion s r).locked = true ∧ s.head.reload ≠ 2) ∧
    (∃ (i : SensorId) (u : Nat) (s : State), s.head.reload ≠ 2 ∧ (getSensor s i).warn = false ∧ (getSensor s i).warnSince = some u ∧ u + msCycles 1 ≤
      hgNow s) ∧
    (∃ (i : SensorId) (u : Nat) (s : State), s.head.reload ≠ 2 ∧ (getSensor s i).shed = false ∧ (getSensor s i).shedSince = some u ∧ u + msCycles 1 ≤
      hgNow s) ∧
    (∃ (r : RegionId) (s : State), (r : Nat) < 72 ∧ s.head.reload ≠ 2 ∧ atStep s r = true ∧ (getRegion s r).lastStep + msCycles 1 ≤ hgNow s) ∧
    (∃ (r : RegionId) (s : State), (r : Nat) < 72 ∧ s.head.reload ≠ 2 ∧ atStep s r = false ∧ (getRegion s r).thermal ≠ 0 ∧ (getRegion s r).lastStep +
      msCycles 10 ≤ hgNow s) :=
  ⟨⟨5, 5, atRegion live 5 (fun r => { r with below3 := true, margin := 15 }), by and_intros <;> decide +kernel⟩,
    ⟨5, 5, atRegion (setVGroup live 5 { VGroup.reset with raise := 5 }) 5 (fun r => { r with margin := 24 }), by and_intros <;> decide +kernel⟩,
    ⟨71, atRegion live 71 (fun r => { r with k := 1 }), by and_intros <;> decide +kernel⟩,
    ⟨95, 0, setSensor live 95 { Sensor.reset with t := 2000, warnSince := some 0 }, by and_intros <;> decide +kernel⟩,
    ⟨60, 0, setSensor live 60 { Sensor.reset with t := 2000, warn := true, step := true, shedSince := some 0 }, by and_intros <;> decide +kernel⟩,
    ⟨5, hotAt live 5, by and_intros <;> decide +kernel⟩,
    ⟨5, atRegion live 5 (fun r => { r with thermal := 1 }), by and_intros <;> decide +kernel⟩⟩

/-- States and operands that meet the hypotheses of each part of DomainsShed. -/
theorem witness_DomainsShed :
    (∃ (cl : ClusterId) (s : State), shedCalled s cl = true ∧ (getRegion s cl).powered = true ∧ s.head.reload ≠ 2 ∧ s.head.pipes = [] ∧ (∀ c ∈
      clusterCores cl, (getCore s c).resetting = false ∧ (getCore s c).task = none)) ∧
    (∃ (f : FieldId) (s : State), (getSensor s (60 + f)).shed = true ∧ (getRegion s (60 + f)).powered = true ∧ s.head.reload ≠ 2 ∧ (getField s
      f).withheld = false ∧ (∀ c ∈ fieldClusters f, (getRegion s c).powered = false) ∧ routeMissing (setDark s f true) = false ∧ (∀ p ∈ s.passes,
      passIn f p.2 = false)) ∧
    (∃ (prog : Nat) (pipe : Nat) (p : Pipe) (s : State), getPipe s (pipeKey prog pipe) = some p ∧ p.held = false ∧ p.live = true ∧ s.head.reload ≠ 2 ∧
      (∃ c ∈ p.cores, shedPressing s (coreCluster c) = true)) ∧
    (∃ (d : Fin 72) (s : State), (d : Nat) < 60 ∧ coolEnough s d = true ∧ s.head.reload ≠ 2 ∧ (getRegion s d).shed = true ∧ (getRegion s (60 + d /
      5)).powered = true ∧ (getSensor s (60 + d / 5)).shed = false) :=
  ⟨⟨7, hotAt (inHead live (fun h => { h with pipes := [] })) 7, by and_intros <;> decide +kernel⟩,
    ⟨11, hotAt
      { live with fields := (List.range 11).map (fun i => (i, { Field.reset with dark := true })), clk := { live.clk with regions := live.clk.regions.map (fun e => (e.1, { e.2 with powered := decide (e.1 < 55 ∨ 60 ≤ e.1) })) } }
      71, by and_intros <;> decide +kernel⟩,
    ⟨0, 0, pipe0, atRegion (hotAt live 5) 5 (fun r => { r with draining := some 0 }), by and_intros <;> decide +kernel⟩,
    ⟨7, atRegion (setSensor live 7 { Sensor.reset with below95 := some 0 }) 7 (fun r => { r with shed := true, powered := false }),
      by and_intros <;> decide +kernel⟩⟩

/-- States and operands that meet the hypotheses of each part of LinksPowerUp. -/
theorem witness_LinksPowerUp :
    (∃ (s : State), s.boot.vaon = false ∧ (s.pow.presentA || s.pow.presentB) = true) ∧
    (∃ (s : State), s.boot.vaon = true ∧ (getRegion s 78).powered = false ∧ s.boot.resetLow = false ∧ s.boot.halted = false ∧ s.pow.tripped = false ∧
      s.clk.refPresent = true) ∧
    (∃ (w : Fin 8) (s : State), (getRegion s 78).out = true ∧ s.boot.rotated.length = w ∧ waveReady s w = true) ∧
    (∃ (r : RegionId) (s : State), (getRegion s r).running = true ∧ (getRegion s r).locked = false ∧ (getRegion s r).holdover = false ∧
      s.clk.refPresent = true) ∧
    (∃ (s : State), (getRegion s 77).out = true ∧ s.clk.refPresent = true ∧ companionUp s = false ∧ s.boot.bvTries < 3) :=
  ⟨⟨inPow State.reset (fun p => { p with presentA := true }), by and_intros <;> decide +kernel⟩,
    ⟨atRegion live 78 (fun _ => Region.reset), by and_intros <;> decide +kernel⟩,
    ⟨0, inBoot live (fun b => { b with phase := 1 }), by and_intros <;> decide +kernel⟩,
    ⟨5, atRegion live 5 (fun r => { r with locked := false }), by and_intros <;> decide +kernel⟩,
    ⟨inBoot live (fun b => { b with bvState := 1, phase := 1 }), by and_intros <;> decide +kernel⟩⟩

/-- States and operands that meet the hypotheses of each part of FirmwareBoots. -/
theorem witness_FirmwareBoots :
    (∃ (s : State), s.boot.phase = 2 ∧ companionUp s = true) ∧
    (∃ (s : State), s.boot.phase = 3 ∧ companionUp s = true ∧ (rawReg s .hgImgLen 0).toNat ≤ 0x1000000) ∧
    (∃ (s : State), s.boot.phase = 3 ∧ s.boot.hgState = 1 ∧ s.head.reload ≠ 2) ∧
    (∃ (s : State), s.boot.phase = 4 ∧ s.boot.verified = true ∧ s.boot.hgState = 1) :=
  ⟨⟨inBoot live (fun b => { b with phase := 2, hgState := 0 }), by and_intros <;> decide +kernel⟩,
    ⟨inBoot live (fun b => { b with phase := 3, hgState := 1 }), by and_intros <;> decide +kernel⟩,
    ⟨inBoot live (fun b => { b with phase := 3, hgState := 1 }), by and_intros <;> decide +kernel⟩,
    ⟨inBoot live (fun b => { b with phase := 4, hgState := 1, verified := true }), by and_intros <;> decide +kernel⟩⟩

/-- States and operands that meet the hypotheses of each part of FailedVerificationReturns. -/
theorem witness_FailedVerificationReturns :
    (∃ (s : State), s.boot.phase = 3 ∧ s.boot.hgState = 1 ∧ imageOk s s.boot.fetched = false) ∧
    (∃ (i : Instr) (s : State), i ∈ [Instr.imageFetch, .imageVerify] ∧ s.boot.phase ≠ 3) ∧
    (∃ (s : State), (s.boot.phase ≠ 4 ∨ s.boot.verified = false)) ∧
    (∃ (s : State), s.boot.hgState ≠ 2) ∧
    (∃ (s : State), s.boot.lanesDone = false) ∧
    (∃ (s : State), s.boot.hbmDone = false) ∧
    (∃ (p : PortId) (s : State), (getPort s p).st = 0) ∧
    (∃ (s : State), s.boot.surveyed = false) ∧
    (∃ (s : State), s.boot.phase ≠ 7) ∧
    (∃ (s : State), s.boot.phase ≠ 2) :=
  ⟨⟨inBoot live (fun b => { b with phase := 3, hgState := 1 }), by and_intros <;> decide +kernel⟩,
    ⟨.imageFetch, live, by and_intros <;> first | exact .head _ | exact .tail _ (.head _) | decide +kernel | simp⟩,
    ⟨live, by decide +kernel⟩,
    ⟨inBoot live (fun b => { b with hgState := 0 }), by decide +kernel⟩,
    ⟨live, by decide +kernel⟩,
    ⟨live, by decide +kernel⟩,
    ⟨3, setPort live 3 EthPort.reset, by decide +kernel⟩,
    ⟨live, by decide +kernel⟩,
    ⟨live, by decide +kernel⟩,
    ⟨live, by decide +kernel⟩⟩

/-- States and operands that meet the hypotheses of each part of SurveysAndReadiness. -/
theorem witness_SurveysAndReadiness :
    (∃ (s : State), s.boot.phase = 4 ∧ s.boot.hgState = 2 ∧ s.boot.lanesDone = false) ∧
    (∃ (s : State), s.boot.lanesDone = true ∧ s.boot.hbmDone = false) ∧
    (∃ (s : State), s.boot.hbmDone = true ∧ s.boot.surveyed = false) ∧
    (∃ (e : W32) (rest : List W32) (s : State), s.boot.newEntries = e :: rest ∧ s.boot.surveyed = true ∧ ledgerType e ≠ 7 ∧ ledgerType e ≠ 8 ∧
      s.head.ledger.length < 4096 ∧ s.head.reload ≠ 2) ∧
    (∃ (s : State), s.boot.surveyed = true ∧ s.boot.scrubbed = false) ∧
    (∃ (s : State), decisionDue s = true) ∧
    (∃ (s : State), s.boot.fuseDue = true ∧ s.boot.decided = true ∧ s.boot.hgState = 2) :=
  ⟨⟨inBoot live (fun b => { b with phase := 4 }), by and_intros <;> decide +kernel⟩,
    ⟨inBoot live (fun b => { b with lanesDone := true }), by and_intros <;> decide +kernel⟩,
    ⟨inBoot live (fun b => { b with hbmDone := true }), by and_intros <;> decide +kernel⟩,
    ⟨0x10000007, [], inBoot live (fun b => { b with newEntries := [0x10000007], surveyed := true }), by and_intros <;> decide +kernel⟩,
    ⟨inBoot live (fun b => { b with surveyed := true }), by and_intros <;> decide +kernel⟩,
    ⟨inBoot live (fun b =>
      { b with phase := 7, scrubbed := true, stacksOk := true, ledgerOk := true, presented := 240, surveyed := true, ethDone := List.range 16 }),
      by decide +kernel⟩,
    ⟨inBoot live (fun b => { b with fuseDue := true, decided := true, imgSvn := 3, revoke := 2, commit := true }), by and_intros <;> decide +kernel⟩⟩

/-- States and operands that meet the hypotheses of each part of ReferenceAndCrossings. -/
theorem witness_ReferenceAndCrossings :
    (∃ (r : RegionId) (s : State), (getRegion s r).locked = true) ∧
    (∃ (r : RegionId) (s : State), s.head.reload ≠ 2 ∧ (getRegion s r).holdover = true ∧ (getRegion s r).holdoverSince + secCycles ((getRegion s
      r).holdReports + 1) ≤ hgNow s) ∧
    (∃ (r : RegionId) (s : State), (getRegion s r).holdover = true ∧ s.clk.refPresent = true) ∧
    (∃ (s : State), s.clk.refPresent = false) ∧
    (∃ (x : Nat) (a : Nat) (b : Nat) (u : Nat) (s : State), crossRegions x = some (a, b) ∧ (getCrossing s x).engaged = false ∧ (getCrossing s x).skew
      = false ∧ sidesMeet s a b = true ∧ (getCrossing s x).clear = some u ∧ u + 64 ≤ (getRegion s b).count) :=
  ⟨⟨5, live, by decide +kernel⟩,
    ⟨5, atRegion live 5 (fun r => { r with locked := false, holdover := true }), by and_intros <;> decide +kernel⟩,
    ⟨5, atRegion live 5 (fun r => { r with locked := false, holdover := true }), by and_intros <;> decide +kernel⟩,
    ⟨{ live with clk := { live.clk with refPresent := false, allHold := true } }, by decide +kernel⟩,
    ⟨0, (crossRegions 0).get!.1, (crossRegions 0).get!.2, 0, { live with clk := { live.clk with crossings := [(0, ⟨false, false, 0, some 0⟩)] } },
      by and_intros <;> decide +kernel⟩⟩

/-- States and operands that meet the hypotheses of each part of GaugesAndMarks. -/
theorem witness_GaugesAndMarks :
    (∃ (r : RegionId) (m : Nat) (s : State), (getRegion s r).out = true ∧ m < 12 ∧ (12 ≤ (getRegion s r).margin ∨ (getRegion s r).least = 0x7F)) ∧
    (∃ (r : RegionId) (m : Nat) (s : State), (getRegion s r).out = true ∧ m < 4) ∧
    (∃ (r : RegionId) (s : State), (getRegion s r).spill = 1) ∧
    (∃ (s : State), s.clk.lastMark + 14000 ≤ hgNow s) ∧
    (∃ (a : SensorId) (c : Nat) (p : Nat × Nat × Nat) (s : State), s.head.reload ≠ 2 ∧ agentCount s a = some c ∧ (getAgent s a).pairs.getLast? = some
      p) :=
  ⟨⟨5, 11, live, by and_intros <;> decide +kernel⟩,
    ⟨5, 3, live, by and_intros <;> decide +kernel⟩,
    ⟨5, atRegion live 5 (fun r => { r with spill := 1 }), by decide +kernel⟩,
    ⟨live, by decide +kernel⟩,
    ⟨0, 10 ^ 16, (1, 2, 3), { live with clk := { live.clk with agents := [(0, { Agent.reset with pairs := [(1, 2, 3)] })] } },
      by and_intros <;> decide +kernel⟩⟩

/-- States and operands that meet the hypotheses of each part of SecuringRuns. -/
theorem witness_SecuringRuns :
    (∃ (p : Nat) (c : Secure) (s : State),
      let ts := c.tensors.map (chooseMethod ((s.head.ring.map ringSize).getD 0) c.rMax c.mirrorMax (Config.reliefRoom s.fresh))
      getSecure s p = some c ∧ secureDue c = true ∧ ringProtects s = true ∧ c.phase = 0 ∧ (c.tensors.map (fun t => 64 * t.dirty.length)).sum ≤
        deltaRoom c.areaBytes ts ∧ (∀ x ∈ c.tensors, ∀ g ∈ x.dirty, tget s.upset g = none)) ∧
    (∃ (p : Nat) (c : Secure) (s : State), getSecure s p = some c ∧ c.phase = 1 ∧ ringProtects s = true) ∧
    (∃ (p : Nat) (epoch : Nat) (c : Secure) (s : State), getSecure s p = some c ∧ c.phase = 2 ∧ c.epoch = epoch ∧ c.holdFrom = none ∧ s.head.reload ≠
      2) ∧
    (∃ (i : Nat) (lost : Nat) (r : Ring) (m : Member) (s : State), s.head.ring = some r ∧ r.members[i]? = some m ∧ r.role = 2 ∧ r.fenced = false ∧ i <
      ringSize r ∧ (m.lost = true ∨ m.fenceOrdered = true) ∧ s.head.reload ≠ 2) ∧
    (∃ (epoch : Nat) (p : Nat) (g : Nat) (r : Ring) (c : Secure) (x : STensor) (b : List Byte) (s : State), s.head.ring = some r ∧ r.role = 1 ∧
      securedParts s = [p] ∧ getSecure s p = some c ∧ (c.phase ≠ 2 ∨ c.epoch ≠ epoch) ∧ (∀ y ∈ c.tensors, ∀ e ∈ y.copy, e.2.length = 64) ∧ x ∈
      c.tensors ∧ g ∈ x.dirty ∧ tget x.copy g = some b ∧ (∀ y ∈ c.tensors, ∀ d, tget y.copy g = some d → d = b)) :=
  ⟨⟨1, secure1, securing 0, by and_intros <;> decide +kernel⟩,
    ⟨1, { secure1 with phase := 1 }, securing 1, by and_intros <;> decide +kernel⟩,
    ⟨1, 1, { secure1 with phase := 2 }, securing 2, by and_intros <;> decide +kernel⟩,
    ⟨0, 1, { ring2 with members := [⟨0, 1, 0, true, false⟩, ⟨1, 2, 0, false, false⟩] }, ⟨0, 1, 0, true, false⟩, inHead live (fun h =>
      { h with ring := some { ring2 with members := [⟨0, 1, 0, true, false⟩, ⟨1, 2, 0, false, false⟩] } }), by and_intros <;> decide +kernel⟩,
    ⟨1, 1, 0, ring1, secure1, tens0, List.replicate 64 0, securing 0, by and_intros <;> decide +kernel⟩⟩

/-- States and operands that meet the hypotheses of each part of RingMembers. -/
theorem witness_RingMembers :
    (∃ (n : Nat) (r : Ring) (s : State), s.head.ring = some r ∧ r.id = n ∧ r.role = 2 ∧ r.fenced = false) ∧
    (∃ (i : Nat) (r : Ring) (m : Member) (s : State), s.head.ring = some r ∧ r.members[i]? = some m ∧ m.fenceOrdered = false ∧ r.fenced = false) ∧
    (∃ (i : Nat) (r : Ring) (m : Member) (s : State), s.head.ring = some r ∧ r.members[i]? = some m ∧ r.role = 2 ∧ m.lost = false ∧ i < ringSize r ∧
      m.heard + 20 * beatCycles r ≤ hgNow s) ∧
    (∃ (r : Ring) (s : State), s.head.ring = some r ∧ r.role = 1 ∧ r.reliefLost = false ∧ r.fenced = false ∧ s.head.reload ≠ 2) :=
  ⟨⟨7, ring2, inHead live (fun h => { h with ring := some ring2 }), by and_intros <;> decide +kernel⟩,
    ⟨1, ring1, ⟨1, 2, 0, false, false⟩, inHead live (fun h => { h with ring := some ring1 }), by and_intros <;> decide +kernel⟩,
    ⟨0, ring2, ⟨0, 1, 0, false, false⟩, inHead live (fun h => { h with ring := some ring2 }), by and_intros <;> decide +kernel⟩,
    ⟨ring1, inHead live (fun h => { h with ring := some ring1 }), by and_intros <;> decide +kernel⟩⟩

/-- States and operands that meet the hypotheses of each part of TasksScheduled. -/
theorem witness_TasksScheduled :
    (∃ (prog : Nat) (pipe : Nat) (q : Nat) (c : Nat) (p : Pipe) (g : Program) (r : Sequ) (st : Nat × StageRec) (sts : List (Nat × StageRec)) (cs :
      List Nat) (s : State), pipe < 64 ∧ getPipe s (pipeKey prog pipe) = some p ∧ tget s.head.progs prog = some g ∧ p.live = true ∧ p.halted = false ∧
      p.held = false ∧ captureHolds s (pipeKey prog pipe) p = false ∧ pipeStages g.img pipe = st :: sts ∧ p.cores = c :: cs ∧ coreLive s c = true ∧
      (getCore s c).task = none ∧ p.slots.find? (fun q => !seqBusy s (pipeKey prog pipe) q && (getSeq s q).isSome) = some q ∧ getSeq s q = some r ∧ (∀
      d ∈ p.cores, d < 240) ∧ (∀ d, (getCore s d).vec.due = [])) ∧
    (∃ (prog : Nat) (pipe : Nat) (p : Pipe) (g : Program) (v : Partition) (s : State), ∃ e l r, pipe < 64 ∧ slotFree s (pipeKey prog pipe) = true ∧
      getPipe s (pipeKey prog pipe) = some p ∧ tget s.head.progs prog = some g ∧ getPart s g.part = some v ∧ (p.reserved = true ∨ reservedFree s prog
      = false) ∧ waiting s prog 0 = e :: l ∧ getSeq s e.1 = some r) ∧
    (∃ (prog : Nat) (pipe : Nat) (p : Pipe) (g : Program) (v : Partition) (s : State), ∃ h r, pipe < 64 ∧ slotFree s (pipeKey prog pipe) = true ∧
      getPipe s (pipeKey prog pipe) = some p ∧ tget s.head.progs prog = some g ∧ getPart s g.part = some v ∧ p.reserved = false ∧ waiting s prog 0 =
      [] ∧ waiting s prog 2 = [] ∧ stdHead s v g.img pipe (waiting s prog 1) = some h ∧ getSeq s h.1 = some r) ∧
    (∃ (prog : Nat) (pipe : Nat) (p : Pipe) (g : Program) (v : Partition) (s : State), pipe < 64 ∧ slotFree s (pipeKey prog pipe) = true ∧ getPipe s
      (pipeKey prog pipe) = some p ∧ tget s.head.progs prog = some g ∧ getPart s g.part = some v ∧ p.reserved = true ∧ waiting s prog 0 = []) ∧
    (∃ (prog : Nat) (pipe : Nat) (g : Program) (s : State) (s' : State) (cs : List Nat), pipe < 64 ∧ tget s.head.progs prog = some g ∧ ((waiting s
      prog 0) ≠ [] ∨ (waiting s prog 1) ≠ [] ∨ (waiting s prog 2) ≠ []) ∧ switchable s prog pipe = some (s', cs)) ∧
    (∃ (q : Nat) (d : Nat) (r : Sequ) (s : State), getSeq s q = some r ∧ r.deadline = some d ∧ r.st = .queued ∧ r.cls = 2 ∧ d ≤ hgNow s ∧
      s.head.reload ≠ 2) :=
  ⟨⟨0, 0, 9, 5, pipe0, prog0, seq9, ((0, stage5) : Nat × StageRec), [], [], { live with cores := [] },
      by and_intros <;> first | decide +kernel | exact fun _ => rfl⟩,
    ⟨0, 0, { pipe0 with slots := [] }, prog0, part1, waits id 0, ((9, { seq9 with st := .queued, cls := 0 }) : Nat × Sequ), ([] : List (Nat × Sequ)),
      { seq9 with st := .queued, cls := 0 }, by and_intros <;> decide +kernel⟩,
    ⟨0, 0, { pipe0 with slots := [] }, prog0, part1, waits id 1, (stdHead (waits id 1) part1 img0 0 (waiting (waits id 1) 0 1)).getD (0, 0, 0),
      { seq9 with st := .queued }, by and_intros <;> decide +kernel⟩,
    ⟨0, 0, { pipe0 with slots := [], reserved := true }, prog0, part1, waits (fun p => { p with reserved := true }) 1,
      by and_intros <;> decide +kernel⟩,
    ⟨0, 0, prog0, inHead (waits id 1) (fun h => { h with pipes := [] }), inHead (waits id 1) (fun h => { h with pipes := [] }), [5],
      by and_intros <;> decide +kernel⟩,
    ⟨9, 0, { seq9 with st := .queued, cls := 2, deadline := some 0 }, inHead live (fun h =>
      { h with seqs := [(9, { seq9 with st := .queued, cls := 2, deadline := some 0 })] }), by and_intros <;> decide +kernel⟩⟩

/-- States and operands that meet the hypotheses of each part of GovernorAndStages. -/
theorem witness_GovernorAndStages :
    (∃ (model : Nat) (layer : Nat) (m : Model) (g : Gov) (s : State), tget s.head.models model = some m ∧ tget m.govs layer = some g ∧ s.head.reload ≠
      2) ∧
    (∃ (g : Gov), polNarrow g.policy ≤ polWide g.policy) ∧
    (∃ (g : Gov) (f : GovSum), polPin g.policy = 0 ∧ polWarm g.policy ≤ g.steps ∧ f.nan = true ∧ polNarrow g.policy ≤ 3 ∧ polWide g.policy = 3) ∧
    (∃ (prog : Nat) (pipe : Nat) (p : Pipe) (g : Program) (s : State), pipe < 64 ∧ getPipe s (pipeKey prog pipe) = some p ∧ tget s.head.progs prog =
      some g ∧ s.head.reload ≠ 2 ∧ p.cores ≠ [] ∧ p.cores.all (atBoundary s) = true) ∧
    (∃ (c : CoreId) (s : State), s.head.reload ≠ 2 ∧ (getCore s c).lost = true ∧ (getRegion s (coreRegion c)).powered = true) ∧
    (∃ (prog : Nat) (stage : Nat) (g : Program) (st : StageRec) (p : Pipe) (s : State), tget s.head.progs prog = some g ∧ g.img.stages[stage]? = some
      st ∧ st.pipe < 64 ∧ getPipe s (pipeKey prog st.pipe) = some p ∧ s.head.reload ≠ 2 ∧ p.live = true ∧ st.pos < p.cores.length ∧ atBoundary s
      (p.cores.getD st.pos 0) = true) :=
  ⟨⟨0, 0, { model0 with govs := [(0, gov0)] }, gov0, inHead live (fun h => { h with models := [(0, { model0 with govs := [(0, gov0)] })] }),
      by and_intros <;> decide +kernel⟩,
    ⟨gov0, by decide +kernel⟩,
    ⟨gov0, govSum0, by and_intros <;> decide +kernel⟩,
    ⟨0, 0, pipe0, prog0, { live with cores := [] }, by and_intros <;> decide +kernel⟩,
    ⟨5, { live with cores := [(5, { core5 with lost := true })] }, by and_intros <;> decide +kernel⟩,
    ⟨0, 0, { prog0 with img := { img0 with stages := [{ stage5 with reliefs := [⟨25, 128, 64, [], []⟩] }] } },
      { stage5 with reliefs := [⟨25, 128, 64, [], []⟩] }, pipe0, movable, by and_intros <;> decide +kernel⟩⟩

/-- States and operands that meet the hypotheses of each part of SurveysAndSuspects. -/
theorem witness_SurveysAndSuspects :
    (∃ (c : CoreId) (s : State), (surveyOf s c).due = false ∧ (surveyOf s c).dueAt ≤ hgNow s ∧ corePresented s c = true) ∧
    (∃ (c : Nat) (s : State), c < 240 ∧ s.head.reload ≠ 2 ∧ holders s c = [] ∧ (getCore s c).resetting = false ∧ (getRegion s (coreRegion c)).powered
      = true) ∧
    (∃ (b : Nat) (s : State), s.head.reload ≠ 2 ∧ blockFallow s (b / 32) (b % 32) = false) ∧
    (∃ (c : CoreId) (key : Nat) (p : Pipe) (v : Survey) (s : State) (s' : State), surveyPressing s c = true ∧ s.head.reload ≠ 2 ∧ s.head.pipes =
      [(key, p)] ∧ p.live = true ∧ p.cores = [(c : Nat)] ∧ atBoundary s c = true ∧ s.head.surveys = [((c : Nat), v)] ∧ moveStage s key 0 3 = some s') ∧
    (∃ (c : CoreId) (s : State), surveyPressing s c = true ∧ s.head.reload ≠ 2 ∧ (surveyOf s c).since + hourCycles (deferHours s c + (surveyOf s
      c).reports) ≤ hgNow s) ∧
    (∃ (p : Nat) (v : Partition) (s : State), getPart s p = some v ∧ v.checks = false ∧ v.chkAt + hourCycles 1 ≤ hgNow s ∧ s.head.reload ≠ 2) ∧
    (∃ (c : Nat) (s : State), c < 240 ∧ s.head.suspectDue.contains c = true) ∧
    (∃ (b : Nat) (s : State), b % 32 < 20 ∧ s.head.suspectDue.contains (256 + b) = true) ∧
    (∃ (c : CoreId) (k : CoreId) (p : Nat) (v : Partition) (s : State), corePart s c = some p ∧ getPart s p = some v ∧ v.sample ≠ 0xFF ∧ (k : Nat) ≠ c
      ∧ spareCore s p k = true) :=
  ⟨⟨5, live, by and_intros <;> decide +kernel⟩,
    ⟨239, live, by and_intros <;> decide +kernel⟩,
    ⟨383, live, by and_intros <;> decide +kernel⟩,
    ⟨5, 0, pipe0, survey0, inHead movable (fun h => { h with surveys := [(5, survey0)] }), (moveStage (inHead movable (fun h =>
      { h with surveys := [(5, survey0)] })) 0 0 3).getD live, by and_intros <;> decide +kernel⟩,
    ⟨5, inHead live (fun h => { h with surveys := [(5, survey0)] }), by and_intros <;> decide +kernel⟩,
    ⟨1, part1, live, by and_intros <;> decide +kernel⟩,
    ⟨239, inHead live (fun h => { h with suspectDue := [239] }), by and_intros <;> decide +kernel⟩,
    ⟨51, inHead live (fun h => { h with suspectDue := [307] }), by and_intros <;> decide +kernel⟩,
    ⟨5, 25, 1, part1, live, by and_intros <;> decide +kernel⟩⟩

/-- States and operands that meet the hypotheses of each part of WritesAtCores. -/
theorem witness_WritesAtCores :
    (∃ (p : Packet) (v : Window) (n : Nat) (s : State),
      let c : Nat := p.dst
      let gran := (p.addr.toNat * 64 - spadBase c) / 64
      badPacket .write p = false ∧ mayArrive s .write p = true ∧ p.mcast = 0#2 ∧ c < 240 ∧ p.wkind = 1#2 ∧ p.data.length = 64 * n ∧ sinkActive s c =
        false ∧ stampOk s c p.part = true ∧ gran + n ≤ spadBytes / 64 ∧ tget (getCore s c).wins p.index = some v ∧ v.isOpen = true ∧ v.gen =
        p.gen.toNat ∧ v.wr = true ∧ srcAdmits s c v.kind v.srcId (srcOf p) = true ∧ v.base ≤ gran ∧ gran + n ≤ v.base + v.size ∧ n ≠ 0 ∧ n ≤ 32 ∧
        BanksApart s ((List.range n).map (fun i => spadBase c / 64 + gran + i)) ∧ (getCore s c).port = BankPort.reset ∧ (∀ g, furrowBusy s g = false)) ∧
    (∃ (p : Packet) (v : CRange) (n : Nat) (s : State),
      let c : Nat := p.dst
      let gran := p.addr.toNat % 2 ^ v.unitLog
      let d := (v.granted + 65536 - p.aux.toNat % 65536) % 65536
      let at_ := v.base + ((v.granted + 65536 * v.units - d) % v.units) * 2 ^ v.unitLog + gran
      badPacket .write p = false ∧ mayArrive s .write p = true ∧ p.mcast = 0#2 ∧ c < 240 ∧ p.wkind = 2#2 ∧ p.data.length = 64 * n ∧ sinkActive s c =
        false ∧ stampOk s c p.part = true ∧ gran + n ≤ spadBytes / 64 ∧ tget (getCore s c).rngs p.index = some v ∧ v.isOpen = true ∧ v.gen =
        p.gen.toNat ∧ v.wr = true ∧ srcAdmits s c v.kind v.srcId (srcOf p) = true ∧ 1 ≤ d ∧ d ≤ v.units ∧ gran + n ≤ 2 ^ v.unitLog ∧ v.base + v.units
        * 2 ^ v.unitLog ≤ spadBytes / 64 ∧ n ≤ 32 ∧ BanksApart s ((List.range n).map (fun i => spadBase c / 64 + at_ + i)) ∧ (getCore s c).port =
        BankPort.reset ∧ (∀ g, furrowBusy s g = false)) ∧
    (∃ (p : Packet) (v : Window) (s : State),
      let c : Nat := p.dst
      let gran := (p.addr.toNat * 64 - spadBase c) / 64
      let at_ := spadBase c / 64 + gran
      badPacket .write p = false ∧ mayArrive s .write p = true ∧ p.mcast = 0#2 ∧ c < 240 ∧ p.wkind = 1#2 ∧ p.data.length = 64 ∧ sinkActive s c = false
        ∧ stampOk s c p.part = true ∧ gran + 1 ≤ spadBytes / 64 ∧ tget (getCore s c).wins p.index = some v ∧ v.isOpen = true ∧ v.gen = p.gen.toNat ∧
        v.wr = true ∧ srcAdmits s c v.kind v.srcId (srcOf p) = true ∧ v.base ≤ gran ∧ gran + 1 ≤ v.base + v.size ∧ (getCore s c).port.touched.any (fun
        x => x.granule == at_) = true) ∧
    (∃ (p : Packet) (s : State),
      let c : Nat := p.dst
      let gran := (p.addr.toNat * 64 - spadBase c) / 64
      badPacket .write p = false ∧ mayArrive s .write p = true ∧ p.mcast = 0#2 ∧ c < 240 ∧ p.wkind = 1#2 ∧ sinkActive s c = false ∧ (stampOk s c
        p.part = false ∨ spadBytes / 64 < gran + (p.data.length + 63) / 64 ∨ tget (getCore s c).wins p.index = none ∨ ∃ v : Window, tget (getCore s
        c).wins p.index = some v ∧ (v.isOpen = false ∨ v.gen ≠ p.gen.toNat ∨ v.wr = false ∨ srcAdmits s c v.kind v.srcId (srcOf p) = false ∨ gran <
        v.base ∨ v.base + v.size < gran + (p.data.length + 63) / 64))) ∧
    (∃ (p : Packet) (v : CRange) (s : State),
      let c : Nat := p.dst
      let gran := p.addr.toNat % 2 ^ v.unitLog
      let d := (v.granted + 65536 - p.aux.toNat % 65536) % 65536
      badPacket .write p = false ∧ mayArrive s .write p = true ∧ p.mcast = 0#2 ∧ c < 240 ∧ p.wkind = 2#2 ∧ sinkActive s c = false ∧ stampOk s c p.part
        = true ∧ gran + (p.data.length + 63) / 64 ≤ spadBytes / 64 ∧ tget (getCore s c).rngs p.index = some v ∧ v.isOpen = true ∧ v.gen = p.gen.toNat
        ∧ v.wr = true ∧ srcAdmits s c v.kind v.srcId (srcOf p) = true ∧ (d < 1 ∨ v.units < d)) :=
  ⟨⟨wrPkt (spadBase 5 / 64 + 63) 0 1, win0, 1, live,
      by and_intros <;> first | decide +kernel | (unfold BanksApart; decide +kernel) | exact fun _ => rfl⟩,
    ⟨wrPkt 15 3 2, range0, 1, live, by and_intros <;> first | decide +kernel | (unfold BanksApart; decide +kernel) | exact fun _ => rfl⟩,
    ⟨wrPkt (sp5 / 64 + 63) 0 1, win0, at5 (fun k => { k with port := { BankPort.reset with touched := [⟨sp5 / 64 + 63, false, []⟩] } }),
      by and_intros <;> decide +kernel⟩,
    ⟨wrPkt (spadBase 5 / 64 + 64) 0 1, live, by and_intros <;> first | decide +kernel | exact Or.inr (Or.inr (Or.inr ⟨win0, by decide +kernel⟩))⟩,
    ⟨wrPkt 15 4 2, range0, live, by and_intros <;> decide +kernel⟩⟩

/-- States and operands that meet the hypotheses of each part of WritesAtMemories. -/
theorem witness_WritesAtMemories :
    (∃ (p : Packet) (r : PoolRange) (f : Nat) (o : Nat) (o' : Nat) (n : Nat) (s : State), badPacket .write p = false ∧ mayArrive s .write p = true ∧
      p.mcast = 0#2 ∧ isPoolPort p.dst = true ∧ portField p.dst = f ∧ poolLive s f = true ∧ p.data.length = 64 * n ∧ (getField s f).port =
      BankPort.reset ∧ (∀ g, furrowBusy s g = false) ∧ BanksApart s ((List.range n).map (fun i => p.addr.toNat + i)) ∧ placeOf (p.addr.toNat * 64) =
      .pool f o ∧ placeOf (p.addr.toNat * 64 + 64 * n - 1) = .pool f o' ∧ rangeOf s f o = some r ∧ rangeOf s f o' = some r ∧ r.mode = 1 ∧ (p.part =
      r.part ∨ p.part = 62 ∨ p.part = 63)) ∧
    (∃ (p : Packet) (n : Nat) (s : State), badPacket .write p = false ∧ mayArrive s .write p = true ∧ p.mcast = 0#2 ∧ isHbmPort p.dst = true ∧
      portLive s p.dst = true ∧ p.data.length = 64 * n ∧ n ≠ 0 ∧ portServes s p.dst (p.addr.toNat * 64) n = true ∧ portAdmits s p.part .wr
      (p.addr.toNat * 64) (64 * n) = true ∧ firstOwned s p.addr.toNat n = none) ∧
    (∃ (i : Packet → Instr) (ty : PType) (p : Packet), (i, ty) ∈ [(Instr.write, PType.write), (.writeAdd, .writeAdd), (.readReq, .readReq),
      (.readReply, .readReply), (.writeToken, .writeToken), (.freeToken, .freeToken), (.check, .check), (.engineReq, .engineReq), (.ack, .ack),
      (.error, .error), (.ctrl, .ctrl), (.inval, .inval)] ∧ badPacket ty p = true) ∧
    (∃ (i : Packet → Instr) (ty : PType) (p : Packet) (s : State), (i, ty) ∈ [(Instr.write, PType.write), (.writeAdd, .writeAdd), (.readReq,
      .readReq), (.readReply, .readReply), (.writeToken, .writeToken), (.freeToken, .freeToken), (.check, .check), (.engineReq, .engineReq), (.ack,
      .ack), (.error, .error), (.ctrl, .ctrl), (.inval, .inval)] ∧ badPacket ty p = false ∧ mayArrive s ty p = false) ∧
    (∃ (i : Packet → Instr) (ty : PType) (p : Packet) (s : State), (i, ty) ∈ [(Instr.write, PType.write), (.writeAdd, .writeAdd), (.readReq,
      .readReq), (.engineReq, .engineReq)] ∧ badPacket ty p = false ∧ mayArrive s ty p = true ∧ p.mcast = 0#2 ∧ p.dst < 240 ∧ sinkActive s p.dst =
      true ∧ engineFull s p.addr.toNat = false) ∧
    (∃ (i : Packet → Instr) (ty : PType) (p : Packet) (s : State), (i, ty) ∈ [(Instr.writeToken, PType.writeToken), (.freeToken, .freeToken), (.check,
      .check), (.ack, .ack), (.error, .error)] ∧ badPacket ty p = false ∧ mayArrive s ty p = true ∧ p.dst < 240 ∧ sinkActive s p.dst = true) :=
  ⟨⟨{ wrPkt (poolBase 1 / 64) 5 0 with dst := 245 }, ⟨0, 1, 1, 1, 0, 0, none⟩, 1, 0, 63, 1, pooled id,
      by and_intros <;> first | decide +kernel | exact fun _ => rfl | (unfold BanksApart; decide +kernel)⟩,
    ⟨{ wrPkt 0 0 0 with dst := hbmPort false 0 }, 1, live, by and_intros <;> decide +kernel⟩,
    ⟨Instr.write, PType.write, { wrPkt 0 0 0 with len := 9 },
      by and_intros <;> first | exact .head _ | exact .tail _ (.head _) | decide +kernel | simp⟩,
    ⟨Instr.write, PType.write, wrPkt (sp5 / 64) 0 1, { live with canal := [(.write, wrPkt (sp5 / 64 + 1) 0 1)] },
      by and_intros <;> first | exact .head _ | exact .tail _ (.head _) | decide +kernel | simp⟩,
    ⟨Instr.readReq, PType.readReq, toCore 0 0, at5 (fun k => { k with resetting := true }),
      by and_intros <;> first | exact .head _ | exact .tail _ (.head _) | decide +kernel | simp⟩,
    ⟨Instr.check, PType.check, toCore 0 0, at5 (fun k => { k with resetting := true }),
      by and_intros <;> first | exact .head _ | exact .tail _ (.head _) | decide +kernel | simp⟩⟩

/-- States and operands that meet the hypotheses of each part of ReadsAndTokens. -/
theorem witness_ReadsAndTokens :
    (∃ (p : Packet) (o : Nat) (o' : Nat) (s : State),
      let g := p.addr.toNat
      let n := p.aux.toNat % 64 + 1
      badPacket .readReq p = false ∧ mayArrive s .readReq p = true ∧ p.dst < 240 ∧ sinkActive s p.dst = false ∧ s.upset = [] ∧ stampOk s p.dst p.part
        = true ∧ (getCore s p.dst).port.touched = [] ∧ placeOf (g * 64) = .spad p.dst o ∧ placeOf (g * 64 + 64 * n - 1) = .spad p.dst o') ∧
    (∃ (p : Packet) (s : State),
      let g := p.addr.toNat
      let n := p.aux.toNat % 64 + 1
      badPacket .readReq p = false ∧ mayArrive s .readReq p = true ∧ isHbmPort p.dst = true ∧ portLive s p.dst = true ∧ s.upset = [] ∧ portServes s
        p.dst (g * 64) n = true ∧ portAdmits s p.part .rd (g * 64) (64 * n) = true ∧ firstOwned s g n = none) ∧
    (∃ (p : Packet) (r : PoolRange) (f : Nat) (o : Nat) (o' : Nat) (s : State),
      let g := p.addr.toNat
      let n := p.aux.toNat % 64 + 1
      badPacket .readReq p = false ∧ mayArrive s .readReq p = true ∧ isPoolPort p.dst = true ∧ portField p.dst = f ∧ poolLive s f = true ∧ s.upset =
        [] ∧ (getField s f).port.touched = [] ∧ (240 ≤ p.src ∨ coreField p.src ≠ f) ∧ placeOf (g * 64) = .pool f o ∧ placeOf ((g + n) * 64 - 1) =
        .pool f o' ∧ rangeOf s f o = some r ∧ rangeOf s f o' = some r ∧ r.mode = 1 ∧ (p.part = r.part ∨ p.part = 62 ∨ p.part = 63)) ∧
    (∃ (p : Packet) (s : State), badPacket .readReply p = false ∧ mayArrive s .readReply p = true ∧ p.mcast = 0#2 ∧ p.dst < 240 ∧ sinkActive s p.dst =
      false) ∧
    (∃ (k : Core) (l : LoadPend) (g : Nat) (data : List Byte), k.loads = [l] ∧ data.length = 64 ∧ l.need.contains g = true) ∧
    (∃ (p : Packet) (s : State), badPacket .writeToken p = false ∧ mayArrive s .writeToken p = true ∧ p.dst < 240 ∧ sinkActive s p.dst = false) ∧
    (∃ (p : Packet) (s : State), badPacket .freeToken p = false ∧ mayArrive s .freeToken p = true ∧ p.dst < 240 ∧ sinkActive s p.dst = false ∧ p.wkind
      ≠ 2#2) ∧
    (∃ (p : Packet) (r : CRange) (s : State), badPacket .freeToken p = false ∧ mayArrive s .freeToken p = true ∧ p.dst < 240 ∧ sinkActive s p.dst =
      false ∧ p.wkind = 2#2 ∧ tget (getCore s p.dst).rngs p.index = some r) ∧
    (∃ (p : Packet) (s : State), badPacket .check p = false ∧ mayArrive s .check p = true ∧ p.dst < 240 ∧ sinkActive s p.dst = false) :=
  ⟨⟨toCore (spadBase 5 / 64 + 786431) 0, 50331584, 50331647, live, by and_intros <;> decide +kernel⟩,
    ⟨{ toCore 0 0 with dst := hbmPort false 0 }, live, by and_intros <;> decide +kernel⟩,
    ⟨{ toCore (poolBase 1 / 64) 0 with dst := 245, src := 0 }, ⟨0, 1, 1, 1, 0, 0, none⟩, 1, 0, 63, pooled id, by and_intros <;> decide +kernel⟩,
    ⟨{ toCore 0 0 with len := 1, data := List.replicate 64 1 }, at5 (fun k => { k with loads := [load0] }), by and_intros <;> decide +kernel⟩,
    ⟨{ core5 with loads := [load0] }, load0, 0, List.replicate 64 1, by and_intros <;> decide +kernel⟩,
    ⟨{ toCore 0 3 with index := 255 }, live, by and_intros <;> decide +kernel⟩,
    ⟨{ toCore 0 3 with index := 255 }, live, by and_intros <;> decide +kernel⟩,
    ⟨{ toCore 0 3 with wkind := 2 }, range0, live, by and_intros <;> decide +kernel⟩,
    ⟨toCore 0 64, live, by and_intros <;> decide +kernel⟩⟩

/-- States and operands that meet the hypotheses of each part of AnswersDelivered. -/
theorem witness_AnswersDelivered :
    (∃ (p : Packet) (d : DmaOut) (s : State), badPacket .ack p = false ∧ mayArrive s .ack p = true ∧ p.dst < 240 ∧ sinkActive s p.dst = false ∧
      (getCore s p.dst).dma.find? (fun d => d.open_.contains p.addr.toNat) = some d) ∧
    (∃ (p : Packet) (k : Task) (q : Sequ) (s : State), badPacket .error p = false ∧ mayArrive s .error p = true ∧ p.dst < 240 ∧ sinkActive s p.dst =
      false ∧ (getCore s p.dst).task = some k ∧ getSeq s k.seq = some q ∧ s.head.reload ≠ 2) ∧
    (∃ (p : Packet) (r : Reg) (u : Nat) (w : Nat) (v : W32) (s : State), badPacket .ctrl p = false ∧ mayArrive s .ctrl p = true ∧ portLive s p.dst =
      true ∧ p.dst ≠ 393 ∧ p.src = 393 ∧ (p.dst < 240 → sinkActive s p.dst = false) ∧ p.addr.toNat % 4 = 0 ∧ p.aux.getLsbD 8 = false ∧ Reg.ofAddr
      p.addr.toNat = some (r, u, w) ∧ r ∈ [Reg.bsSpEvent, .coSchWaitLimit, .coVecEvent, .bsEccEvent, .hbEvent, .lkBvEvent] ∧ ctlRead s p.addr.toNat =
      some v) ∧
    (∃ (p : Packet) (r : Reg) (u : Nat) (w : Nat) (s : State), badPacket .ctrl p = false ∧ mayArrive s .ctrl p = true ∧ portLive s p.dst = true ∧
      p.dst ≠ 393 ∧ p.src = 393 ∧ (p.dst < 240 → sinkActive s p.dst = false) ∧ p.addr.toNat % 4 = 0 ∧ p.aux.getLsbD 8 = true ∧ Reg.ofAddr p.addr.toNat
      = some (r, u, w) ∧ r ∈ [Reg.bsSpEvent, .coSchWaitLimit, .coVecEvent, .bsEccEvent, .hbEvent, .lkBvEvent]) ∧
    (∃ (p : Packet) (s : State), badPacket .inval p = false ∧ mayArrive s .inval p = true ∧ isPoolPort p.dst = true) :=
  ⟨⟨toCore 0 1, ⟨[0], []⟩, at5 (fun k => { k with dma := [⟨[0], []⟩] }), by and_intros <;> decide +kernel⟩,
    ⟨{ toCore 0 8 with addr := 7 }, task5, seq9, live, by and_intros <;> decide +kernel⟩,
    ⟨{ ctlPkt 0 with len := 0, data := [] }, .coSchWaitLimit, 5, 0, (ctlRead live (Reg.coSchWaitLimit.addr 5 0)).getD 0, live,
      by and_intros <;> decide +kernel⟩,
    ⟨ctlPkt 256, .coSchWaitLimit, 5, 0, live, by and_intros <;> decide +kernel⟩,
    ⟨{ toCore 0 0 with dst := 245 }, pooled id, by and_intros <;> decide +kernel⟩⟩

/-- States and operands that meet the hypotheses of each part of CanalLinksHold. -/
theorem witness_CanalLinksHold :
    (∃ (r : CoreId) (d : Fin 4) (w : W32) (n : Nat) (s : State), neighbour r d = some n ∧ (getLink s r d).down = false ∧ crc8 (getBits w 0 24) ≠
      getBits w 24 8) ∧
    (∃ (r : CoreId) (d : Fin 4) (w : W32) (n : Nat) (s : State), neighbour r d = some n ∧ (getLink s r d).down = false ∧ crc8 (getBits w 0 24) =
      getBits w 24 8 ∧ w.getLsbD 0 = true ∧ w.getLsbD 11 = false) ∧
    (∃ (r : CoreId) (d : Fin 4) (w : W32) (n : Nat) (s : State), neighbour r d = some n ∧ (getLink s r d).down = false ∧ crc8 (getBits w 0 24) =
      getBits w 24 8 ∧ w.getLsbD 11 = true ∧ (getLink s r d).kept.contains (getBits w 12 6) = true) ∧
    (∃ (r : CoreId) (d : Fin 4) (n : Nat) (s : State), neighbour r d = some n ∧ (getLink s r d).down = false ∧ linkFails (getLink s r d) = true ∧
      s.head.reload ≠ 2) :=
  ⟨⟨0, 1, 1, 1, live, by and_intros <;> decide +kernel⟩,
    ⟨0, 1, BitVec.ofNat 32 (33 + crc8 33 * 2 ^ 24), 1, live, by and_intros <;> decide +kernel⟩,
    ⟨0, 1, BitVec.ofNat 32 (0x803 * 1 + 2048 * 0 + 4096 * 7 + crc8 (0x803 + 4096 * 7) * 2 ^ 24), 1,
      { live with links := [(1, { CLink.reset with kept := [6, 7, 8] })] }, by and_intros <;> decide +kernel⟩,
    ⟨239, 3, 238, { live with links := [(239 * 4 + 3, { CLink.reset with refused := 16 })] }, by and_intros <;> decide +kernel⟩⟩

/-- States and operands that meet the hypotheses of each part of MemoryControllers. -/
theorem witness_MemoryControllers :
    (∃ (a : Addr) (port : Nat) (part : Nat) (s : State), sideLive s (addrSide s a.toNat) = true ∧ a.toNat < hbmTop ∧ portServes s port (a.toNat / 64 *
      64) 1 = true ∧ portAdmits s part .rd (a.toNat / 64 * 64) 64 = true ∧ firstOwned s (a.toNat / 64) 1 = none) ∧
    (∃ (a : Addr) (port : Nat) (part : Nat) (n : Nat) (data : List Byte) (s : State), a.toNat < hbmTop ∧ sideLive s (addrSide s a.toNat) = true ∧
      a.toNat % 64 = 0 ∧ data.length = 64 * n ∧ n ≠ 0 ∧ portServes s port a.toNat n = true ∧ portAdmits s part .wr a.toNat (64 * n) = true) ∧
    (∃ (k : StackId) (s : State), sideLive s (k / 6) = true) ∧
    (∃ (g : Nat) (b : WriteBack) (s : State), tget s.backs g = some b) ∧
    (∃ (g : Nat) (s : State), tget s.backs g = none) ∧
    (∃ (a : Addr) (x : Nat) (s : State), placeOf a.toNat = .hbm x ∧ sideLive s (addrSide s a.toNat) = true ∧ tget s.upset (a.toNat / 64) = none) ∧
    (∃ (g : Nat) (u : BankUnit) (d : HeldWrite) (s : State), unitOf g = some u ∧ (getBanks s u).held.find? (fun d => d.granule == g) = some d) ∧
    (∃ (g : Nat) (c : Nat) (off : Nat) (d : PartialWr) (s : State), placeOf (g * 64) = .spad c off ∧ (getCore s c).partials.find? (fun d => d.granule
      == g) = some d) :=
  ⟨⟨0, hbmPort false 0, 1, live, by and_intros <;> decide +kernel⟩,
    ⟨0, hbmPort false 0, 1, 1, List.replicate 64 1, live, by and_intros <;> decide +kernel⟩,
    ⟨23, live, by decide +kernel⟩,
    ⟨0, ⟨[(0, 1)], false⟩, { live with backs := [(0, ⟨[(0, 1)], false⟩)], upset := [(0, [(0, 1)])] }, by decide +kernel⟩,
    ⟨0, live, by decide +kernel⟩,
    ⟨64, 64, live, by and_intros <;> decide +kernel⟩,
    ⟨sp5 / 64, .spad 5, ⟨sp5 / 64, List.replicate 64 1, none, false⟩, at5 (fun k =>
      { k with port := { k.port with held := [⟨sp5 / 64, List.replicate 64 1, none, false⟩] } }), by and_intros <;> decide +kernel⟩,
    ⟨sp5 / 64, 5, 0, ⟨sp5 / 64, 1, List.replicate 64 1, [], false⟩, at5 (fun k =>
      { k with partials := [⟨sp5 / 64, 1, List.replicate 64 1, [], false⟩] }), by and_intros <;> decide +kernel⟩⟩

/-- States and operands that meet the hypotheses of each part of PoolServes. -/
theorem witness_PoolServes :
    (∃ (c : CoreId) (a : Addr) (part : Nat) (idx : Nat) (x : Nat) (pr : PoolRange) (s : State),
      let f := coreField c
      poolLive s f = true ∧ corePart s c = some part ∧ placeOf a.toNat = .hbm x ∧ cacheRange s f part a.toNat = some (idx, pr) ∧ (getField s f).merges
        = [] ∧ taskAllows s c .rd (a.toNat / 256 * 256) 256 = true) ∧
    (∃ (c : CoreId) (a : Addr) (part : Nat) (idx : Nat) (x : Nat) (pr : PoolRange) (m : Merge) (s : State),
      let f := coreField c
      poolLive s f = true ∧ corePart s c = some part ∧ placeOf a.toNat = .hbm x ∧ cacheRange s f part a.toNat = some (idx, pr) ∧ (getField s f).merges
        = [m] ∧ m.line = a.toNat / 256 ∧ m.closed = false ∧ m.targets.length < 20 ∧ m.targets.contains (c : Nat) = false ∧ taskAllows s c .rd (a.toNat
        / 256 * 256) 256 = true) ∧
    (∃ (c : CoreId) (a : Addr) (k : Task) (q : Sequ) (s : State), poolLive s (coreField c) = true ∧ taskAllows s c .rd (a.toNat / 256 * 256) 256 =
      false ∧ TaskRuns s c k q) ∧
    (∃ (f : FieldId) (line : Nat) (m : Merge) (r : PoolRange) (s : State), poolLive s f = true ∧ (getField s f).merges = [m] ∧ m.line = line ∧ m.fill
      = true ∧ m.closed = false ∧ m.got = [] ∧ tget (getField s f).ranges m.range = some r ∧ r.mode = 2 ∧ s.upset = [] ∧ fieldWhole s f = true ∧
      m.targets ≠ [] ∧ (∀ c ∈ m.targets, mayReply s f c line = true)) ∧
    (∃ (f : FieldId) (line : Nat) (part : Nat) (idx : Nat) (x : Nat) (c : CoreId) (h : HeldReply) (pr : PoolRange) (l : Line) (bs : List Byte) (s :
      State), poolLive s f = true ∧ coreField c = f ∧ (getField s f).merges = [] ∧ (getField s f).held.find? (fun h => h.core == (c : Nat) && h.line
      == line) = some h ∧ receiveCredit s c = false ∧ h.since + 256 ≤ (getRegion s (60 + f)).count ∧ corePart s c = some part ∧ placeOf (line * 256) =
      .hbm x ∧ cacheRange s f part (line * 256) = some (idx, pr) ∧ (getField s f).lines.find? (fun l => l.line = line ∧ l.range = idx) = some l ∧
      lineData l = some (bs, false)) ∧
    (∃ (f : FieldId) (i : Nat) (mode : Nat) (lo : Nat) (hi : Nat) (r : PoolRange) (s : State), tget (getField s f).ranges i = some r ∧ r.change = some
      (mode, lo, hi) ∧ partRunsIn s r.part f = false) ∧
    (∃ (f : FieldId) (i : Nat) (r : PoolRange) (s : State), tget (getField s f).ranges i = some r ∧ (r.change = none ∨ partRunsIn s r.part f = true)) :=
  ⟨⟨5, 0x0FFFFFFF, 1, 1, 0x0FFFFFFF, ⟨1, 1, 2, 1, 0, 0xFFFF, none⟩, pooled id, by and_intros <;> decide +kernel⟩,
    ⟨5, 0, 1, 1, 0, ⟨1, 1, 2, 1, 0, 0xFFFF, none⟩, merge0, pooled (fun f => { f with merges := [merge0] }), by and_intros <;> decide +kernel⟩,
    ⟨5, 0xC000000000, task5, seq9, pooled id, by and_intros <;> first | decide +kernel | (unfold TaskRuns; decide +kernel)⟩,
    ⟨1, 0, merge0, ⟨1, 1, 2, 1, 0, 0xFFFF, none⟩, pooled (fun f => { f with merges := [merge0] }), by and_intros <;> decide +kernel⟩,
    ⟨1, 0, 1, 1, 0, 5, held0, ⟨1, 1, 2, 1, 0, 0xFFFF, none⟩, ⟨0, 1, List.replicate 256 0, []⟩, List.replicate 256 0, splitting,
      by and_intros <;> decide +kernel⟩,
    ⟨1, 0, 2, 0, 1, ⟨0, 1, 1, 1, 0, 0, some (2, 0, 1)⟩,
      { pooled (fun f => { f with ranges := [(0, ⟨0, 1, 1, 1, 0, 0, some (2, 0, 1)⟩)] }) with cores := [] }, by and_intros <;> decide +kernel⟩,
    ⟨1, 0, ⟨0, 1, 1, 1, 0, 0, some (2, 0, 1)⟩, pooled (fun f => { f with ranges := [(0, ⟨0, 1, 1, 1, 0, 0, some (2, 0, 1)⟩)] }),
      by and_intros <;> decide +kernel⟩⟩

/-- States and operands that meet the hypotheses of each part of FurrowRequests. -/
theorem witness_FurrowRequests :
    (∃ (i : CoreId → BitVec 256 → Instr) (c : CoreId) (req : BitVec 256) (f : Nat) (o : Nat) (s : State), i ∈ [Instr.acc, .axpby, .scatterAdd,
      .momentum, .adam] ∧ coreRuns s c = true ∧ placeOf (fuDesc req).target = .pool f o) ∧
    (∃ (i : CoreId → BitVec 256 → Instr) (op : Nat) (c : CoreId) (req : BitVec 256) (o : Nat) (s : State), (i, op) ∈ [(Instr.acc, 1), (.axpby, 2),
      (.scatterAdd, 3)] ∧ coreRuns s c = true ∧ s.upset = [] ∧ s.blocks = [] ∧ (getCore s c).port = BankPort.reset ∧ (∀ e ∈ s.furrow, e.2.arrived =
      true) ∧ fld req 0 4 = op ∧ placeOf (fuDesc req).target = .spad c o ∧ fuCheck s c (fuDesc req) = .ok ()) ∧
    (∃ (i : CoreId → BitVec 256 → Instr) (op : Nat) (ns : Nat) (c : CoreId) (req : BitVec 256) (o : Nat) (af : Fmt) (s : State),
      let d := fuDesc req
      let pa := d.alpha.toNat + 2 ^ 32 * (d.beta.toNat % 65536)
      let ma := leNat (mreads s.mem pa 8)
      let va := leNat (mreads s.mem (pa + 8) 8)
      (i, op, ns) ∈ [(Instr.momentum, 4, 5), (.adam, 5, 8)] ∧ coreRuns s c = true ∧ s.upset = [] ∧ s.blocks = [] ∧ (getCore s c).port = BankPort.reset
        ∧ (∀ e ∈ s.furrow, e.2.arrived = true) ∧ fld req 0 4 = op ∧ placeOf d.target = .spad c o ∧ fuCheck s c d = .ok () ∧ pa / 2 ^ 44 = 1 ∧ leNat
        ((mreads s.mem pa 64).drop (16 + 4 * ns)) = 0 ∧ (op = 4 → va = 0) ∧ fuAligned (if op = 4 then [d.target, d.operand, ma] else [d.target,
        d.operand, ma, va]) = true ∧ d.af = some af ∧ taskAllows s c .rd pa 64 = true ∧ fuTarget s c op ma (elemBytes af (64 * d.count)) = .ok () ∧
        (op = 5 → fuTarget s c op va (elemBytes af (64 * d.count)) = .ok ())) ∧
    (∃ (i : CoreId → BitVec 256 → Instr) (op : Nat) (c : CoreId) (req : BitVec 256) (o : Nat) (st : St) (a : Nat) (k : Task) (q : Sequ) (s : State),
      (i, op) ∈ [(Instr.acc, 1), (.axpby, 2), (.scatterAdd, 3), (.momentum, 4), (.adam, 5)] ∧ coreRuns s c = true ∧ fld req 0 4 = op ∧ placeOf (fuDesc
      req).target = .spad c o ∧ fuCheck s c (fuDesc req) = .error (st, a) ∧ TaskRuns s c k q) ∧
    (∃ (f : FieldId) (blk : Fin 32) (r : FuRow) (rest : List FuRow) (q : FuReq) (s : State),
      let b : Nat := f * 32 + blk
      (getBlock s b).rows = r :: rest ∧ (rest ≠ [] ∨ (getBlock s b).ops = []) ∧ flumeOn s b = false ∧ r.silt = false ∧ r.new.length = 64 ∧ tget
        s.furrow r.req = some q) ∧
    (∃ (f : FieldId) (blk : Fin 32) (s : State), (flumeOn s (f * 32 + blk) = true ∨ ((getBlock s (f * 32 + blk)).rows = [] ∧ (getBlock s (f * 32 +
      blk)).ops = []))) ∧
    (∃ (r : Nat) (q : FuReq) (s : State), tget s.furrow r = some q ∧ q.left = 0 ∧ q.siltIdx = none ∧ q.oob = false) ∧
    (∃ (r : Nat) (q : FuReq) (k : Task) (x : Sequ) (s : State), tget s.furrow r = some q ∧ q.left = 0 ∧ q.siltIdx = none ∧ q.oob = true ∧ TaskRuns s
      q.core k x) ∧
    (∃ (r : Nat) (g : Nat) (q : FuReq) (k : Task) (x : Sequ) (s : State), tget s.furrow r = some q ∧ q.left = 0 ∧ q.siltIdx = some g ∧ TaskRuns s
      q.core k x) ∧
    (∃ (r : Nat) (q : FuReq) (s : State), tget s.furrow r = some q ∧ q.left ≠ 0) :=
  ⟨⟨Instr.acc, 5, BitVec.ofNat 256 (1 + 2 ^ 44 * ((poolBase 1 - 2 ^ 44) / 64)), 1, 0, live,
      by and_intros <;> first | exact .head _ | exact .tail _ (.head _) | decide +kernel | simp⟩,
    ⟨Instr.acc, 1, 5, fuReq 1 0 0, 65536, live,
      by and_intros <;> first | exact .head _ | exact .tail _ (.head _) | decide +kernel | exact eq_ok (by decide +kernel) | simp⟩,
    ⟨Instr.adam, 5, 8, 5, fuReq 5 1 0, 65536, .fp32, moments (sp5 + 327680),
      by and_intros <;> first | exact .head _ | exact .tail _ (.head _) | decide +kernel | exact eq_ok (by decide +kernel) | exact fun _ => eq_ok (by decide +kernel) | simp⟩,
    ⟨Instr.acc, 1, 5, fuReq 1 1 0, 65536, St.badCommand, sp5 + 65536, task5, seq9, live,
      by and_intros <;> first | exact .head _ | exact .tail _ (.head _) | decide +kernel | exact rfl | (unfold TaskRuns; decide +kernel) | simp⟩,
    ⟨1, 0, row0, [], { fuq0 with left := 1 }, furrowing { fuq0 with left := 1 }, by and_intros <;> decide +kernel⟩,
    ⟨0, 31, live, by decide +kernel⟩,
    ⟨0, fuq0, furrowing fuq0, by and_intros <;> decide +kernel⟩,
    ⟨0, { fuq0 with oob := true }, task5, seq9, furrowing { fuq0 with oob := true },
      by and_intros <;> first | decide +kernel | (unfold TaskRuns; decide +kernel)⟩,
    ⟨0, 7, { fuq0 with siltIdx := some 7 }, task5, seq9, furrowing { fuq0 with siltIdx := some 7 },
      by and_intros <;> first | decide +kernel | (unfold TaskRuns; decide +kernel)⟩,
    ⟨0, { fuq0 with left := 1 }, furrowing { fuq0 with left := 1 }, by and_intros <;> decide +kernel⟩⟩

/-- States and operands that meet the hypotheses of each part of FurrowValues. -/
theorem witness_FurrowValues :
    (∃ (c : CoreId) (req : BitVec 256) (o : Nat) (b : Nat) (ctl : Ctl) (s : State),
      let d := fuDesc req
      coreRuns s c = true ∧ s.upset = [] ∧ s.blocks = [] ∧ s.furrow = [] ∧ flumeOn s b = false ∧ (getCore s c).port = BankPort.reset ∧ d.tf = some
        .fp32 ∧ d.sf = some .fp32 ∧ d.ctl = some ctl ∧ d.count = 1 ∧ placeOf d.target = .spad c o ∧ blockOf (d.target / 64) = some b ∧ fuCheck s c d =
        .ok () ∧ fld req 0 4 = 1) ∧
    (∃ (c : CoreId) (req : BitVec 256) (o : Nat) (b : Nat) (ctl : Ctl) (s : State),
      let d := fuDesc req
      coreRuns s c = true ∧ s.upset = [] ∧ s.blocks = [] ∧ s.furrow = [] ∧ flumeOn s b = false ∧ (getCore s c).port = BankPort.reset ∧ d.tf = some
        .fp32 ∧ d.sf = some .fp32 ∧ d.ctl = some ctl ∧ d.count = 1 ∧ placeOf d.target = .spad c o ∧ blockOf (d.target / 64) = some b ∧ fuCheck s c d =
        .ok () ∧ fld req 0 4 = 2) ∧
    (∃ (c : CoreId) (req : BitVec 256) (o : Nat) (b : Nat) (ctl : Ctl) (s : State),
      let d := fuDesc req
      let idx := signedOf 32 (leNat (mreads s.mem d.operand 4))
      let row := d.target + idx.toNat * 64
      coreRuns s c = true ∧ s.upset = [] ∧ s.blocks = [] ∧ s.furrow = [] ∧ (getCore s c).port = BankPort.reset ∧ fld req 0 4 = 3 ∧ d.tf = some .fp32 ∧
        d.sf = some .fp32 ∧ d.ctl = some ctl ∧ d.count = 1 ∧ d.rowLen = 0 ∧ placeOf d.target = .spad c o ∧ fuCheck s c d = .ok () ∧ isSilt (mreads
        s.mem (d.operand / 64 * 64) 64) = false ∧ 0 ≤ idx ∧ idx < d.rows ∧ blockOf (row / 64) = some b ∧ flumeOn s b = false) ∧
    (∃ (c : CoreId) (req : BitVec 256) (o : Nat) (ctl : Ctl) (s : State),
      let d := fuDesc req
      let idx := signedOf 32 (leNat (mreads s.mem d.operand 4))
      coreRuns s c = true ∧ s.upset = [] ∧ s.blocks = [] ∧ s.furrow = [] ∧ (getCore s c).port = BankPort.reset ∧ fld req 0 4 = 3 ∧ d.tf = some .fp32 ∧
        d.sf = some .fp32 ∧ d.ctl = some ctl ∧ d.count = 1 ∧ d.rowLen = 0 ∧ placeOf d.target = .spad c o ∧ fuCheck s c d = .ok () ∧ isSilt (mreads
        s.mem (d.operand / 64 * 64) 64) = false ∧ (idx < 0 ∨ (d.rows : Int) ≤ idx)) ∧
    (∃ (c : CoreId) (req : BitVec 256) (o : Nat) (oa : Nat) (b : Nat) (ctl : Ctl) (s : State),
      let d := fuDesc req
      let pa := d.alpha.toNat + 2 ^ 32 * (d.beta.toNat % 65536)
      let ma := leNat (mreads s.mem pa 8)
      let va := leNat (mreads s.mem (pa + 8) 8)
      coreRuns s c = true ∧ s.upset = [] ∧ s.blocks = [] ∧ s.furrow = [] ∧ flumeOn s b = false ∧ (getCore s c).port = BankPort.reset ∧ d.tf = some
        .fp32 ∧ d.sf = some .fp32 ∧ d.af = some .fp32 ∧ d.ctl = some ctl ∧ d.count = 1 ∧ placeOf d.target = .spad c o ∧ placeOf ma = .spad c oa ∧
        blockOf (d.target / 64) = some b ∧ fuCheck s c d = .ok () ∧ pa / 2 ^ 44 = 1 ∧ taskAllows s c .rd pa 64 = true ∧ fuTarget s c d.op ma 256 = .ok
        () ∧ fld req 0 4 = 4 ∧ leNat ((mreads s.mem pa 64).drop 36) = 0 ∧ va = 0 ∧ fuAligned [d.target, d.operand, ma] = true) ∧
    (∃ (c : CoreId) (req : BitVec 256) (o : Nat) (oa : Nat) (ob : Nat) (b : Nat) (ctl : Ctl) (s : State),
      let d := fuDesc req
      let pa := d.alpha.toNat + 2 ^ 32 * (d.beta.toNat % 65536)
      let ma := leNat (mreads s.mem pa 8)
      let va := leNat (mreads s.mem (pa + 8) 8)
      coreRuns s c = true ∧ s.upset = [] ∧ s.blocks = [] ∧ s.furrow = [] ∧ flumeOn s b = false ∧ (getCore s c).port = BankPort.reset ∧ d.tf = some
        .fp32 ∧ d.sf = some .fp32 ∧ d.af = some .fp32 ∧ d.ctl = some ctl ∧ d.count = 1 ∧ placeOf d.target = .spad c o ∧ placeOf ma = .spad c oa ∧
        blockOf (d.target / 64) = some b ∧ fuCheck s c d = .ok () ∧ pa / 2 ^ 44 = 1 ∧ taskAllows s c .rd pa 64 = true ∧ fuTarget s c d.op ma 256 = .ok
        () ∧ fld req 0 4 = 5 ∧ leNat ((mreads s.mem pa 64).drop 48) = 0 ∧ placeOf va = .spad c ob ∧ fuTarget s c 5 va 256 = .ok () ∧ fuAligned
        [d.target, d.operand, ma, va] = true) :=
  ⟨⟨5, fuReq 1 0 0, 65536, blk5, ctl32, live, by and_intros <;> first | decide +kernel | exact eq_ok (by decide +kernel)⟩,
    ⟨5, fuReq 2 0 0, 65536, blk5, ctl32, live, by and_intros <;> first | decide +kernel | exact eq_ok (by decide +kernel)⟩,
    ⟨5, fuReq 3 0 4, 65536, blk5, ctl32, withBytes live (sp5 + 131072) (leBytes 4 3),
      by and_intros <;> first | decide +kernel | exact eq_ok (by decide +kernel)⟩,
    ⟨5, fuReq 3 0 4, 65536, ctl32, withBytes live (sp5 + 131072) (leBytes 4 4),
      by and_intros <;> first | decide +kernel | exact eq_ok (by decide +kernel)⟩,
    ⟨5, fuReq 4 1 0, 65536, 196608, blk5, ctl32, moments 0, by and_intros <;> first | decide +kernel | exact eq_ok (by decide +kernel)⟩,
    ⟨5, fuReq 5 1 0, 65536, 196608, 327680, blk5, ctl32, moments (sp5 + 327680),
      by and_intros <;> first | decide +kernel | exact eq_ok (by decide +kernel)⟩⟩

/-- States and operands that meet the hypotheses of each part of RemoteAddsAndEngineRequests. -/
theorem witness_RemoteAddsAndEngineRequests :
    (∃ (p : Packet) (v : Window) (tf : Fmt) (sf : Fmt) (ctl : Ctl) (m : Nat) (n : Nat) (s : State),
      let c : Nat := p.dst
      let gran := (p.addr.toNat * 64 - spadBase c) / 64
      let a := p.aux.toNat
      badPacket .writeAdd p = false ∧ mayArrive s .writeAdd p = true ∧ p.mcast = 0#2 ∧ c < 240 ∧ p.wkind = 1#2 ∧ engineFull s p.addr.toNat = false ∧
        sinkActive s c = false ∧ s.upset = [] ∧ s.blocks = [] ∧ (getCore s c).port = BankPort.reset ∧ fmtOfCode (a / 16 % 16) = some tf ∧ fmtOfCode (a
        % 16) = some sf ∧ ctlOf (BitVec.ofNat 8 (a / 256)) = some ctl ∧ addShape tf sf p.data.length = some (m, n) ∧ fuFormats
        { fuDesc 0#256 with op := 1, tf := some tf, sf := some sf, auxCode := 0 } = true ∧ fuPlace s c (spadBase c + gran * 64) (64 * n) = .ok () ∧
        stampOk s c p.part = true ∧ gran + n ≤ spadBytes / 64 ∧ tget (getCore s c).wins p.index = some v ∧ v.isOpen = true ∧ v.gen = p.gen.toNat ∧
        v.add = true ∧ srcAdmits s c v.kind v.srcId (srcOf p) = true ∧ v.base ≤ gran ∧ gran + n ≤ v.base + v.size) ∧
    (∃ (p : Packet) (v : Window) (s : State), badPacket .writeAdd p = false ∧ mayArrive s .writeAdd p = true ∧ p.mcast = 0#2 ∧ p.dst < 240 ∧ p.wkind =
      1#2 ∧ engineFull s p.addr.toNat = false ∧ sinkActive s p.dst = false ∧ tget (getCore s p.dst).wins p.index = some v ∧ v.add = false) ∧
    (∃ (p : Packet) (s : State), badPacket .writeAdd p = false ∧ mayArrive s .writeAdd p = true ∧ p.mcast = 0#2 ∧ p.src < 240 ∧ engineFull s
      p.addr.toNat = true) ∧
    (∃ (p : Packet) (s : State),
      let f := portField p.dst
      badPacket .engineReq p = false ∧ mayArrive s .engineReq p = true ∧ isPoolPort p.dst = true ∧ poolLive s f = true ∧ p.src < 240 ∧ p.aux.toNat % 2
        = 0) ∧
    (∃ (p : Packet) (s : State),
      let r := BitVec.ofNat 256 (leNat (p.data.take 32))
      badPacket .engineReq p = false ∧ mayArrive s .engineReq p = true ∧ isPoolPort p.dst = true ∧ poolLive s (portField p.dst) = true ∧ p.src < 240 ∧
        p.aux.toNat % 2 = 1 ∧ engineFull s ((fuDesc r).target / 64) = false ∧ (fld r 0 4 = 1 ∨ fld r 0 4 = 2) ∧ s.upset = [] ∧ s.blocks = [] ∧ (∀ u,
        unitOf ((fuDesc r).target / 64) = some u → getBanks s u = BankPort.reset) ∧ fuCheck s p.src (fuDesc r) = .ok ()) :=
  ⟨⟨{ wrPkt (sp5 / 64 + 63) 0x0111 1 with data := List.replicate 64 0 }, win0, .fp32, .fp32, ctl32, 16, 1, live,
      by and_intros <;> first | decide +kernel | exact eq_ok (by decide +kernel)⟩,
    ⟨wrPkt (sp5 / 64) 0x0111 1, { win0 with add := false }, at5 (fun k => { k with wins := [(0, { win0 with add := false })] }),
      by and_intros <;> decide +kernel⟩,
    ⟨wrPkt (sp5 / 64) 0x0111 1, crowded, by and_intros <;> decide +kernel⟩,
    ⟨{ toCore 0 0 with src := 5, dst := 245, len := 1, data := leBytes 64 (3 + 4 * 2 ^ 26) }, pooled id, by and_intros <;> decide +kernel⟩,
    ⟨{ toCore 0 1 with src := 5, dst := 245, len := 1, data := leBytes 64 (fuReq 1 0 0).toNat }, pooled id,
      by and_intros <;> first | decide +kernel | exact eq_ok (by decide +kernel)⟩⟩

/-- States and operands that meet the hypotheses of each part of FlumeRuns. -/
theorem witness_FlumeRuns :
    (∃ (c : CoreId) (d : BitVec 128) (m : Pin) (xf : Fmt) (s : State), coreRuns s c = true ∧ flumeOk s c d = true ∧ tget s.head.pins (fld d 0 16) =
      some m ∧ fmtOfCode (fld d 26 4) = some xf ∧ (getCore s c).port = BankPort.reset ∧ s.upset = []) ∧
    (∃ (c : CoreId) (d : BitVec 128) (k : Task) (q : Sequ) (s : State), coreRuns s c = true ∧ flumeOk s c d = false ∧ tget s.head.pins (fld d 0 16) =
      none ∧ TaskRuns s c k q) ∧
    (∃ (f : FieldId) (id : Nat) (rest : List Nat) (p : Pass) (s : State), poolLive s f = true ∧ (getField s f).queue = id :: rest ∧ (getField s
      f).filling = none ∧ rest.length < 8 ∧ (∀ i q, (getField s f).running = some i → tget s.passes i = some q → q.until_ ≤ (getRegion s (60 +
      f)).count) ∧ tget s.passes id = some p) ∧
    (∃ (id : Nat) (p : Pass) (m : Pin) (xf : Fmt) (wf : Fmt) (buf : List Byte) (s : State),
      let g := fld p.desc 16 8
      let inp := passInput p.desc m.k xf
      passRuns s id = true ∧ tget s.passes id = some p ∧ p.st = .filling ∧ tget s.head.pins (fld p.desc 0 16) = some m ∧ fmtOfCode (fld p.desc 26 4) =
        some xf ∧ fmtOfCode m.fmt = some wf ∧ s.upset = [] ∧ blocksIdle s id p m = true ∧ (p.field = none → buf = mreads s.mem (spadBase p.core +
        inp.1) inp.2 ∧ (getCore s p.core).port = BankPort.reset ∧ BanksApart s (((passCycles m wf g).headD []).map Prod.fst)) ∧ (p.field ≠ none →
        (getCore s p.core).vectors.find? (fun v => v.1 == p.desc) = some (p.desc, buf))) ∧
    (∃ (id : Nat) (p : Pass) (m : Pin) (xf : Fmt) (wf : Fmt) (s : State),
      let sg := pinSegment m (fld p.desc 16 8)
      let off := fld p.desc 84 20 * 64
      let bs := flumeBytes p.res p.siltOut 0 sg.2
      passRuns s id = true ∧ tget s.passes id = some p ∧ p.st = .running ∧ p.attempt = 0 ∧ tget s.head.pins (fld p.desc 0 16) = some m ∧ fmtOfCode
        (fld p.desc 26 4) = some xf ∧ fmtOfCode m.fmt = some wf ∧ coreChecks s p.core = false ∧ (p.field = none → (getCore s p.core).port =
        BankPort.reset ∧ BanksApart s (((granOffs off bs.length).take 32).map (fun o => (spadBase p.core + o) / 64))) ∧ fld p.desc 24 2 = 0) ∧
    (∃ (id : Nat) (p : Pass) (m : Pin) (s : State), tget s.passes id = some p ∧ p.st = .verdictDue ∧ tget s.head.pins (fld p.desc 0 16) = some m ∧
      m.unpin = false ∧ p.siltOut = []) ∧
    (∃ (id : Nat) (p : Pass) (s : State), tget s.passes id = some p ∧ p.st ≠ .verdictDue) :=
  ⟨⟨5, 3 + 4 * 2 ^ 26, pin3, .e4m3, passing .done, by and_intros <;> decide +kernel⟩,
    ⟨5, 4, task5, seq9, live, by and_intros <;> first | decide +kernel | (unfold TaskRuns; decide +kernel)⟩,
    ⟨1, 0, [], { pass0 .queued with field := some 1 },
      { pooled (fun f => { f with queue := [0] }) with passes := [(0, { pass0 .queued with field := some 1 })] },
      by and_intros <;> first | decide +kernel | exact fun _ _ h => nomatch (show none = some _ from h)⟩,
    ⟨0, pass0 .filling, pin3, .e4m3, .e4m3, mreads live.mem sp5 (passInput (pass0 .filling).desc 128 .e4m3).2, passing .filling,
      by and_intros <;> first | decide +kernel | (unfold BanksApart; decide +kernel)⟩,
    ⟨0, pass0 .running, pin3, .e4m3, .e4m3, passing .running, by and_intros <;> first | decide +kernel | (unfold BanksApart; decide +kernel)⟩,
    ⟨0, pass0 .verdictDue, pin3, passing .verdictDue, by and_intros <;> decide +kernel⟩,
    ⟨0, pass0 .running, passing .running, by and_intros <;> decide +kernel⟩⟩

/-- States and operands that meet the hypotheses of each part of TransfersRun. -/
theorem witness_TransfersRun :
    (∃ (i : CoreId → DmaDesc → Instr) (op : Nat) (c : CoreId) (d : DmaDesc) (o : Nat) (n : Nat) (bs : List Byte) (s : State), (i, op) ∈
      [(Instr.dmaCopy, 1), (.dmaConvertingCopy, 2), (.dmaZeroFill, 3)] ∧ d.op.toNat % 16 = op ∧ coreRuns s c = true ∧ dmaOk d = true ∧ (dmaFields
      d).kind = 0 ∧ d.rows = 1 ∧ dmaDst s c d % 64 = 0 ∧ dmaRowBytes d = 64 * n ∧ n ≤ 32 ∧ dmaRowBlocks d = 0 ∧ dmaDenied s c d = none ∧ dmaGone s c d
      = false ∧ dmaSunk s c d = none ∧ dmaNeeds s c d = ([], []) ∧ s.upset = [] ∧ (getCore s c).dmaWait = [] ∧ (∀ x ∈ dmaReads s c d, x.2 ≠ 0 →
      ownGranule c (x.1 / 64) = true) ∧ placeOf (dmaDst s c d) = .spad c o ∧ (getCore s c).port = BankPort.reset ∧ (∀ g, furrowBusy s g = false) ∧
      BanksApart s ((List.range n).map (fun j => (spadBase c + o) / 64 + j)) ∧ o + 64 * n ≤ spadBytes ∧ bs = (dmaRow s c d (taskSeed s c) 0).bytes ∧
      bs.length = 64 * n) ∧
    (∃ (d : DmaDesc) (s : State), s.upset = [] ∧ d.op.toNat % 16 = 3) ∧
    (∃ (c : CoreId) (d : DmaDesc) (s : State), d.op.toNat % 16 = 1 ∧ coreRuns s c = true ∧ dmaOk d = true ∧ (dmaFields d).kind = 1 ∧ (dmaFields
      d).isAdd = false ∧ d.rows = 1 ∧ dmaDenied s c d = none ∧ dmaGone s c d = false ∧ dmaSunk s c d = none ∧ dmaNeeds s c d = ([], []) ∧ (∀ a,
      placeOf (dmaSrc s c d 0) ≠ .hbm a) ∧ (getCore s c).dmaWait = [] ∧ NoneTouched s ∧ s.upset = []) ∧
    (∃ (i : CoreId → DmaDesc → Instr) (op : Nat) (c : CoreId) (k : Task) (q : Sequ) (s : State), (i, op) ∈ [(Instr.dmaCopy, 1), (.dmaConvertingCopy,
      2), (.dmaZeroFill, 3)] ∧ coreRuns s c = true ∧ TaskRuns s c k q) :=
  ⟨⟨Instr.dmaCopy, 1, 5, { dma0 1 0 sp5 with src := BitVec.ofNat 64 (sp5 + 4096) }, 0, 1, List.replicate 64 0, live,
      by and_intros <;> first | exact .head _ | exact .tail _ (.head _) | decide +kernel | exact fun _ => rfl | (unfold BanksApart; decide +kernel) | simp⟩,
    ⟨dma0 3 0 sp5, live, by and_intros <;> decide +kernel⟩,
    ⟨5, { dma0 1 1 0 with src := BitVec.ofNat 64 sp5 }, live,
      by and_intros <;> first | decide +kernel | exact fun a h => nomatch (show Place.spad 5 0 = Place.hbm a from h) | exact test_no_bank_is_touched⟩,
    ⟨Instr.dmaZeroFill, 3, 5, task5, seq9, live,
      by and_intros <;> first | exact .head _ | exact .tail _ (.head _) | decide +kernel | (unfold TaskRuns; decide +kernel) | simp⟩⟩

/-- States and operands that meet the hypotheses of each part of CoreSchedule. -/
theorem witness_CoreSchedule :
    (∃ (c : CoreId) (s : State), coreRuns s c = true ∧ injectionFull s c 0 = false) ∧
    (∃ (c : CoreId) (s : State), coreRuns s c = true ∧ injectionFull s c 0 = true) ∧
    (∃ (c : CoreId) (w : WaitFor) (k : Core) (s : State), waitReady s c = true ∧ waitTake s c w = some k ∧ (∀ n, (getCore s c).gate = some n →
      checksIn s c n = true)) ∧
    (∃ (c : CoreId) (w : WaitFor) (s : State), waitReady s c = true ∧ (waitTake s c w = none ∨ ∃ n, (getCore s c).gate = some n ∧ checksIn s c n =
      false)) ∧
    (∃ (c : CoreId) (i : Nat) (b : Nat) (n : Nat) (v : Window) (s : State), tget (getCore s c).wtok (i * 8 + b) = some n ∧ tget (getCore s c).wins i =
      some v) ∧
    (∃ (c : CoreId) (k : Task) (key : Nat) (p : Pipe) (s : State), coreRuns s c = true ∧ boundaryClear (getCore s c) = true ∧ (getCore s c).task =
      some k ∧ taskPipe s c = some (key, p)) ∧
    (∃ (c : CoreId) (s : State), coreRuns s c = true ∧ boundaryClear (getCore s c) = false) ∧
    (∃ (c : CoreId) (k : Task) (q : Sequ) (p : Pipe) (s : State), coreRuns s c = true ∧ boundaryClear (getCore s c) = true ∧ TaskRuns s c k q ∧ q.pipe
      = pipeKey k.prog k.pipe ∧ getPipe s q.pipe = some p ∧ p.cores = [(c : Nat)] ∧ p.queues.any (·.contains k.seq) = false) ∧
    (∃ (c : CoreId) (s : State), (getCore s c).ecc = 0) ∧
    (∃ (c : CoreId) (s : State),
      let longest := ((getCore s c).credit.map (·.cycles)).foldl max 0
      (rawReg s .coSchWaitLimit c).toNat < longest ∧ s.head.reload ≠ 2) ∧
    (∃ (c : CoreId) (s : State), (((getCore s c).credit.map (·.cycles)).foldl max 0 ≤ (rawReg s .coSchWaitLimit c).toNat ∨ s.head.reload = 2)) :=
  ⟨⟨5, live, by and_intros <;> decide +kernel⟩,
    ⟨5, full5, by and_intros <;> decide +kernel⟩,
    ⟨5, .freeToken 4 0 0, { core5 with owned := [4 * 256 * 8] }, at5 (fun k => { k with ftok := [((4 * 256 + 0) * 8 + 0, 1)] }),
      by and_intros <;> decide +kernel⟩,
    ⟨5, .writeToken 0 0, at5 (fun k => { k with credit := [⟨.token, 0⟩] }), by and_intros <;> decide +kernel⟩,
    ⟨5, 0, 0, 64, win0, at5 (fun k => { k with wtok := [(0, 64)] }), by and_intros <;> decide +kernel⟩,
    ⟨5, task5, 0, pipe0, live, by and_intros <;> decide +kernel⟩,
    ⟨5, at5 (fun k => { k with banks := [(0, bank0)] }), by and_intros <;> decide +kernel⟩,
    ⟨5, task5, seq9, pipe0, live, by and_intros <;> first | decide +kernel | (unfold TaskRuns; decide +kernel)⟩,
    ⟨5, live, by decide +kernel⟩,
    ⟨5, at5 (fun k => { k with credit := [⟨.commit, 2 ^ 32⟩] }), by and_intros <;> decide +kernel⟩,
    ⟨5, live, by decide +kernel⟩⟩

/-- States and operands that meet the hypotheses of each part of CoreCopies. -/
theorem witness_CoreCopies :
    (∃ (c : CoreId) (off : Nat) (pitch : Nat) (f : Fmt) (s : State),
      let offs := (List.range 64).map (fun i => off + i * pitch)
      coreRuns s c = true ∧ transposable f = true ∧ (∀ o ∈ offs, o < spadBytes) ∧ s.upset = [] ∧ (getCore s c).port.landed = [] ∧ (schedTouch s c
        false (offs.map (fun o => o / 64 * 64))).2 = true) ∧
    (∃ (c : CoreId) (off : Nat) (pitch : Nat) (f : Fmt) (k : Task) (q : Sequ) (s : State), coreRuns s c = true ∧ TaskRuns s c k q ∧ (transposable f =
      false ∨ ∃ i, i < 64 ∧ spadBytes ≤ off + i * pitch)) ∧
    (∃ (c : CoreId) (off : Nat) (s : State), coreRuns s c = true ∧ slotRange off = true ∧ (getCore s c).port.landed = [] ∧ (schedTouch s c true
      (granOffs off 8192)).2 = true) ∧
    (∃ (c : CoreId) (off : Nat) (s : State), coreRuns s c = true ∧ slotRange off = true ∧ s.upset = [] ∧ (getCore s c).port.landed = [] ∧ (schedTouch
      s c false (granOffs off 8192)).2 = true) ∧
    (∃ (i : CoreId → Fin 128 → Nat → Instr) (c : CoreId) (off : Nat) (k : Task) (q : Sequ) (s : State), i ∈ [Instr.maskSlotSpill, .maskSlotFill] ∧
      coreRuns s c = true ∧ slotRange off = false ∧ TaskRuns s c k q) ∧
    (∃ (c : CoreId) (s : State), coreRuns s c = true ∧ s.upset = [] ∧ (getCore s c).port.landed = [] ∧ (schedPass s c (ownOffs c (commitRanges s c))
      []).2 = true ∧ (∀ x ∈ commitRanges s c, (∃ o, placeOf x.off = .spad c o) ∧ taskAllows s c .rd x.off x.len = true ∧ siltIn s x.off x.len =
      false)) ∧
    (∃ (c : CoreId) (x : Range) (o : Nat) (g : Nat) (k : Task) (q : Sequ) (s : State), coreRuns s c = true ∧ s.upset = [] ∧ x.len ≠ 0 ∧ (getCore s
      c).port.landed = [] ∧ commitRanges s c = [x] ∧ placeOf x.off = .spad c o ∧ (schedPass s c (ownOffs c [x]) []).2 = true ∧ taskAllows s c .rd
      x.off x.len = true ∧ TaskRuns s c k q ∧ ((List.range ((x.off + x.len - 1) / 64 - x.off / 64 + 1)).map (x.off / 64 + ·)).find? (fun g => isSilt
      (granuleBytes s g)) = some g) ∧
    (∃ (c : CoreId) (x : Range) (k : Task) (q : Sequ) (s : State), coreRuns s c = true ∧ commitRanges s c = [x] ∧ taskAllows s c .rd x.off x.len =
      false ∧ TaskRuns s c k q) ∧
    (∃ (c : CoreId) (f : Fmt) (rows : Nat) (k : Nat) (off : Nat) (pitch : Nat) (po : Nat) (s : State), coreRuns s c = true ∧ s.upset = [] ∧ spadSpan
      po (8 * k) = true ∧ (∀ o ∈ tileOffs f rows k off pitch, o < spadBytes) ∧ (getCore s c).port.landed = [] ∧ (schedPass s c (tileOffs f rows k off
      pitch) (granOffs po (8 * k))).2 = true) ∧
    (∃ (c : CoreId) (f : Fmt) (k : Nat) (w : Nat) (left : Nat) (tile : Addr) (sf : Addr) (side : Addr) (s : State),
      let nb := if fmtBlock f = 0 then 0 else (k + fmtBlock f - 1) / fmtBlock f * w
      let n := if left = w then 8 * k + nb else 16 * k + nb
      coreRuns s c = true ∧ s.upset = [] ∧ taskAllows s c .rd tile.toNat (elemBytes f (k * w)) = true ∧ taskAllows s c .rd sf.toNat nb = true ∧
        taskAllows s c .wr side.toNat n = true ∧ (getCore s c).port.landed = [] ∧ (schedPass s c (ownOffs c [⟨tile.toNat, elemBytes f (k * w)⟩,
        ⟨sf.toNat, nb⟩]).eraseDups (ownOffs c [⟨side.toNat, n⟩])).2 = true ∧ ((∃ x o, placeOf side.toNat = .spad x o) ∨ (∃ x o, placeOf side.toNat =
        .pool x o) ∨ ∃ a, placeOf side.toNat = .hbm a)) ∧
    (∃ (c : CoreId) (f : Fmt) (k : Nat) (w : Nat) (tile : Addr) (a : Nat) (j : Task) (q : Sequ) (s : State), coreRuns s c = true ∧ elemBytes f (k * w)
      ≠ 0 ∧ placeOf tile.toNat = .hbm a ∧ corePart s c = none ∧ TaskRuns s c j q) :=
  ⟨⟨5, 0, 64, .e4m3, live, by and_intros <;> decide +kernel⟩,
    ⟨5, spadBytes - 63 * 64, 64, .e4m3, task5, seq9, live,
      by and_intros <;> first | decide +kernel | (unfold TaskRuns; decide +kernel) | exact Or.inr ⟨63, by decide⟩⟩,
    ⟨5, spadBytes - 8192, live, by and_intros <;> decide +kernel⟩,
    ⟨5, spadBytes - 8192, live, by and_intros <;> decide +kernel⟩,
    ⟨Instr.maskSlotSpill, 5, spadBytes - 8191, task5, seq9, live,
      by and_intros <;> first | exact .head _ | exact .tail _ (.head _) | decide +kernel | (unfold TaskRuns; decide +kernel) | simp⟩,
    ⟨5, committing sp5 live,
      by and_intros <;> first | decide +kernel | exact fun x hx => List.mem_singleton.mp (show x ∈ [(⟨sp5, 64⟩ : Range)] from hx) ▸ ⟨⟨0, by decide +kernel⟩, by decide +kernel, by decide +kernel⟩⟩,
    ⟨5, ⟨sp5, 64⟩, 0, sp5 / 64, task5, seq9, committing sp5 (withBytes live sp5 siltBytes),
      by and_intros <;> first | decide +kernel | (unfold TaskRuns; decide +kernel)⟩,
    ⟨5, ⟨0, 64⟩, task5, seq9, committing 0 (inHead live (fun h => { h with parts := [] })),
      by and_intros <;> first | decide +kernel | (unfold TaskRuns; decide +kernel)⟩,
    ⟨5, .e4m3, 2, 64, 0, 64, 4096, live, by and_intros <;> decide +kernel⟩,
    ⟨5, .e4m3, 128, 64, 32, BitVec.ofNat 48 sp5, BitVec.ofNat 48 (sp5 + 4096), BitVec.ofNat 48 (sp5 + 8192), live,
      by and_intros <;> first | decide +kernel | exact Or.inl ⟨5, 8192, by decide +kernel⟩⟩,
    ⟨5, .e4m3, 1, 1, 0, 0, task5, seq9, inHead live (fun h => { h with parts := [] }),
      by and_intros <;> first | decide +kernel | (unfold TaskRuns; decide +kernel)⟩⟩

/-- States and operands that meet the hypotheses of each part of ArraysAccumulate. -/
theorem witness_ArraysAccumulate :
    (∃ (i : CoreId → LoadOp → Instr) (trans : Bool) (c : CoreId) (op : LoadOp) (s : State),
      let gs := loadGranules s c op trans
      let mine := gs.filter (ownGranule c)
      let far := gs.filter (fun g => !ownGranule c g)
      (i, trans) ∈ [(Instr.weightLoadIssue, false), (.transposingLoadIssue, true)] ∧ loadRuns s c = true ∧ s.upset = [] ∧ loadShapeOk s c op trans =
        true ∧ loadEarly (getCore s c) op.half = false ∧ (∀ g ∈ gs, taskAllows s c .rd (g * 64) 64 = true) ∧ (far ≠ [] → injectionFull s c (vcOf
        .readReq (readPacket s c (far.headD 0))) = false) ∧ (getCore s c).port.landed = [] ∧ (schedCycles (releaseHold s c .injection) c (loadSched op
        mine)).2 = true) ∧
    (∃ (i : CoreId → LoadOp → Instr) (trans : Bool) (c : CoreId) (op : LoadOp) (k : Task) (q : Sequ) (s : State), (i, trans) ∈
      [(Instr.weightLoadIssue, false), (.transposingLoadIssue, true)] ∧ loadRuns s c = true ∧ TaskRuns s c k q ∧ loadShapeOk s c op trans = false) ∧
    (∃ (i : CoreId → LoadOp → Instr) (trans : Bool) (c : CoreId) (op : LoadOp) (g : Nat) (k : Task) (q : Sequ) (s : State), (i, trans) ∈
      [(Instr.weightLoadIssue, false), (.transposingLoadIssue, true)] ∧ loadRuns s c = true ∧ TaskRuns s c k q ∧ loadShapeOk s c op trans = true ∧
      loadEarly (getCore s c) op.half = false ∧ (loadGranules s c op trans).find? (fun g => !taskAllows s c .rd (g * 64) 64) = some g) ∧
    (∃ (i : CoreId → LoadOp → Instr) (trans : Bool) (c : CoreId) (op : LoadOp) (s : State),
      let gs := loadGranules s c op trans
      let far := gs.filter (fun g => !ownGranule c g)
      (i, trans) ∈ [(Instr.weightLoadIssue, false), (.transposingLoadIssue, true)] ∧ loadRuns s c = true ∧ loadShapeOk s c op trans = true ∧ loadEarly
        (getCore s c) op.half = false ∧ (∀ g ∈ gs, taskAllows s c .rd (g * 64) 64 = true) ∧ far ≠ [] ∧ injectionFull s c (vcOf .readReq (readPacket s
        c (far.headD 0))) = true) ∧
    (∃ (i : CoreId → LoadOp → Instr) (trans : Bool) (c : CoreId) (op : LoadOp) (s : State), (i, trans) ∈ [(Instr.weightLoadIssue, false),
      (.transposingLoadIssue, true)] ∧ (loadRuns s c = false ∨ (loadShapeOk s c op trans = true ∧ loadEarly (getCore s c) op.half = true))) ∧
    (∃ (c : CoreId) (op : StepOp) (s : State), ∃ w y,
      let key := stageKey op.twin op.half
      unitRuns s c op = true ∧ op.swap = true ∧ (∀ x ∈ (getCore s c).loads, x.op.half ≠ op.half) ∧ tget (getCore s c).shadow key = some w ∧ y ≠ key) ∧
    (∃ (c : CoreId) (op : StepOp) (l : LoadPend) (s : State) (n : TwinId), unitRuns s c op = true ∧ op.swap = true ∧ (getCore s c).loads = [l] ∧
      l.op.half = op.half ∧ l.need = [] ∧ n ≠ op.twin) ∧
    (∃ (c : CoreId) (op : StepOp) (s : State), unitRuns s c op = true ∧ op.swap = true ∧ ((∃ l, (getCore s c).loads = [l] ∧ l.op.half = op.half ∧
      l.need ≠ []) ∨ ((∀ x ∈ (getCore s c).loads, x.op.half ≠ op.half) ∧ tget (getCore s c).shadow (stageKey op.twin op.half) = none))) ∧
    (∃ (c : CoreId) (op : StepOp) (w : WTile) (b : Bank) (m : StepMode) (s : State),
      let bk := bankKey op.twin op.half op.bank
      let int := fmtIsInt w.fmt
      unitRuns s c op = true ∧ op.swap = false ∧ op.pair = false ∧ op.upset = [] ∧ s.upset = [] ∧ tget (getCore s c).active (stageKey op.twin op.half)
        = some w ∧ tget (getCore s c).banks bk = some b ∧ pairMode w.fmt op.xfmt = some m ∧ w.k = modeK m ∧ b.integer = int ∧ w.w ≤ 128 ∧ unitFits b
        op (unitRows m) = true ∧ otherMode (getCore s c) op w.fmt = false ∧ rowsThere s c op.src op.xfmt (unitRows m) w.k = true ∧ (getCore s
        c).port.landed = [] ∧ (schedTouch s c false (rowOffs op.src op.xfmt (unitRows m) w.k)).2 = true) ∧
    (∃ (c : CoreId) (op : StepOp) (w : WTile) (b : Bank) (m : StepMode) (s : State),
      let bk := bankKey op.twin op.half op.bank
      let int := fmtIsInt w.fmt
      unitRuns s c op = true ∧ op.swap = false ∧ op.pair = true ∧ s.upset = [] ∧ coreChecks s c = true ∧ tget (getCore s c).active (stageKey op.twin
        op.half) = some w ∧ tget (getCore s c).banks bk = some b ∧ pairMode w.fmt op.xfmt = some m ∧ w.k = modeK m ∧ b.integer = int ∧ w.w ≤ 128 ∧
        (w.chk.headD []).length ≤ 4 ∧ unitFits b op (unitRows m) = true ∧ otherMode (getCore s c) op w.fmt = false ∧ (getCore s c).port.landed = [] ∧
        (schedTouch s c false (granOffs op.sums (4 * w.k) ++ granOffs op.wsums (4 * w.k)).eraseDups).2 = true) ∧
    (∃ (c : CoreId) (op : StepOp) (w : WTile) (b : Bank) (k : Task) (q : Sequ) (s : State), unitRuns s c op = true ∧ op.swap = false ∧ tget (getCore s
      c).active (stageKey op.twin op.half) = some w ∧ tget (getCore s c).banks (bankKey op.twin op.half op.bank) = some b ∧ TaskRuns s c k q ∧
      (pairMode w.fmt op.xfmt = none ∨ ∃ m, pairMode w.fmt op.xfmt = some m ∧ unitFits b op (unitRows m) = true ∧ otherMode (getCore s c) op w.fmt =
      false ∧ op.pair = false ∧ rowsThere s c op.src op.xfmt (unitRows m) w.k = true ∧ (w.k ≠ modeK m ∨ b.integer ≠ fmtIsInt w.fmt))) ∧
    (∃ (c : CoreId) (op : StepOp) (s : State), op.swap = false ∧ (tget (getCore s c).active (stageKey op.twin op.half) = none ∨ tget (getCore s
      c).banks (bankKey op.twin op.half op.bank) = none ∨ ∃ w b m, tget (getCore s c).active (stageKey op.twin op.half) = some w ∧ tget (getCore s
      c).banks (bankKey op.twin op.half op.bank) = some b ∧ pairMode w.fmt op.xfmt = some m ∧ (unitFits b op (unitRows m) = false ∨ (op.pair = true ∧
      coreChecks s c = false)))) :=
  ⟨⟨Instr.weightLoadIssue, false, 5, loadOp0, live, by and_intros <;> first | exact .head _ | exact .tail _ (.head _) | decide +kernel | simp⟩,
    ⟨Instr.weightLoadIssue, false, 5, { loadOp0 with fmt := .fp32 }, task5, seq9, live,
      by and_intros <;> first | exact .head _ | exact .tail _ (.head _) | decide +kernel | (unfold TaskRuns; decide +kernel) | simp⟩,
    ⟨Instr.weightLoadIssue, false, 5, { loadOp0 with data := 0 }, 0, task5, seq9, inHead live (fun h => { h with parts := [] }),
      by and_intros <;> first | exact .head _ | exact .tail _ (.head _) | decide +kernel | (unfold TaskRuns; decide +kernel) | simp⟩,
    ⟨Instr.weightLoadIssue, false, 5, { loadOp0 with data := 0 }, full5,
      by and_intros <;> first | exact .head _ | exact .tail _ (.head _) | decide +kernel | simp⟩,
    ⟨Instr.transposingLoadIssue, true, 5, loadOp0, at5 (fun k => { k with loads := [load0] }),
      by and_intros <;> first | exact .head _ | exact .tail _ (.head _) | decide +kernel | simp⟩,
    ⟨5, { step0 with swap := true }, at5 (fun k => { k with shadow := [(0, tile0)] }), tile0, 1, by and_intros <;> decide +kernel⟩,
    ⟨5, { step0 with swap := true }, { load0 with need := [] }, at5 (fun k => { k with loads := [{ load0 with need := [] }] }), 1,
      by and_intros <;> decide +kernel⟩,
    ⟨5, { step0 with swap := true }, live, by and_intros <;> first | decide +kernel | exact Or.inr ⟨by decide +kernel, by decide +kernel⟩⟩,
    ⟨5, step0, tile0, { bank0 with rows := 2 }, .m8, tiled live, by and_intros <;> decide +kernel⟩,
    ⟨5, { step0 with pair := true }, tile0, { bank0 with rows := 2 }, .m8, tiled checked, by and_intros <;> decide +kernel⟩,
    ⟨5, { step0 with xfmt := .int8 }, tile0, { bank0 with rows := 2 }, task5, seq9, tiled live,
      by and_intros <;> first | decide +kernel | (unfold TaskRuns; decide +kernel)⟩,
    ⟨5, step0, live, by and_intros <;> first | decide +kernel | exact Or.inl (by decide +kernel)⟩⟩

/-- States and operands that meet the hypotheses of each part of TilesDrainAndCommit. -/
theorem witness_TilesDrainAndCommit :
    (∃ (c : CoreId) (tw : TwinId) (h : Half) (bank : Fin 2) (rows : Nat) (s : State), arrayRuns s c = true ∧ rows ≤ 512 ∧ (∀ g ∈ sharing h, ∀ b, tget
      (getCore s c).banks (bankKey tw g bank) = some b → b.free = true)) ∧
    (∃ (c : CoreId) (tw : TwinId) (h : Half) (bank : Fin 2) (rows : Nat) (s : State), (512 < rows ∨ ∃ g ∈ sharing h, ∃ b, tget (getCore s c).banks
      (bankKey tw g bank) = some b ∧ b.isOpen = true ∧ (b.final = false ∨ b.drained < b.rows))) ∧
    (∃ (c : CoreId) (tw : TwinId) (h : Half) (bank : Fin 2) (b : Bank) (s : State), arrayRuns s c = true ∧ tget (getCore s c).banks (bankKey tw h
      bank) = some b) ∧
    (∃ (c : CoreId) (op : DrainOp) (b : Bank) (s : State),
      let bk := bankKey op.twin op.half op.bank
      let n := min 2 (b.rows - b.drained)
      arrayRuns s c = true ∧ s.upset = [] ∧ tget (getCore s c).banks bk = some b ∧ b.final = true ∧ b.drained < b.rows ∧ (∀ i, i < n → rowDue s c
        op.half b (b.drained + i) = true) ∧ (b.drained = 0 → tget (getCore s c).staging bk = none) ∧ drainCtlOk op.epi = true) ∧
    (∃ (c : CoreId) (op : DrainOp) (b : Bank) (k : Task) (q : Sequ) (s : State),
      let bk := bankKey op.twin op.half op.bank
      arrayRuns s c = true ∧ TaskRuns s c k q ∧ tget (getCore s c).banks bk = some b ∧ b.final = true ∧ b.drained < b.rows ∧ (∀ i, i < min 2 (b.rows -
        b.drained) → rowDue s c op.half b (b.drained + i) = true) ∧ (b.drained = 0 → tget (getCore s c).staging bk = none) ∧ drainCtlOk op.epi =
        false) ∧
    (∃ (c : CoreId) (op : DrainOp) (s : State),
      let bk := bankKey op.twin op.half op.bank
      (tget (getCore s c).banks bk = none ∨ ∃ b, tget (getCore s c).banks bk = some b ∧ (b.final = false ∨ b.rows ≤ b.drained ∨ rowDue s c op.half b
        b.drained = false ∨ (b.drained = 0 ∧ (tget (getCore s c).staging bk).isSome = true)))) ∧
    (∃ (c : CoreId) (tw : TwinId) (h : Half) (bank : Fin 2) (off : Nat) (g : Staging) (f : Fmt) (s : State),
      let sk := bankKey tw h bank
      let bs := cover g.silt (packElems f ((List.range (halfWidth s c h)).map (fun n => tgetD g.main.els n 0)))
      retryRuns s c [.commit, .injection] = true ∧ productsEmpty s c = false ∧ tget (getCore s c).staging sk = some g ∧ g.src ≠ none ∧ (getCore s
        c).repeating = false ∧ (g.verdict = some true ∨ (g.verdict = none ∧ needsVerdict s c g = false)) ∧ g.rows = 1 ∧ fmtOfCode g.main.fmt = some f
        ∧ fmtBlock f = 0 ∧ g.second = none ∧ g.epi.pairOff = none ∧ g.epi.recordOff = none ∧ off + bs.length ≤ spadBytes ∧ (getCore s c).port.landed =
        [] ∧ (schedTouch s c true (granOffs off bs.length).eraseDups).2 = true) ∧
    (∃ (c : CoreId) (tw : TwinId) (h : Half) (bank : Fin 2) (dest : CommitDest) (g : Staging) (s : State),
      let sk := bankKey tw h bank
      let p := commitPart g (halfWidth s c h) g.main dest
      let ps := commitPackets s c g.main dest p.runs
      retryRuns s c [.commit, .injection] = true ∧ productsEmpty s c = false ∧ tget (getCore s c).staging sk = some g ∧ g.src ≠ none ∧ (getCore s
        c).repeating = false ∧ (g.verdict = some true ∨ (g.verdict = none ∧ needsVerdict s c g = false)) ∧ g.second = none ∧ g.epi.pairOff = none ∧
        g.epi.recordOff = none ∧ commitFits g.main dest p.runs = true ∧ commitRight s c dest p.runs = true ∧ commitWaits s c ps (commitRings s dest
        p.runs) = none ∧ (∀ off pitch so sp, dest ≠ .spad off pitch so sp)) ∧
    (∃ (c : CoreId) (tw : TwinId) (h : Half) (bank : Fin 2) (dest : CommitDest) (g : Staging) (why : Cause) (s : State),
      let p := commitPart g (halfWidth s c h) g.main dest
      retryRuns s c [.commit, .injection] = true ∧ productsEmpty s c = false ∧ tget (getCore s c).staging (bankKey tw h bank) = some g ∧ g.src ≠ none
        ∧ (getCore s c).repeating = false ∧ (g.verdict = some true ∨ (g.verdict = none ∧ needsVerdict s c g = false)) ∧ g.second = none ∧ commitFits
        g.main dest p.runs = true ∧ commitRight s c dest p.runs = true ∧ commitWaits s c (commitPackets s c g.main dest p.runs) (commitRings s dest
        p.runs) = some why) ∧
    (∃ (c : CoreId) (tw : TwinId) (h : Half) (bank : Fin 2) (g : Staging) (k : Task) (q : Sequ) (s : State), retryRuns s c [.commit, .injection] =
      true ∧ productsEmpty s c = false ∧ TaskRuns s c k q ∧ tget (getCore s c).staging (bankKey tw h bank) = some g ∧ g.src ≠ none ∧ (getCore s
      c).repeating = false ∧ (g.verdict = some true ∨ (g.verdict = none ∧ needsVerdict s c g = false)) ∧ g.second = none) ∧
    (∃ (c : CoreId) (tw : TwinId) (h : Half) (bank : Fin 2) (s : State), (∀ g, tget (getCore s c).staging (bankKey tw h bank) = some g → g.src = none
      ∨ (getCore s c).repeating = true ∨ g.verdict = some false ∨ (g.verdict = none ∧ needsVerdict s c g = true))) :=
  ⟨⟨5, 1, .right, 1, 512, live, by and_intros <;> first | decide +kernel | exact fun g _ b h => nomatch (show none = some b from h)⟩,
    ⟨5, 0, .whole, 0, 513, live, Or.inl (by decide)⟩,
    ⟨5, 0, .whole, 0, bank0, at5 (fun k => { k with banks := [(0, bank0)] }), by and_intros <;> decide +kernel⟩,
    ⟨5, drain0, { bank0 with final := true }, at5 (fun k => { k with banks := [(0, { bank0 with final := true })] }),
      by and_intros <;> decide +kernel⟩,
    ⟨5, { drain0 with epi := { epi0 with ctl := 0x30 } }, { bank0 with final := true }, task5, seq9, at5 (fun k =>
      { k with banks := [(0, { bank0 with final := true })] }), by and_intros <;> first | decide +kernel | (unfold TaskRuns; decide +kernel)⟩,
    ⟨5, drain0, live, by decide +kernel⟩,
    ⟨5, 0, .whole, 0, 0, staged (some true), .fp32, staging (staged (some true)), by and_intros <;> decide +kernel⟩,
    ⟨5, 0, .whole, 0, .remote 25 0 1 0 512 0 0, staged (some true), staging (staged (some true)), by and_intros <;> first | decide +kernel | nofun⟩,
    ⟨5, 0, .whole, 0, .remote 25 0 1 0 512 0 0, staged (some true), .injection, { full5 with cores := (staging (staged (some true))).cores },
      by and_intros <;> decide +kernel⟩,
    ⟨5, 0, .whole, 0, staged (some true), task5, seq9, staging (staged (some true)),
      by and_intros <;> first | decide +kernel | (unfold TaskRuns; decide +kernel)⟩,
    ⟨5, 0, .whole, 0, live, by decide +kernel⟩⟩

/-- States and operands that meet the hypotheses of each part of VerdictsAndRepeats. -/
theorem witness_VerdictsAndRepeats :
    (∃ (c : CoreId) (tw : TwinId) (h : Half) (bank : Fin 2) (g : Staging) (b : Bank) (s : State),
      let sk := bankKey tw h bank
      arrayRuns s c = true ∧ tget (getCore s c).staging sk = some g ∧ g.src = some b ∧ g.verdict = none ∧ needsVerdict s c g = true) ∧
    (∃ (c : CoreId) (tw : TwinId) (h : Half) (bank : Fin 2) (s : State), (∀ g, tget (getCore s c).staging (bankKey tw h bank) = some g → g.src = none
      ∨ g.verdict ≠ none ∨ needsVerdict s c g = false)) ∧
    (∃ (c : CoreId) (tw : TwinId) (h : Half) (bank : Fin 2) (g : Staging) (b : Bank) (s : State),
      let sk := bankKey tw h bank
      coreLive s c = true ∧ tget (getCore s c).staging sk = some g ∧ g.src = some b ∧ g.verdict = some false ∧ g.decided = false ∧ s.head.reload ≠ 2) ∧
    (∃ (c : CoreId) (tw : TwinId) (h : Half) (bank : Fin 2) (g : Staging) (s : State), coreLive s c = true ∧ tget (getCore s c).staging (bankKey tw h
      bank) = some g ∧ (getCore s c).repeating = true ∧ g.decided = true) ∧
    (∃ (c : CoreId) (tw : TwinId) (h : Half) (bank : Fin 2) (s : State), ((getCore s c).repeating = false ∨ tget (getCore s c).staging (bankKey tw h
      bank) = none)) ∧
    (∃ (c : CoreId) (tw : TwinId) (h : Half) (bank : Fin 2) (s : State), (∀ g, tget (getCore s c).staging (bankKey tw h bank) = some g → g.src = none
      ∨ g.verdict ≠ some false ∨ g.decided = true)) :=
  ⟨⟨5, 0, .whole, 0, staged none, bank0, { checked with cores := (staging (staged none)).cores }, by and_intros <;> decide +kernel⟩,
    ⟨5, 1, .left, 0, live, by decide +kernel⟩,
    ⟨5, 0, .whole, 0, staged (some false), bank0, staging (staged (some false)), by and_intros <;> decide +kernel⟩,
    ⟨5, 0, .whole, 0, { staged (some true) with decided := true }, at5 (fun k =>
      { k with staging := [(0, { staged (some true) with decided := true })], repeating := true }), by and_intros <;> decide +kernel⟩,
    ⟨5, 0, .whole, 0, live, by decide +kernel⟩,
    ⟨5, 0, .whole, 0, live, by decide +kernel⟩⟩

/-- States and operands that meet the hypotheses of each part of VectorElements. -/
theorem witness_VectorElements :
    (∃ (c : CoreId) (op : CvtOp) (ctl : Ctl) (s : State), coreRuns s c = true ∧ cvtCtl op = some ctl) ∧
    (∃ (c : CoreId) (op : CvtOp) (k : Task) (q : Sequ) (s : State), coreRuns s c = true ∧ cvtCtl op = none ∧ TaskRuns s c k q) :=
  ⟨⟨5, .narrow .b16 0x22, ⟨false, false, .stoch, .bf16⟩, lanes2, by and_intros <;> decide +kernel⟩,
    ⟨5, .narrow .b16 0x30, task5, seq9, live, by and_intros <;> first | decide +kernel | (unfold TaskRuns; decide +kernel)⟩⟩

/-- States and operands that meet the hypotheses of each part of VectorMemoryAndLanding. -/
theorem witness_VectorMemoryAndLanding :
    (∃ (c : CoreId) (f : VFmt) (off : Nat) (m : Fin 8) (s : State),
      let w := if is16 f then 2 else 4
      let es := activeEls (getCore s c) m (vcount f)
      coreRuns s c = true ∧ vecRange off 2048 = true ∧ s.upset = [] ∧ (getCore s c).port.landed = [] ∧ (schedTouch s c false (elGrans off (8 * w)
        es)).2 = true) ∧
    (∃ (c : CoreId) (src : Fmt) (f : VFmt) (second : Bool) (off : Nat) (sfOff : Nat) (m : Fin 8) (s : State),
      let bl := fmtBlock src
      let base := if is16 f ∧ second then 512 else 0
      let es := (List.range 512).filter (fun i => (vmask (getCore s c) m).getLsbD (base + i))
      let gs := (elGrans off (fmtWidth src) es ++ elGrans sfOff 8 (if bl = 0 then [] else (es.map (· / bl)).eraseDups)).eraseDups
      coreRuns s c = true ∧ cvtRange src off sfOff = true ∧ s.upset = [] ∧ (getCore s c).port.landed = [] ∧ (schedTouch s c false gs).2 = true) ∧
    (∃ (c : CoreId) (op : CStoreOp) (ctl : Ctl) (s : State),
      let k := getCore s c
      let base := if is16 op.fmt ∧ op.second then 512 else 0
      let on := fun (i : Nat) => (vmask k op.mask).getLsbD (base + i)
      coreRuns s c = true ∧ ctlOf op.ctl = some ctl ∧ cvtRange ctl.fmt op.off op.sfOff = true ∧ wholeBlocks ctl.fmt on = true ∧ (∀ o, op.pairOff =
        some o → vecRange o (8 * (pairStore k op).1) = true)) ∧
    (∃ (c : CoreId) (off : Nat) (k : Task) (q : Sequ) (s : State), coreRuns s c = true ∧ vecRange off 2048 = false ∧ TaskRuns s c k q) ∧
    (∃ (c : CoreId) (src : Fmt) (off : Nat) (sfOff : Nat) (k : Task) (q : Sequ) (s : State), coreRuns s c = true ∧ cvtRange src off sfOff = false ∧
      TaskRuns s c k q) ∧
    (∃ (c : CoreId) (op : CStoreOp) (k : Task) (q : Sequ) (s : State),
      let base := if is16 op.fmt ∧ op.second then 512 else 0
      coreRuns s c = true ∧ TaskRuns s c k q ∧ (ctlOf op.ctl = none ∨ ∃ ctl, ctlOf op.ctl = some ctl ∧ (cvtRange ctl.fmt op.off op.sfOff = false ∨
        wholeBlocks ctl.fmt (fun i => (vmask (getCore s c) op.mask).getLsbD (base + i)) = false))) ∧
    (∃ (els : List VEl), ∃ x, (els.map (·.e)).Nodup ∧ (∀ x ∈ els, x.e < 512 ∧ x.bits < 2 ^ 32) ∧ x ∈ els) ∧
    (∃ (els : List VEl), ∃ l, (els.map (·.e)).Nodup ∧ (∀ x ∈ els, x.e < 512 ∧ x.bits < 2 ^ 32) ∧ (∀ x ∈ els, x.e ≠ l)) ∧
    (∃ (c : Nat) (g : Nat) (s : State) (bs : List (Nat × Byte × Byte)), ∃ x, (getCore s c).port.landed = [] ∧ (schedTouch s c true [g * 64 - spadBase
      c]).2 = true ∧ (bs.map Prod.fst).Nodup ∧ x ∈ bs ∧ x.1 < 64) :=
  ⟨⟨5, .f32, spadBytes - 2048, 1, lanes2, by and_intros <;> decide +kernel⟩,
    ⟨5, .mxfp4, .f32, false, 0, spadBytes - 64, 1, live, by and_intros <;> decide +kernel⟩,
    ⟨5, cstore0, ctl32, lanes2, by and_intros <;> decide +kernel⟩,
    ⟨5, spadBytes - 2047, task5, seq9, live, by and_intros <;> first | decide +kernel | (unfold TaskRuns; decide +kernel)⟩,
    ⟨5, .mxfp4, 0, spadBytes - 63, task5, seq9, live, by and_intros <;> first | decide +kernel | (unfold TaskRuns; decide +kernel)⟩,
    ⟨5, { cstore0 with ctl := 0x30 }, task5, seq9, lanes2, by and_intros <;> first | decide +kernel | (unfold TaskRuns; decide +kernel)⟩,
    ⟨[⟨0, 1, false⟩, ⟨511, 2, false⟩], (⟨511, 2, false⟩ : VEl),
      by and_intros <;> first | exact .head _ | exact .tail _ (.head _) | decide +kernel | simp⟩,
    ⟨[⟨0, 1, false⟩, ⟨511, 2, false⟩], 5, by and_intros <;> decide +kernel⟩,
    ⟨5, sp5 / 64, live, [(0, 1, 0xFF)], ((0, 1, 0xFF) : Nat × Byte × Byte), by and_intros <;> decide +kernel⟩⟩

/-- States and operands that meet the hypotheses of each part of ReductionsFold. -/
theorem witness_ReductionsFold :
    (∃ (i : CoreId → RedOp → Instr) (sq : Bool) (c : CoreId) (s : State), (i, sq) ∈ [(Instr.reduceSum, false), (.reduceSumOfSquares, true)] ∧ coreRuns
      s c = true) ∧
    (∃ (i : CoreId → RedOp → Instr) (mx : Bool) (c : CoreId) (s : State), (i, mx) ∈ [(Instr.reduceMax, true), (.reduceMin, false)] ∧ coreRuns s c =
      true) :=
  ⟨⟨Instr.reduceSum, false, 5, lanes2, by and_intros <;> first | exact .head _ | exact .tail _ (.head _) | decide +kernel | simp⟩,
    ⟨Instr.reduceMax, true, 5, lanes2, by and_intros <;> first | exact .head _ | exact .tail _ (.head _) | decide +kernel | simp⟩⟩

/-- States and operands that meet the hypotheses of each part of ArgmaxIndexes. -/
theorem witness_ArgmaxIndexes :
    (∃ (c : CoreId) (s : State), coreRuns s c = true) ∧
    (∃ (x : FV) (y : FV), x.isNaN = false ∧ y.isNaN = false ∧ x.lt y = false ∧ y.lt x = false) :=
  ⟨⟨5, lanes2, by decide +kernel⟩,
    ⟨.num false 1 0, .num false 1 0, by and_intros <;> decide +kernel⟩⟩

/-- States and operands that meet the hypotheses of each part of NumberFormats. -/
theorem witness_NumberFormats :
    (∃ (f : Fmt) (x : Nat), (f = .mxfp6 ∨ f = .mxfp4 ∨ f = .mxint8) ∧ x < 255) ∧
    (∃ (k : Ctl) (r : Nat) (v : FV) (n : Bool) (m : Nat) (e : Int), k.fmt = .mxint8 ∧ v = .num n m e ∧ 127 < roundMag k.rnd r m e (-6)) ∧
    (∃ (k : Ctl), k.fmt = .fp32) ∧
    (∃ (k : Ctl), k.fmt = .bf16) ∧
    (∃ (k : Ctl), k.fmt = .fp16) ∧
    (∃ (k : Ctl), k.fmt = .e4m3) ∧
    (∃ (k : Ctl), k.fmt = .e5m2) ∧
    (∃ (k : Ctl), k.fmt = .g12) ∧
    (∃ (k : Ctl) (vs : List FV), (k.fmt = .mxfp6 ∨ k.fmt = .mxfp4 ∨ k.fmt = .mxint8) ∧ FV.nan ∈ vs) ∧
    (∃ (w : W32), (fp32Val w).isNaN = true) ∧
    (∃ (acc : FV) (ps : List (FV × FV)), (acc = .nan ∨ ∃ p ∈ ps, p.1 = .nan ∨ p.2 = .nan)) :=
  ⟨⟨.mxfp4, 254, by and_intros <;> decide +kernel⟩,
    ⟨⟨false, false, .rne, .mxint8⟩, 0, .num true 127 0, true, 127, 0, by and_intros <;> decide +kernel⟩,
    ⟨ctl32, by decide +kernel⟩,
    ⟨{ ctl32 with fmt := .bf16 }, by decide +kernel⟩,
    ⟨{ ctl32 with fmt := .fp16 }, by decide +kernel⟩,
    ⟨{ ctl32 with fmt := .e4m3 }, by decide +kernel⟩,
    ⟨{ ctl32 with fmt := .e5m2 }, by decide +kernel⟩,
    ⟨{ ctl32 with fmt := .g12 }, by decide +kernel⟩,
    ⟨{ ctl32 with fmt := .mxint8 }, [.nan], by and_intros <;> decide +kernel⟩,
    ⟨0x7FC00001, by decide +kernel⟩,
    ⟨.nan, [], by decide +kernel⟩⟩

/-- States and operands that meet the hypotheses of each part of FlitsAndReplays. -/
theorem witness_FlitsAndReplays :
    (∃ (f : RxFlit) (s : State), linkUp s = true ∧ f.fec ≠ .failed ∧ f.crc.toNat = crc32 f ∧ f.kind = .payload ∧ f.fseq.toNat = (s.bv.rxSeq + 1) %
      1024) ∧
    (∃ (f : RxFlit) (s : State), linkUp s = true ∧ (f.fec = .failed ∨ f.crc.toNat ≠ crc32 f)) ∧
    (∃ (ack : BitVec 10) (pre : List Nat) (post : List Nat) (s : State), s.bv.kept = pre ++ ack.toNat :: post ∧ ack.toNat ∉ pre) ∧
    (∃ (s : State), s.boot.bvState = 6) ∧
    (∃ (s : State), s.boot.bvState ≠ 6) ∧
    (∃ (s : State), 2 ≤ s.boot.phase ∧ (getRegion s 77).out = true ∧ s.clk.refPresent = true ∧ companionUp s = false ∧ s.boot.bvTries < 3) :=
  ⟨⟨flit0, inBv live (fun b => { b with kept := [1, 2, 3], rxSeq := 0 }), by and_intros <;> decide +kernel⟩,
    ⟨flit1, live, by and_intros <;> decide +kernel⟩,
    ⟨2, [1], [3], inBv live (fun b => { b with kept := [1, 2, 3], rxSeq := 0 }), by and_intros <;> decide +kernel⟩,
    ⟨inBoot (inBv live (fun b => { b with kept := [3] })) (fun b => { b with bvState := 6 }), by decide +kernel⟩,
    ⟨live, by decide +kernel⟩,
    ⟨inBoot (inBv live (fun b => { b with kept := [3] })) (fun b => { b with bvState := 1, bvTries := 2 }), by and_intros <;> decide +kernel⟩⟩

/-- States and operands that meet the hypotheses of each part of CompanionReadsAndLines. -/
theorem witness_CompanionReadsAndLines :
    (∃ (line : BitVec 42) (idx : Nat) (x : W32) (s : State), linkUp s = true ∧ line.toNat / 2 ^ 38 = 2 ∧ idx ≤ 15 ∧ ctlRead (took s 0 1 1) (line.toNat
      % 2 ^ 38 * 64 + 4 * idx) = some x) ∧
    (∃ (line : BitVec 42) (idx : Nat) (s : State), linkUp s = true ∧ (line.toNat / 2 ^ 38 ≠ 2 ∨ 15 < idx)) ∧
    (∃ (i : BitVec 11 → BitVec 42 → Instr) (d : DirSt) (line : BitVec 42) (s : State),
      let g := line.toNat
      (i, d) ∈ [(Instr.rdShared, DirSt.shared), (.rdOwn, .modified)] ∧ linkUp s = true ∧ snoopOf s g = none ∧ s.upset = []) ∧
    (∃ (i : BitVec 11 → BitVec 42 → Instr) (line : BitVec 42) (x : Snoop) (s : State), i ∈ [Instr.rdShared, .rdOwn] ∧ snoopOf s line.toNat = some x) :=
  ⟨⟨2 ^ 39, 15, (ctlRead (took live 0 1 1) 60).getD 0, live, by and_intros <;> decide +kernel⟩,
    ⟨2 ^ 39, 16, live, by and_intros <;> decide +kernel⟩,
    ⟨Instr.rdOwn, DirSt.modified, 6, coherent id, by and_intros <;> first | exact .head _ | exact .tail _ (.head _) | decide +kernel | simp⟩,
    ⟨Instr.rdShared, 5, snoop5, coherent (fun b => { b with snoops := [snoop5] }),
      by and_intros <;> first | exact .head _ | exact .tail _ (.head _) | decide +kernel | simp⟩⟩

/-- States and operands that meet the hypotheses of each part of CompanionWrites. -/
theorem witness_CompanionWrites :
    (∃ (line : BitVec 42) (data : List Byte) (c : Nat) (off : Nat) (n : Nat) (g : Nat) (k : Core) (s : State), linkUp s = true ∧ placeOf (line.toNat *
      64) = .spad c off ∧ data.length = 64 * n ∧ 1 ≤ n ∧ n ≤ 8 ∧ sinkActive s c = false ∧ compAdmit s c (off / 64) n = .ok (g, k) ∧ g + n ≤ spadBytes
      / 64 ∧ (getCore s c).port = BankPort.reset ∧ BanksApart s ((List.range n).map (fun i => spadBase c / 64 + g + i)) ∧ (∀ x, furrowBusy s x =
      false)) ∧
    (∃ (line : BitVec 42) (data : List Byte) (c : Nat) (off : Nat) (n : Nat) (st : St) (s : State), linkUp s = true ∧ placeOf (line.toNat * 64) =
      .spad c off ∧ data.length = 64 * n ∧ 1 ≤ n ∧ n ≤ 8 ∧ sinkActive s c = false ∧ compAdmit s c (off / 64) n = .error st) ∧
    (∃ (c : Nat) (gran : Nat) (s : State), windowAt s c gran = none) ∧
    (∃ (line : BitVec 42) (s : State), linkUp s = true ∧ (∀ c off, placeOf (line.toNat * 64) ≠ .spad c off)) ∧
    (∃ (line : BitVec 42) (mask : W64) (data : List Byte) (c : Nat) (off : Nat) (g : Nat) (k : Core) (s : State), linkUp s = true ∧ placeOf
      (line.toNat * 64) = .spad c off ∧ mask ≠ 0 ∧ data.length = 64 ∧ sinkActive s c = false ∧ s.upset = [] ∧ compAdmit s c (off / 64) 1 = .ok (g, k)) ∧
    (∃ (line : BitVec 42) (mask : W64) (off : Nat) (w : Nat) (u : Nat) (e : Nat) (r : Reg) (s : State), linkUp s = true ∧ placeOf (line.toNat * 64) =
      .ctl off ∧ maskWord mask = some w ∧ Reg.ofAddr (off + 4 * w) = some (r, u, e) ∧ r ∈ [Reg.bsSpEvent, .coSchWaitLimit, .coVecEvent, .bsEccEvent,
      .hbEvent, .pwVset, .lkBvEvent]) :=
  ⟨⟨BitVec.ofNat 42 (sp5 / 64 + 56), List.replicate 512 1, 5, 3584, 8, 56, { core5 with wins := [(0, { win0 with kind := 3 })] }, at5 (fun k =>
      { k with wins := [(0, { win0 with kind := 3 })] }),
      by and_intros <;> first | decide +kernel | exact eq_ok (by decide +kernel) | (unfold BanksApart; decide +kernel) | exact fun _ => rfl⟩,
    ⟨BitVec.ofNat 42 (sp5 / 64), List.replicate 64 1, 5, 0, 1, St.windowViolation, live, by and_intros <;> first | decide +kernel | exact rfl⟩,
    ⟨5, 512, live, by decide +kernel⟩,
    ⟨0, live, by and_intros <;> first | decide +kernel | exact fun c off h => nomatch (show Place.hbm 0 = Place.spad c off from h)⟩,
    ⟨BitVec.ofNat 42 (sp5 / 64 + 63), 1, List.replicate 64 1, 5, 4032, 63, { core5 with wins := [(0, { win0 with kind := 3 })] }, at5 (fun k =>
      { k with wins := [(0, { win0 with kind := 3 })] }), by and_intros <;> first | decide +kernel | exact eq_ok (by decide +kernel)⟩,
    ⟨BitVec.ofNat 42 ((2 ^ 45 + Reg.coSchWaitLimit.addr 5 0) / 64), BitVec.ofNat 64 (15 * 2 ^ (4 * (Reg.coSchWaitLimit.addr 5 0 / 4 % 16))),
      Reg.coSchWaitLimit.addr 5 0 / 64 * 64, Reg.coSchWaitLimit.addr 5 0 / 4 % 16, 5, 0, .coSchWaitLimit, live, by and_intros <;> decide +kernel⟩⟩

/-- States and operands that meet the hypotheses of each part of SnoopsAndCompletions. -/
theorem witness_SnoopsAndCompletions :
    (∃ (tag : BitVec 11) (x : Snoop) (s : State), linkUp s = true ∧ s.bv.wait = [] ∧ s.bv.snoops.find? (fun y => y.tag == tag.toNat) = some x ∧ x.what
      = .probe ∧ NoWaiter s x.tag) ∧
    (∃ (line : BitVec 42) (x : Snoop) (s : State), snoopOf s line.toNat = some x ∧ x.sent + msCycles 1 ≤ hgNow s ∧ x.what = .probe ∧ NoWaiter s x.tag
      ∧ s.head.reload ≠ 2) ∧
    (∃ (line : BitVec 42) (s : State), (∀ x, snoopOf s line.toNat = some x → hgNow s < x.sent + msCycles 1)) ∧
    (∃ (tag : BitVec 11) (s : State), linkUp s = true ∧ s.bv.wait = [] ∧ (∀ r ∈ s.bv.reads, r.1 ≠ tag.toNat)) ∧
    (∃ (tag : BitVec 11) (r : Nat × Nat × Nat) (k : Task) (q : Sequ) (s : State), linkUp s = true ∧ s.bv.reads.find? (fun r => r.1 == tag.toNat) =
      some r ∧ TaskRuns s r.2.1 k q) ∧
    (∃ (tag : BitVec 11) (r : Nat × Nat × Nat) (s : State), linkUp s = true ∧ s.bv.wait = [] ∧ s.bv.reads.find? (fun r => r.1 == tag.toNat) = some r ∧
      NoWaiter s tag.toNat) :=
  ⟨⟨7, snoop5, coherent (fun b => { b with snoops := [snoop5] }), by and_intros <;> first | decide +kernel | (unfold NoWaiter; decide +kernel)⟩,
    ⟨5, snoop5, coherent (fun b => { b with snoops := [snoop5] }), by and_intros <;> first | decide +kernel | (unfold NoWaiter; decide +kernel)⟩,
    ⟨5, live, by decide +kernel⟩,
    ⟨7, inBv live (fun b => { b with writes := [(7, 4, 9)] }), by and_intros <;> decide +kernel⟩,
    ⟨7, (7, 5, 9), task5, seq9, inBv live (fun b => { b with reads := [(7, 5, 9)] }),
      by and_intros <;> first | decide +kernel | (unfold TaskRuns; decide +kernel)⟩,
    ⟨7, (7, 5, 9), inBv live (fun b => { b with reads := [(7, 5, 9)] }), by and_intros <;> first | decide +kernel | (unfold NoWaiter; decide +kernel)⟩⟩

/-- States and operands that meet the hypotheses of each part of EthernetPorts. -/
theorem witness_EthernetPorts :
    (∃ (p : PortId) (s : State),
      let v := getPort s p
      (getRegion s 76).out = true ∧ s.clk.refPresent = true ∧ s.boot.expected.testBit p = true ∧ v.st ≠ 0 ∧ v.st ≠ 3 ∧ v.st ≠ 5 ∧ v.tries < 4 ∧
        s.head.reload ≠ 2) ∧
    (∃ (p : PortId) (s : State), (getPort s p).st = 3 ∧ s.head.reload ≠ 2) ∧
    (∃ (p : PortId) (s : State), (getPort s p).st ≠ 3) ∧
    (∃ (p : PortId) (n : Nat) (v : Conn) (s : State), portUp s p = true ∧ n < 8192 ∧ getConn s n = some v ∧ connTarget s n = none) ∧
    (∃ (p : PortId) (n : Nat) (c : Nat) (index : Nat) (g : Nat) (data : List Byte) (v : Conn) (w : Window) (s : State),
      let off := if w.size < v.off + g then 0 else v.off
      portUp s p = true ∧ n < 8192 ∧ getConn s n = some v ∧ v.isOpen = true ∧ connTarget s n = some (c, 1, index) ∧ corePart s c = some v.part ∧
        data.length = 64 * g ∧ 0 < g ∧ sinkActive s c = false ∧ tget (getCore s c).wins index = some w ∧ w.isOpen = true ∧ w.wr = true ∧ srcAdmits s c
        w.kind w.srcId (.conn n) = true ∧ g ≤ w.size ∧ g ≤ 32 ∧ w.base + w.size ≤ spadBytes / 64 ∧ (getCore s c).port = BankPort.reset ∧ BanksApart s
        ((List.range g).map (fun i => spadBase c / 64 + (w.base + off) + i)) ∧ (∀ x, furrowBusy s x = false)) ∧
    (∃ (p : PortId) (n : Nat) (s : State), (portUp s p = false ∨ 8192 ≤ n)) ∧
    (∃ (n : Nat) (bytes : Nat) (part : Nat) (a : Addr) (s : State), bytes ≠ 0 ∧ n < 8192 ∧ ringFenced s n = false ∧ (∀ c, sendCore a.toNat = some c →
      coreRuns s c = true) ∧ sendPart s a.toNat n bytes = some part ∧ partAllows s part .exp a.toNat bytes = true ∧ connFree s n part = true ∧ s.upset
      = [] ∧ siltIn s a.toNat bytes = false) ∧
    (∃ (n : Nat) (bytes : Nat) (part : Nat) (c : Nat) (a : Addr) (k : Task) (q : Sequ) (s : State), bytes ≠ 0 ∧ n < 8192 ∧ ringFenced s n = false ∧
      sendCore a.toNat = some c ∧ coreRuns s c = true ∧ sendPart s a.toNat n bytes = some part ∧ TaskRuns s c k q) :=
  ⟨⟨2, inBoot (setPort live 2 { EthPort.reset with st := 1, addr := 2, tries := 3 }) (fun b => { b with expected := 4 }),
      by and_intros <;> decide +kernel⟩,
    ⟨2, live, by and_intros <;> decide +kernel⟩,
    ⟨2, setPort live 2 EthPort.reset, by decide +kernel⟩,
    ⟨2, 3, conn3, { live with conns := [(3, conn3)] }, by and_intros <;> decide +kernel⟩,
    ⟨2, 3, 5, 0, 32, List.replicate 2048 1, conn3, { win0 with kind := 2, srcId := 3 }, connected,
      by and_intros <;> first | decide +kernel | (unfold BanksApart; decide +kernel) | exact fun _ => rfl⟩,
    ⟨2, 8192, live, by decide +kernel⟩,
    ⟨8191, 64, 1, 0x1000, live, by and_intros <;> decide +kernel⟩,
    ⟨3, 64, 1, 5, BitVec.ofNat 48 sp5, task5, seq9, withBytes connected sp5 siltBytes,
      by and_intros <;> first | decide +kernel | (unfold TaskRuns; decide +kernel)⟩⟩

end Sys2Proof.Tests
end

section
/-!
PROOFS. The organisation of the model: every arm of `exec` answers.
-/
namespace Sys2Proof.Machine

/-- A command whose condition is not met leaves the state as it is (log entry 3), so its meaning tests inside the next state that it
answers, never outside it: after the split by command, the arm's meaning is `.next` of a state on every path. -/
theorem exec_answers_next (i : Instr) (s : State) : ∃ t, exec i s = .next t := by
  cases i <;> exact ⟨_, rfl⟩

/-- Settles O3, by the split over the commands. -/
theorem everyCommandAnswers : Obligations.EveryCommandAnswers := by
  unfold Obligations.EveryCommandAnswers
  exact exec_answers_next

end Sys2Proof.Machine
end

section
/-!
PROOFS. The schedule of a core: tokens, waits, fences, step boundaries and holds (04_tiling_schedules, R108-R112).
-/
namespace Sys2Proof.Machine

/-! ### Credit holds (R107, R108) -/

theorem credit_nil_of_coreRuns {s : State} {c : Nat} (h : coreRuns s c = true) : (getCore s c).credit = [] := by
  simp only [coreRuns, coreUnheld, Bool.and_eq_true] at h
  obtain ⟨-, -, hempty⟩ := h
  exact List.isEmpty_iff.1 hempty

theorem retryRuns_of_coreRuns {s : State} {c : Nat} (why : List Cause) (h : coreRuns s c = true) : retryRuns s c why = true := by
  have hc := credit_nil_of_coreRuns h
  simp only [coreRuns, coreUnheld, Bool.and_eq_true] at h
  obtain ⟨hlive, hecc, -⟩ := h
  simp [retryRuns, hc, hlive, hecc]

theorem onlyCore_setCore (s : State) (c : Nat) (k : Core) : OnlyCore s (setCore s c k) c := fun _ hd => getCore_setCore_ne s k hd

theorem onlyCore_modCore (s : State) (c : Nat) (f : Core → Core) : OnlyCore s (modCore s c f) c := fun _ hd => getCore_modCore_ne s f hd

theorem onlyCore_trans {s t u : State} {c : Nat} (h : OnlyCore s t c) (g : OnlyCore t u c) : OnlyCore s u c :=
  fun d hd => (g d hd).trans (h d hd)

/-- A hold for a cause is in force on its core, of which nothing else has changed. -/
theorem creditHold_holds (s : State) (c : Nat) (why : Cause) :
    (getCore (creditHold s c why) c).credit.any (·.cause = why) = true ∧
    getCore (creditHold s c why) c = { getCore s c with credit := (getCore (creditHold s c why) c).credit } ∧
    OnlyCore s (creditHold s c why) c ∧ creditHold s c why = { s with cores := (creditHold s c why).cores } := by
  refine ⟨?_, ?_, onlyCore_modCore s c _, rfl⟩
  · rw [creditHold, getCore_modCore_self]
    split
    · assumption
    · simp
  · rw [creditHold, getCore_modCore_self]
    split <;> rfl

/-- The first hold of a core that runs is the only one. -/
theorem getCore_creditHold_of_coreRuns {s : State} {c : Nat} (why : Cause) (h : coreRuns s c = true) :
    getCore (creditHold s c why) c = { getCore s c with credit := [⟨why, 0⟩] } := by
  simp [creditHold, credit_nil_of_coreRuns h]

/-- A core that runs has no hold to release. -/
theorem getCore_releaseHold_of_coreRuns {s : State} {c : Nat} (why : Cause) (h : coreRuns s c = true) (d : Nat) :
    getCore (releaseHold s c why) d = getCore s d := by
  by_cases hd : d = c
  · subst hd
    have hc := credit_nil_of_coreRuns h
    rw [releaseHold, getCore_modCore_self, hc, List.filter_nil, ← hc]
  · exact onlyCore_modCore s c _ d hd

/-- No hold for the cause released is left on the core. -/
theorem releaseHold_released (s : State) (c : Nat) (why : Cause) :
    (getCore (releaseHold s c why) c).credit.any (·.cause = why) = false := by
  simp [releaseHold]

/-! ### Packets sent -/

/-- Packets have entered the canal behind the rest; beside them crossings have filled and output ports have taken them. -/
def Sent (s t : State) (out : List (PType × Packet)) : Prop :=
  t = { s with canal := s.canal ++ out, outs := t.outs, clk := { s.clk with crossings := t.clk.crossings } } ∧
  ∀ x, getCrossing t x = { getCrossing s x with fill := (getCrossing t x).fill }

theorem Sent.refl (s : State) : Sent s s [] := ⟨by simp, fun _ => rfl⟩

theorem Sent.trans {s t u : State} {xs ys : List (PType × Packet)} (h : Sent s t xs) (g : Sent t u ys) : Sent s u (xs ++ ys) := by
  obtain ⟨ht, htx⟩ := h
  obtain ⟨hu, hux⟩ := g
  refine ⟨?_, fun x => ?_⟩
  · calc u = { t with canal := t.canal ++ ys, outs := u.outs, clk := { t.clk with crossings := u.clk.crossings } } := hu
      _ = { s with canal := s.canal ++ (xs ++ ys), outs := u.outs, clk := { s.clk with crossings := u.clk.crossings } } := by
        rw [ht, ← List.append_assoc]
  · rw [hux x, htx x]

theorem Sent.elsewhere {s t : State} {out : List (PType × Packet)} (h : Sent s t out) : ElsewhereSent s t := by
  obtain ⟨ht, hx⟩ := h
  refine ⟨?_, hx, ?_, ?_, ?_, ?_, ?_⟩ <;> rw [ht]

/-- What a packet sent changes is its entry into the canal. -/
theorem sent_sendPkt (s : State) (t : PType) (p : Packet) : Sent s (sendPkt s t p) [(t, p)] := by
  obtain ⟨xs, outs, e⟩ := sendPkt_eq s t p
  refine ⟨by rw [e], fun x => ?_⟩
  unfold sendPkt
  split
  · rfl
  · exact (fifoPut_eq { s with canal := s.canal ++ [(t, p)] } _ _).2 x

theorem sent_sendAll (s : State) (t : PType) (ps : List Packet) : Sent s (sendAll s t ps) (ps.map (fun p => (t, p))) := by
  induction ps generalizing s with
  | nil => exact Sent.refl s
  | cons p ps ih => exact (sent_sendPkt s t p).trans (ih (sendPkt s t p))

/-! ### Tokens (R109, R161) -/

/-- The packet of every token travels on channel 0 (R260). -/
theorem vcOf_tokenPacket (s : State) (c : Nat) (op : TokenOp) : vcOf (tokenPacket s c op).1 (tokenPacket s c op).2 = 0 := by
  cases op <;> rfl

/-- A free token of a buffer that its window knows ends the count of bytes landed in it; another leaves the core as it is (R161). -/
theorem tokenSent_free (k : Core) (t i b : Nat) :
    (∀ w, tget k.wins i = some w → tokenSent k (.free t i b) = { k with wins := tput k.wins i { w with landed := tdel w.landed b } }) ∧
    (tget k.wins i = none → tokenSent k (.free t i b) = k) :=
  ⟨fun w hw => by simp only [tokenSent, hw], fun hw => by simp only [tokenSent, hw]⟩

theorem completes_tokenSend {c : CoreId} {op : TokenOp} {s : State} {P : State → Prop} (hr : coreRuns s c = true)
    (h : P (tokenSendOp s c op)) : Completes (.tokenSend c op) s P :=
  ⟨_, by simp only [exec, execTokenSend, retryRuns_of_coreRuns _ hr, if_true], h⟩

/-- A token that its injection port takes is sent, and its sender has done its part. -/
theorem tokenSendOp_sends {s : State} {c : Nat} (op : TokenOp) (hr : coreRuns s c = true) (hi : injectionFull s c 0 = false) :
    Sent (modCore (releaseHold s c .injection) c (fun k => tokenSent k op)) (tokenSendOp s c op) [tokenPacket s c op] ∧
    getCore (tokenSendOp s c op) c = tokenSent (getCore s c) op ∧ OnlyCore s (tokenSendOp s c op) c := by
  have hs : tokenSendOp s c op = sendPkt (modCore (releaseHold s c .injection) c (fun k => tokenSent k op))
      (tokenPacket s c op).1 (tokenPacket s c op).2 := by
    simp only [tokenSendOp, vcOf_tokenPacket, hi, Bool.false_eq_true, if_false]
  have hsent := sent_sendPkt (modCore (releaseHold s c .injection) c (fun k => tokenSent k op)) (tokenPacket s c op).1
    (tokenPacket s c op).2
  rw [← hs] at hsent
  have hcores : ∀ d, getCore (tokenSendOp s c op) d = getCore (modCore (releaseHold s c .injection) c (fun k => tokenSent k op)) d :=
    fun d => by rw [hsent.1]; rfl
  refine ⟨hsent, ?_, fun d hd => ?_⟩
  · rw [hcores, getCore_modCore_self, getCore_releaseHold_of_coreRuns _ hr]
  · rw [hcores, getCore_modCore_ne _ _ hd, getCore_releaseHold_of_coreRuns _ hr]

/-- R109, R161, R257, R260: a core with room at its injection port sends the token's packet, and does its part. -/
theorem tokenSend_sends (c : CoreId) (op : TokenOp) (s : State) (hr : coreRuns s c = true) (hi : injectionFull s c 0 = false) :
    Completes (.tokenSend c op) s fun u =>
      u.canal = s.canal ++ [tokenPacket s c op] ∧ getCore u c = tokenSent (getCore s c) op ∧ OnlyCore s u c ∧ ElsewhereSent s u ∧
      u = { s with cores := u.cores, canal := u.canal, outs := u.outs, clk := u.clk } := by
  obtain ⟨hsent, hcore, honly⟩ := tokenSendOp_sends op hr hi
  refine completes_tokenSend hr ⟨congrArg State.canal hsent.1, hcore, honly, hsent.elsewhere, ?_⟩
  rw [hsent.1]
  rfl

/-- R257: a core without room there is held. -/
theorem tokenSend_held (c : CoreId) (op : TokenOp) (s : State) (hr : coreRuns s c = true) (hi : injectionFull s c 0 = true) :
    Completes (.tokenSend c op) s fun u =>
      getCore u c = { getCore s c with credit := [⟨.injection, 0⟩] } ∧ OnlyCore s u c ∧ u = { s with cores := u.cores } := by
  have hop : tokenSendOp s c op = creditHold s c .injection := by simp only [tokenSendOp, vcOf_tokenPacket, hi, if_true]
  refine completes_tokenSend hr ?_
  rw [hop]
  exact ⟨getCore_creditHold_of_coreRuns .injection hr, onlyCore_modCore s c _, rfl⟩

/-! ### Waits and fences (R110, R111, R143) -/

theorem completes_waitPoint {c : CoreId} {w : WaitFor} {s : State} {P : State → Prop} (hr : waitReady s c = true)
    (h : P (waitOp s c w)) : Completes (.waitPoint c w) s P :=
  ⟨_, by simp only [exec, execWaitPoint, hr, if_true], h⟩

theorem completes_rowFence {c : CoreId} {a n : Nat} {s : State} {P : State → Prop} (hr : waitReady s c = true)
    (h : P (rowFenceOp s c a n)) : Completes (.rowFence c a n) s P :=
  ⟨_, by simp only [exec, execRowFence, hr, if_true], h⟩

/-- R110, R111: a wait whose token has come, at no boundary whose checks are owed, takes it. -/
theorem waitPoint_takes (c : CoreId) (w : WaitFor) (k : Core) (s : State) (hr : waitReady s c = true) (hw : waitTake s c w = some k)
    (hg : ∀ n, (getCore s c).gate = some n → checksIn s c n = true) : Completes (.waitPoint c w) s fun u =>
      getCore u c = { k with gate := none, credit := k.credit.filter (fun h => h.cause ≠ .token) } ∧ OnlyCore s u c ∧
      u = { s with cores := u.cores } := by
  have hop : waitOp s c w = releaseHold (setCore s c { k with gate := none }) c .token := by
    cases hn : (getCore s c).gate with
    | none => simp only [waitOp, hw, hn, Bool.false_eq_true, if_false]
    | some n => simp only [waitOp, hw, hn, hg n hn, Bool.not_true, Bool.false_eq_true, if_false]
  refine completes_waitPoint hr ?_
  rw [hop]
  exact ⟨by simp [releaseHold], onlyCore_trans (onlyCore_setCore s c _) (onlyCore_modCore _ c _), rfl⟩

/-- R110, R111: a wait whose token has not come, or at a boundary whose checks are owed, holds the core. -/
theorem waitPoint_held (c : CoreId) (w : WaitFor) (s : State) (hr : waitReady s c = true)
    (hw : waitTake s c w = none ∨ ∃ n, (getCore s c).gate = some n ∧ checksIn s c n = false) : Completes (.waitPoint c w) s fun u =>
      (getCore u c).credit.any (·.cause = .token) = true ∧
      getCore u c = { getCore s c with credit := (getCore u c).credit } ∧ OnlyCore s u c ∧ u = { s with cores := u.cores } := by
  have hop : waitOp s c w = creditHold s c .token := by
    cases ht : waitTake s c w with
    | none => simp only [waitOp, ht]
    | some k =>
      obtain hn | ⟨n, hn, hc⟩ := hw
      · simp [ht] at hn
      · simp only [waitOp, ht, hn, hc, Bool.not_false, if_true]
  refine completes_waitPoint hr ?_
  rw [hop]
  exact creditHold_holds s c .token

/-- R161: a write token is taken once the bytes that it tells of have landed. -/
theorem waitTake_writeToken (c : Nat) (i b n : Nat) (v : Window) (s : State) (ht : tget (getCore s c).wtok (i * 8 + b) = some n)
    (hv : tget (getCore s c).wins i = some v) : waitTake s c (.writeToken i b) =
      if tgetD v.landed b 0 = n then some { getCore s c with wtok := tdel (getCore s c).wtok (i * 8 + b) } else none := by
  simp only [waitTake, ht, hv, Option.map_some, Option.getD_some]

/-- R143: a fence holds the core just while a write into its range is on its way. -/
theorem rowFence_waits (c : CoreId) (a n : Nat) (s : State) (hr : waitReady s c = true) : Completes (.rowFence c a n) s fun u =>
      (getCore u c).credit.any (·.cause = .token) = !fenceClear s c a n ∧
      getCore u c = { getCore s c with credit := (getCore u c).credit } ∧ OnlyCore s u c ∧ u = { s with cores := u.cores } := by
  refine completes_rowFence hr ?_
  cases hf : fenceClear s c a n with
  | true =>
    simp only [rowFenceOp, hf, if_true]
    exact ⟨releaseHold_released s c .token, by simp [releaseHold], onlyCore_modCore s c _, rfl⟩
  | false =>
    simp only [rowFenceOp, hf, Bool.false_eq_true, if_false]
    exact creditHold_holds s c .token

/-! ### Sequences end -/

/-- The headgate and the cores alone have changed, and of the headgate not its telemetry. -/
def CoresAndHead (s t : State) : Prop := t = { s with cores := t.cores, head := { t.head with tel := s.head.tel } }

theorem CoresAndHead.refl (s : State) : CoresAndHead s s := rfl

theorem CoresAndHead.trans {s t u : State} (h : CoresAndHead s t) (g : CoresAndHead t u) : CoresAndHead s u :=
  Eq.trans g (congrArg (fun x : State => { x with cores := u.cores, head := { u.head with tel := x.head.tel } }) h)

theorem CoresAndHead.frame {s t : State} (h : CoresAndHead s t) : t = { s with cores := t.cores, head := t.head } :=
  Eq.trans h (congrArg (fun x : Head => { s with cores := t.cores, head := x }) (congrArg State.head h).symm)

theorem CoresAndHead.of_cores_seqs_pipes (s : State) (cores : Tab Core) (seqs : Tab Sequ) (pipes : Tab Pipe) :
    CoresAndHead s { s with head := { s.head with seqs := seqs, pipes := pipes }, cores := cores } := rfl

theorem CoresAndHead.foldl {α : Type} {r s : State} (f : State → α → State) (l : List α) (h : CoresAndHead r s)
    (hf : ∀ x a, CoresAndHead x (f x a)) : CoresAndHead r (l.foldl f s) := by
  induction l generalizing s with
  | nil => exact h
  | cons a l ih => exact ih (h.trans (hf s a))

/-- A map that keeps the keys of a table acts on its entries. -/
theorem tget_map_of_keys {α : Type} (f : Nat × α → Nat × α) (hf : ∀ e, (f e).1 = e.1) (t : Tab α) (k : Nat) :
    tget (t.map f) k = (tget t k).map (fun v => (f (k, v)).2) := by
  induction t with
  | nil => rfl
  | cons e t ih =>
    obtain ⟨j, v⟩ := e
    simp only [List.map_cons, tget, hf, ih]
    split
    · subst_vars; rfl
    · rfl

/-- A core of which a sequence's end stops the task (R315). -/
def taskStopped (q : Nat) (stop : Nat → Bool) (e : Nat × Core) : Core :=
  match e.2.task with
  | some t => if t.seq = q && stop e.1 then { e.2 with task := none, credit := [] } else e.2
  | none => e.2

theorem taskStopped_idle (q : Nat) (stop : Nat → Bool) {e : Nat × Core} (h : e.2.task = none) : taskStopped q stop e = e.2 := by
  simp only [taskStopped, h]

/-- The end of a sequence: it is gone, its tasks are stopped, its pipeline knows it no more, and its final completion is given. -/
theorem endSeqOn_eq {s : State} {q : Nat} {r : Sequ} (st : St) (detail : Nat) (stop : Nat → Bool) (hq : getSeq s q = some r) :
    ∃ pipes energy, endSeqOn s q st detail stop =
      postCpl { s with head := { s.head with seqs := tdel s.head.seqs q, pipes := pipes },
                       cores := s.cores.map (fun e => (e.1, taskStopped q stop e)) }
        ⟨r.ctx, r.tag, st.code, false, BitVec.ofNat 64 detail, 0, 0, energy, r.irq⟩ := by
  unfold endSeqOn
  rw [hq]
  exact ⟨_, _, rfl⟩

theorem endSeqOn_of_none {s : State} {q : Nat} (st : St) (detail : Nat) (stop : Nat → Bool) (hq : getSeq s q = none) :
    endSeqOn s q st detail stop = s := by
  simp only [endSeqOn, hq]

theorem coresAndHead_postCpl (s : State) (c : Cpl) : CoresAndHead s (postCpl s c) := by
  unfold postCpl
  split <;> rfl

@[simp] theorem postCpl_cores (s : State) (c : Cpl) : (postCpl s c).cores = s.cores := by
  unfold postCpl
  split <;> rfl

theorem coresAndHead_endSeqOn (s : State) (q : Nat) (st : St) (detail : Nat) (stop : Nat → Bool) :
    CoresAndHead s (endSeqOn s q st detail stop) := by
  cases hq : getSeq s q with
  | none => rw [endSeqOn_of_none st detail stop hq]; exact .refl s
  | some r =>
    obtain ⟨pipes, energy, e⟩ := endSeqOn_eq st detail stop hq
    rw [e]
    exact (CoresAndHead.of_cores_seqs_pipes s _ _ _).trans (coresAndHead_postCpl _ _)

/-- A core with no task stays as it is when a sequence ends. -/
theorem getCore_endSeqOn_idle {s : State} {c : Nat} (q : Nat) (st : St) (detail : Nat) (stop : Nat → Bool)
    (h : (getCore s c).task = none) : getCore (endSeqOn s q st detail stop) c = getCore s c := by
  cases hq : getSeq s q with
  | none => rw [endSeqOn_of_none st detail stop hq]
  | some r =>
    obtain ⟨pipes, energy, e⟩ := endSeqOn_eq st detail stop hq
    rw [e]
    simp only [getCore, tgetD, postCpl_cores] at h ⊢
    rw [tget_map_of_keys (fun e => (e.1, taskStopped q stop e)) (fun _ => rfl)]
    cases hk : tget s.cores c with
    | none => rfl
    | some k =>
      rw [hk] at h
      exact taskStopped_idle q stop (e := (c, k)) h

/-- The final completion of a sequence is due, and the sequence is gone (R315). -/
theorem endSeq_posts {s : State} {q : Nat} {r : Sequ} (st : St) (detail : Nat) (hq : getSeq s q = some r) (hl : s.head.reload ≠ 2) :
    getSeq (endSeq s q st detail) q = none ∧
    ∃ e, Posted (endSeq s q st detail) ⟨r.ctx, r.tag, st.code, false, BitVec.ofNat 64 detail, 0, 0, e, r.irq⟩ := by
  obtain ⟨pipes, energy, e⟩ := endSeqOn_eq st detail (fun _ => true) hq
  rw [endSeq, e, postCpl_eq]
  · exact ⟨tget_tdel_self s.head.seqs q, energy, _, rfl⟩
  · exact hl

/-! ### The end of a step and of a task (R111, R304) -/

/-- A step of a sequence has been counted, and in its partition's securing too. -/
def stepCounted (s : State) (q : Nat) (r : Sequ) (secure : Tab Secure) : State :=
  { s with head := { s.head with seqs := tput s.head.seqs q { r with done := r.done + 1 }, secure := secure } }

@[simp] theorem getPipe_setSeq (s : State) (q : Nat) (v : Sequ) (k : Nat) : getPipe (setSeq s q v) k = getPipe s k := rfl

/-- After a step is counted its sequence ends, or goes on. -/
theorem stepEnded_eq {s : State} {q : Nat} {r : Sequ} (hq : getSeq s q = some r) : ∃ secure,
    stepEnded s q =
      if r.steps ≤ r.done + 1 then endSeq (stepCounted s q r secure) q .ok (r.done + 1)
      else if r.cancel then endSeq (stepCounted s q r secure) q .cancelled (r.done + 1)
      else if clsShed s r.part r.cls then endSeq (stepCounted s q r secure) q .refusedAllotment (r.done + 1)
      else stepCounted s q r secure := by
  cases hsec : tget s.head.secure r.part with
  | none =>
    refine ⟨s.head.secure, ?_⟩
    simp only [stepEnded, hq, setSeq_head, hsec]
    rfl
  | some x =>
    cases hres : ((getPipe s r.pipe).map (·.reserved)).getD false with
    | true =>
      refine ⟨s.head.secure, ?_⟩
      simp only [stepEnded, hq, setSeq_head, getPipe_setSeq, hsec, hres, if_true]
      rfl
    | false =>
      refine ⟨tput s.head.secure r.part { x with cur := x.cur + 1 }, ?_⟩
      simp only [stepEnded, hq, setSeq_head, getPipe_setSeq, hsec, hres, Bool.false_eq_true, if_false]
      rfl

theorem coresAndHead_stepCounted (s : State) (q : Nat) (r : Sequ) (secure : Tab Secure) :
    CoresAndHead s (stepCounted s q r secure) := rfl

theorem stepEnded_of_none {s : State} {q : Nat} (hq : getSeq s q = none) : stepEnded s q = s := by
  simp only [stepEnded, hq]

/-- The end of a step is a counted step, after which the sequence may end. -/
theorem stepEnded_cases {s : State} {q : Nat} {r : Sequ} (hq : getSeq s q = some r) : ∃ secure,
    stepEnded s q = stepCounted s q r secure ∨ ∃ st, stepEnded s q = endSeq (stepCounted s q r secure) q st (r.done + 1) := by
  obtain ⟨secure, e⟩ := stepEnded_eq hq
  refine ⟨secure, ?_⟩
  rw [e]
  split
  · exact .inr ⟨_, rfl⟩
  · split
    · exact .inr ⟨_, rfl⟩
    · split
      · exact .inr ⟨_, rfl⟩
      · exact .inl rfl

theorem coresAndHead_stepEnded (s : State) (q : Nat) : CoresAndHead s (stepEnded s q) := by
  cases hq : getSeq s q with
  | none => rw [stepEnded_of_none hq]; exact .refl s
  | some r =>
    obtain ⟨secure, e | ⟨st, e⟩⟩ := stepEnded_cases hq <;> rw [e]
    · rfl
    · exact (coresAndHead_stepCounted s q r secure).trans (coresAndHead_endSeqOn _ q st _ _)

theorem getCore_stepEnded_idle {s : State} {c : Nat} (q : Nat) (h : (getCore s c).task = none) :
    getCore (stepEnded s q) c = getCore s c := by
  cases hq : getSeq s q with
  | none => rw [stepEnded_of_none hq]
  | some r =>
    obtain ⟨secure, e | ⟨st, e⟩⟩ := stepEnded_cases hq <;> rw [e]
    · rfl
    · exact getCore_endSeqOn_idle (s := stepCounted s q r secure) q st _ _ h

/-- R315: a sequence whose last step has ended completes with OK. -/
theorem stepEnded_last {s : State} {q : Nat} {r : Sequ} (hq : getSeq s q = some r) (hl : s.head.reload ≠ 2)
    (hd : r.steps ≤ r.done + 1) : getSeq (stepEnded s q) q = none ∧
      ∃ e, Posted (stepEnded s q) ⟨r.ctx, r.tag, St.ok.code, false, BitVec.ofNat 64 (r.done + 1), 0, 0, e, r.irq⟩ := by
  obtain ⟨secure, e⟩ := stepEnded_eq hq
  rw [e, if_pos hd]
  exact endSeq_posts (r := { r with done := r.done + 1 }) .ok (r.done + 1) (tget_tput_self _ _ _) hl

/-- R304: a sequence that nothing stops goes on, with one more step done. -/
theorem stepEnded_goes_on {s : State} {q : Nat} {r : Sequ} (hq : getSeq s q = some r) (hd : r.done + 1 < r.steps)
    (hc : r.cancel = false) (hs : clsShed s r.part r.cls = false) :
    getSeq (stepEnded s q) q = some { r with done := r.done + 1 } ∧ (stepEnded s q).head.cplDue = s.head.cplDue := by
  obtain ⟨secure, e⟩ := stepEnded_eq hq
  rw [e, if_neg (by omega), if_neg (by simp [hc]), if_neg (by simp [hs])]
  exact ⟨tget_tput_self _ _ _, rfl⟩

/-- An event changes nothing but the telemetry of the headgate. -/
theorem telemeter_withTel (s : State) (kind region : Nat) (part : Option Nat) (body : List Byte) :
    telemeter s kind region part body = { s with head := withTel s.head (telemeter s kind region part body).head } := by
  obtain ⟨_, _, _, _, _, _, e⟩ := telemeter_eq s kind region part body
  rw [e]
  rfl

/-- A senior record is telemetry. -/
theorem seniorRecord_eq (s : State) (r : Sequ) (start overs why : Nat) :
    ∃ h, seniorRecord s r start overs why = { s with head := withTel s.head h } := by
  unfold seniorRecord
  split
  · exact ⟨s.head, rfl⟩
  · exact ⟨_, telemeter_withTel _ _ _ _ _⟩

/-- The end of a senior sequence's task is recorded with its sequence and in the telemetry; no other task's is (R324). -/
theorem seniorEnd_eq (s : State) (c : Nat) (t : Task) : ∃ seqs h,
    seniorEnd s c t = { s with head := { withTel s.head h with seqs := seqs } } ∧
    ∀ r, getSeq s t.seq = some r → ∃ held, tget seqs t.seq = some { r with held := held } ∧ (r.cls ≠ 0 → held = r.held) := by
  unfold seniorEnd
  split
  · rename_i hq
    exact ⟨s.head.seqs, s.head, rfl, fun r hr => by simp [hq] at hr⟩
  · rename_i r hq
    split
    · exact ⟨s.head.seqs, s.head, rfl, fun x hx => ⟨x.held, hx, fun _ => rfl⟩⟩
    · rename_i hcls
      dsimp only
      obtain ⟨h, e⟩ := seniorRecord_eq (setSeq s t.seq { r with held := r.held ++
        [(t.stage, taskHeld s c, (getRegion s (coreRegion c)).spills - t.spills)] }) r r.startAt
        (4 * b2n (decide (t.budget < schedCount s c))) (if clockLow s r.part then 2 else 0)
      refine ⟨_, h, e, fun x hx => ?_⟩
      obtain rfl : r = x := Option.some.inj (hq.symm.trans hx)
      exact ⟨_, tget_tput_self _ _ _, fun hne => absurd hne hcls⟩

theorem collectFigures_eq (s : State) (c : Nat) (t : Task) :
    ∃ models, collectFigures s c t = { s with head := { s.head with models := models } } := by
  unfold collectFigures
  split
  · split
    · exact ⟨s.head.models, rfl⟩
    · split
      · exact ⟨s.head.models, rfl⟩
      · exact ⟨_, rfl⟩
  · exact ⟨s.head.models, rfl⟩

/-- The task of a core has ended: its figures are collected and its sequence has its record, and nothing else is done yet. -/
def TaskCleared (s u : State) (c : Nat) (t : Task) : Prop :=
  u = { s with cores := u.cores, head := { withTel s.head u.head with seqs := u.head.seqs, models := u.head.models } } ∧
  getCore u c = { getCore s c with task := none } ∧
  ∀ r, getSeq s t.seq = some r → ∃ held, getSeq u t.seq = some { r with held := held } ∧ (r.cls ≠ 0 → held = r.held)

/-- A core's task ends, and with the last of them the step of its sequence. -/
theorem taskEnd_eq {s : State} {c : Nat} {t : Task} (ht : (getCore s c).task = some t) : ∃ u, TaskCleared s u c t ∧
    taskEnd s c = if (getSeq u t.seq).isSome && !seqBusy u (pipeKey t.prog t.pipe) t.seq then stepEnded u t.seq else u := by
  obtain ⟨seqs, h, e, hheld⟩ := seniorEnd_eq s c t
  obtain ⟨models, e'⟩ := collectFigures_eq (seniorEnd s c t) c t
  rw [e] at e'
  refine ⟨modCore (collectFigures (seniorEnd s c t) c t) c (fun k => { k with task := none }), ⟨?_, ?_, ?_⟩, ?_⟩
  · rw [e, e']; rfl
  · rw [getCore_modCore_self, e, e']; rfl
  · rw [e, e']; exact hheld
  · simp only [taskEnd, ht]

/-- Beside its core's task the end of a task changes the headgate, and the tasks of other cores. -/
theorem taskEnd_frame {s : State} {c : Nat} {t : Task} (ht : (getCore s c).task = some t) :
    taskEnd s c = { s with cores := (taskEnd s c).cores, head := (taskEnd s c).head } ∧
    getCore (taskEnd s c) c = { getCore s c with task := none } := by
  obtain ⟨u, ⟨hu, hcore, -⟩, e⟩ := taskEnd_eq ht
  have hidle : (getCore u c).task = none := by rw [hcore]
  rw [e]
  split
  · refine ⟨(coresAndHead_stepEnded u t.seq).frame.trans ?_, (getCore_stepEnded_idle t.seq hidle).trans hcore⟩
    exact congrArg (fun x : State => { x with cores := (stepEnded u t.seq).cores, head := (stepEnded u t.seq).head }) hu
  · exact ⟨by rw [hu], hcore⟩

/-- A sequence is not busy on a pipeline of one core, when that core has no task and no task of it waits. -/
theorem seqBusy_alone {s : State} {c key q : Nat} {p : Pipe} (hp : getPipe s key = some p) (hc : p.cores = [c])
    (hq : p.queues.any (·.contains q) = false) (ht : (getCore s c).task = none) : seqBusy s key q = false := by
  simp only [seqBusy, hp, hc, hq, List.any_cons, List.any_nil, ht, Bool.or_self]

/-- R304, R315: the end of the task of a pipeline's one stage is the end of the step, after which the sequence completes or goes on. -/
theorem taskEnd_alone {s : State} {c : Nat} {k : Task} {q : Sequ} {p : Pipe} (hk : (getCore s c).task = some k)
    (hq : getSeq s k.seq = some q) (hl : s.head.reload ≠ 2) (hp : getPipe s (pipeKey k.prog k.pipe) = some p) (hc : p.cores = [c])
    (hn : p.queues.any (·.contains k.seq) = false) :
    (q.steps ≤ q.done + 1 → getSeq (taskEnd s c) k.seq = none ∧
      ∃ e, Posted (taskEnd s c) ⟨q.ctx, q.tag, St.ok.code, false, BitVec.ofNat 64 (q.done + 1), 0, 0, e, q.irq⟩) ∧
    (q.done + 1 < q.steps → q.cancel = false → clsShed s q.part q.cls = false →
      (∃ h, getSeq (taskEnd s c) k.seq = some { q with done := q.done + 1, held := h } ∧ (q.cls ≠ 0 → h = q.held)) ∧
      (taskEnd s c).head.cplDue = s.head.cplDue) := by
  obtain ⟨u, ⟨hu, hcore, hheld⟩, e⟩ := taskEnd_eq hk
  obtain ⟨held, hseq, hjunior⟩ := hheld q hq
  have hbusy : seqBusy u (pipeKey k.prog k.pipe) k.seq = false :=
    seqBusy_alone (by rw [hu]; exact hp) hc hn (by rw [hcore])
  rw [hseq, hbusy, Option.isSome_some, Bool.not_false, Bool.and_self, if_pos rfl] at e
  have hreload : u.head.reload = s.head.reload := by rw [hu]; rfl
  have hdue : u.head.cplDue = s.head.cplDue := by rw [hu]; rfl
  have hshed : clsShed u q.part q.cls = clsShed s q.part q.cls := by rw [hu]; rfl
  rw [e]
  refine ⟨fun hd => stepEnded_last (r := { q with held := held }) hseq (by rw [hreload]; exact hl) hd, fun hd hcn hs => ?_⟩
  obtain ⟨hnext, hsame⟩ := stepEnded_goes_on hseq hd hcn (hshed.trans hs)
  exact ⟨⟨held, hnext, hjunior⟩, hsame.trans hdue⟩

/-! ### Step boundaries (R111) -/

theorem completes_stepBoundaryCheck {c : CoreId} {s : State} {P : State → Prop} (hr : coreRuns s c = true)
    (hb : boundaryClear (getCore s c) = true) (h : P (boundaryPass s c)) : Completes (.stepBoundaryCheck c) s P :=
  ⟨_, by simp only [exec, execStepBoundaryCheck, boundaryOp, hr, hb, if_true], h⟩

/-- A core that has passed a boundary, its task not yet ended. -/
def boundaryCore (k : Core) (fresh : Nat) : Core :=
  { k with boundary := (k.boundary + 1) % 1024, gate := some k.boundary, samplePos := Config.sampleStart fresh }

/-- The checks of a boundary, one to every other stage. -/
def boundaryChecks (s : State) (c : Nat) (k : Task) (p : Pipe) : List (PType × Packet) :=
  (p.cores.filter (· ≠ c)).map (fun d =>
    (PType.check, mkPkt (taskCls s c) c d (coreStamp s c) 0 (k.pipe % 64 + 64 * ((getCore s c).boundary % 1024))))

/-- The passing of a boundary: its checks are sent, a sample position is drawn, the core has passed it, and its task ends. -/
theorem boundaryPass_eq {s : State} {c key : Nat} {k : Task} {p : Pipe} (hk : (getCore s c).task = some k)
    (hp : taskPipe s c = some (key, p)) : ∃ y, ElsewhereSent s y ∧
      y = { s with canal := s.canal ++ boundaryChecks s c k p, outs := y.outs, clk := y.clk, fresh := s.fresh + 1,
                   cores := tput s.cores c (boundaryCore (getCore s c) s.fresh) } ∧
      boundaryPass s c = taskEnd y c := by
  have hsent := sent_sendAll s .check ((p.cores.filter (· ≠ c)).map (fun d =>
    mkPkt (taskCls s c) c d (coreStamp s c) 0 (k.pipe % 64 + 64 * ((getCore s c).boundary % 1024))))
  rw [List.map_map] at hsent
  refine ⟨_, ?_, ?_, by simp only [boundaryPass, hk, hp]; rfl⟩
  · exact hsent.elsewhere
  · rw [hsent.1]; rfl

/-- R111, R304: a boundary sends one CHECK to every other stage, and ends the task. -/
theorem stepBoundaryCheck_passes (c : CoreId) (k : Task) (key : Nat) (p : Pipe) (s : State) (hr : coreRuns s c = true)
    (hb : boundaryClear (getCore s c) = true) (hk : (getCore s c).task = some k) (hp : taskPipe s c = some (key, p)) :
    Completes (.stepBoundaryCheck c) s fun t =>
      t.canal = s.canal ++ boundaryChecks s c k p ∧ getCore t c = { boundaryCore (getCore s c) s.fresh with task := none } ∧
      t.fresh = s.fresh + 1 ∧ t.mem = s.mem ∧ t.regs = s.regs ∧ EnginesSame s t ∧ ElsewhereSent s t := by
  obtain ⟨y, helse, hy, e⟩ := boundaryPass_eq hk hp
  have hcore : getCore y c = boundaryCore (getCore s c) s.fresh := by rw [hy]; exact tgetD_tput_self _ _ _ _
  obtain ⟨hframe, hend⟩ := taskEnd_frame (s := y) (c := c) (t := k) (by rw [hcore]; exact hk)
  refine completes_stepBoundaryCheck hr hb ?_
  rw [e]
  refine ⟨?_, hend.trans (by rw [hcore]), ?_⟩
  · rw [hframe, hy]
  · rw [hframe]
    exact ⟨by rw [hy], by rw [hy], by rw [hy], by rw [hy]; exact ⟨rfl, rfl, rfl, rfl⟩, helse⟩

/-- R304, R315: the boundary of a pipeline's one stage ends the step. -/
theorem stepBoundaryCheck_alone (c : CoreId) (k : Task) (q : Sequ) (p : Pipe) (s : State) (hr : coreRuns s c = true)
    (hb : boundaryClear (getCore s c) = true) (hk : TaskRuns s c k q) (hkey : q.pipe = pipeKey k.prog k.pipe)
    (hp : getPipe s q.pipe = some p) (hc : p.cores = [(c : Nat)]) (hn : p.queues.any (·.contains k.seq) = false) :
    Completes (.stepBoundaryCheck c) s fun t =>
      (q.steps ≤ q.done + 1 → getSeq t k.seq = none ∧
        ∃ e, Posted t ⟨q.ctx, q.tag, St.ok.code, false, BitVec.ofNat 64 (q.done + 1), 0, 0, e, q.irq⟩) ∧
      (q.done + 1 < q.steps → q.cancel = false → clsShed s q.part q.cls = false →
        (∃ h, getSeq t k.seq = some { q with done := q.done + 1, held := h } ∧ (q.cls ≠ 0 → h = q.held)) ∧
        t.head.cplDue = s.head.cplDue) := by
  obtain ⟨htask, hq, hl⟩ := hk
  rw [hkey] at hp
  obtain ⟨y, -, hy, e⟩ := boundaryPass_eq (key := pipeKey k.prog k.pipe) (p := p) htask (by simp only [taskPipe, htask, hp, Option.map_some])
  have hhead : y.head = s.head := by rw [hy]
  have hcore : getCore y c = boundaryCore (getCore s c) s.fresh := by rw [hy]; exact tgetD_tput_self _ _ _ _
  have hshed : clsShed y q.part q.cls = clsShed s q.part q.cls := by rw [hy]; rfl
  have halone := taskEnd_alone (s := y) (c := c) (k := k) (q := q) (p := p) (by rw [hcore]; exact htask)
    (by rw [getSeq, hhead]; exact hq) (by rw [hhead]; exact hl) (by rw [getPipe, hhead]; exact hp) hc hn
  rw [hhead, hshed, ← e] at halone
  exact completes_stepBoundaryCheck hr hb halone

/-- R111: a boundary stands nowhere else (log entry 73). -/
theorem stepBoundaryCheck_early (c : CoreId) (s : State) (hb : boundaryClear (getCore s c) = false) :
    Completes (.stepBoundaryCheck c) s fun t => t = s :=
  ⟨s, by simp only [exec, execStepBoundaryCheck, boundaryOp, hb, Bool.false_eq_true, if_false, ite_self], rfl⟩

/-! ### The rest of an ECC hold (R108) -/

theorem onlyRegs_setReg (s : State) (r : Reg) (u : Nat) (v : W32) (w : Nat) : OnlyRegs s (setReg s r u v w) [r] :=
  fun _ ha => tget_tput_ne _ _ _ (ha r (List.mem_singleton_self r) u w)

/-- R108: the rest of an ECC hold passes, and its cycles are counted. -/
theorem eccHoldEnd_counts (c : CoreId) (s : State) (he : (getCore s c).ecc ≠ 0) : Completes (.eccHoldEnd c) s fun t =>
    getCore t c = { getCore s c with ecc := 0 } ∧ OnlyCore s t c ∧
    rawReg t .coSchHoldEcc c = rawReg s .coSchHoldEcc c + BitVec.ofNat 32 (getCore s c).ecc ∧ OnlyRegs s t [.coSchHoldEcc] ∧
    t = { s with cores := t.cores, regs := t.regs } := by
  refine ⟨bump (modCore s c (fun k => { k with ecc := 0 })) .coSchHoldEcc c (getCore s c).ecc, ?_, ?_, ?_, ?_, ?_, rfl⟩
  · simp only [exec, execEccHoldEnd, eccEnd, he, if_false]
  · exact getCore_setCore_self s c { getCore s c with ecc := 0 }
  · exact onlyCore_setCore s c { getCore s c with ecc := 0 }
  · rw [rawReg_bump_self]; rfl
  · exact onlyRegs_setReg (modCore s c (fun k => { k with ecc := 0 })) .coSchHoldEcc c _ 0

theorem eccHoldEnd_unheld (c : CoreId) (s : State) (he : (getCore s c).ecc = 0) : Completes (.eccHoldEnd c) s fun t => t = s :=
  ⟨s, by simp only [exec, execEccHoldEnd, eccEnd, he, if_true], rfl⟩

/-! ### Credit holds beyond the wait limit (R112) -/

/-- The newest record is the one just added, outside a reload proper. -/
theorem telemeter_recorded {s : State} (kind region : Nat) (part : Option Nat) (body : List Byte) (hl : s.head.reload ≠ 2)
    (hb : 16 + body.length ≤ 0x1000000) : Recorded (telemeter s kind region part body) kind part body := by
  unfold telemeter Recorded
  rw [if_neg hl]
  obtain ⟨l, e⟩ := trimTel_append (s.head.tel ++ [_]).length s.head.tel
    ⟨s.head.telNext % 2 ^ 32, kind, region, (getRegion s region).count % 2 ^ 48, part, body⟩ hb
  dsimp only
  rw [e]
  exact ⟨_, List.getLast?_concat, rfl, rfl, rfl⟩

theorem eventBody_length (code status : Nat) (part : Option Nat) (unit detail : Nat) :
    (eventBody code status part unit detail).length = 16 := rfl

theorem coresAndHead_modCore (s : State) (c : Nat) (f : Core → Core) : CoresAndHead s (modCore s c f) := rfl

theorem coresAndHead_foldl_modCore (s : State) (f : Nat → Core → Core) (l : List Nat) :
    CoresAndHead s (l.foldl (fun s c => modCore s c (f c)) s) :=
  (CoresAndHead.refl s).foldl _ l (fun x c => coresAndHead_modCore x c (f c))

theorem coresAndHead_setPipe (s : State) (k : Nat) (v : Pipe) : CoresAndHead s (setPipe s k v) := rfl

theorem coresAndHead_haltPipe (s : State) (k : Nat) (st : St) : CoresAndHead s (haltPipe s k st) := by
  unfold haltPipe
  split
  · exact .refl s
  · exact (coresAndHead_setPipe s k _).foldl _ _ (fun x q => coresAndHead_endSeqOn x q st _ _)

theorem coresAndHead_restartPipe (s : State) (key : Nat) : CoresAndHead s (restartPipe s key) := by
  unfold restartPipe
  split
  · exact .refl s
  · rename_i p _
    have hfresh : CoresAndHead s (freshBoundaries s p.cores) := coresAndHead_foldl_modCore s _ p.cores
    dsimp only
    split
    · exact hfresh.trans (coresAndHead_foldl_modCore _ _ p.cores)
    · exact (hfresh.trans (coresAndHead_foldl_modCore _ _ p.cores)).trans (coresAndHead_setPipe _ key _)

/-- The longest credit hold of a core. -/
def longestHold (s : State) (c : Nat) : Nat := ((getCore s c).credit.map (·.cycles)).foldl max 0

/-- The report of a core's credit hold beyond the wait limit. -/
def stallReported (s : State) (c : Nat) : State :=
  report (setEvent s .coSchEvent c 0) 0x001C 0 (corePart s c) c (longestHold s c % 2 ^ 32) (coreRegion c)

/-- The report changes the event register and the telemetry. -/
theorem stallReported_eq (s : State) (c : Nat) : stallReported s c =
    { setEvent s .coSchEvent c 0 with head := withTel s.head (stallReported s c).head } :=
  telemeter_withTel _ _ _ _ _

theorem taskPipe_idle {s : State} {c : Nat} (h : (getCore s c).task = none) : taskPipe s c = none := by
  simp only [taskPipe, h]

/-- A credit hold beyond the wait limit is reported, after which its task's pipeline may restart (R375). -/
theorem stallOp_reports {s : State} {c : Nat} (hw : (rawReg s .coSchWaitLimit c).toNat < longestHold s c) (hl : s.head.reload ≠ 2) :
    CoresAndHead (stallReported s c) (stallOp s c) ∧ ((getCore s c).task = none → stallOp s c = stallReported s c) := by
  have hnot : ¬ (decide (longestHold s c ≤ (rawReg s .coSchWaitLimit c).toNat) || decide (s.head.reload = 2)) = true := by
    simp only [Bool.or_eq_true, decide_eq_true_eq]
    omega
  have hidle : (getCore s c).task = none → taskPipe (stallReported s c) c = none := fun h =>
    taskPipe_idle (by rw [stallReported_eq]; exact h)
  unfold stallOp
  dsimp only
  split
  · rename_i h
    exact absurd h hnot
  · split
    · exact ⟨.refl _, fun _ => rfl⟩
    · rename_i key p hpipe
      split
      · exact ⟨.refl _, fun _ => rfl⟩
      · exact ⟨(coresAndHead_haltPipe _ _ _).trans (coresAndHead_restartPipe _ _),
          fun h => absurd ((hidle h).symm.trans hpipe) (by simp)⟩

/-- R112: a credit hold beyond the wait limit is reported. -/
theorem stallReport_reports (c : CoreId) (s : State) (hw : (rawReg s .coSchWaitLimit c).toNat < longestHold s c)
    (hl : s.head.reload ≠ 2) : Completes (.stallReport c) s fun t =>
      (rawReg t .coSchEvent c).getLsbD 0 = true ∧ OnlyRegs s t [.coSchEvent] ∧
      Reported t 0x001C 0 (corePart s c) c (longestHold s c % 2 ^ 32) ∧ t.mem = s.mem ∧ EnginesSame s t ∧ Elsewhere s t ∧
      ((getCore s c).task = none → t.cores = s.cores) := by
  obtain ⟨hframe, hidle⟩ := stallOp_reports hw hl
  obtain ⟨r, hlast, hrecord⟩ : Reported (stallReported s c) 0x001C 0 (corePart s c) c (longestHold s c % 2 ^ 32) :=
    telemeter_recorded (s := setEvent s .coSchEvent c 0) 3 _ _ (eventBody 0x001C 0 (corePart s c) c (longestHold s c % 2 ^ 32)) hl
      (by rw [eventBody_length]; decide)
  have hy := stallReported_eq s c
  have hregs : (stallOp s c).regs = (setEvent s .coSchEvent c 0).regs := by rw [hframe, hy]
  have htel : (stallOp s c).head.tel = (stallReported s c).head.tel := by rw [hframe]
  refine ⟨stallOp s c, rfl, ?_, ?_, ⟨r, htel ▸ hlast, hrecord⟩, ?_, ?_, ?_, fun h => ?_⟩
  · rw [rawReg, hregs]
    simp [setEvent]
  · intro a ha
    rw [hregs]
    exact onlyRegs_setReg s .coSchEvent c _ 0 a ha
  · rw [hframe, hy]; rfl
  · rw [hframe, hy]; exact ⟨rfl, rfl, rfl, rfl⟩
  · rw [hframe, hy]; exact ⟨rfl, rfl, rfl, rfl, rfl, rfl⟩
  · rw [hidle h, hy]; rfl

theorem stallReport_quiet (c : CoreId) (s : State)
    (h : longestHold s c ≤ (rawReg s .coSchWaitLimit c).toNat ∨ s.head.reload = 2) : Completes (.stallReport c) s fun t => t = s := by
  refine ⟨stallOp s c, rfl, if_pos ?_⟩
  simpa only [longestHold, Bool.or_eq_true, decide_eq_true_eq] using h

/-- Settles O46: a lemma for each event of a core's schedule, from what the end of a task, a sequence and a step leaves alone. -/
theorem coreSchedule : Obligations.CoreSchedule := by
  unfold Obligations.CoreSchedule
  refine ⟨⟨fun c op s hr hi => ?_, tokenSend_held, waitPoint_takes, waitPoint_held, fun c => waitTake_writeToken c, rowFence_waits⟩,
    fun c k key p s hr hb hk hp => ?_, fun c s _ hb => stepBoundaryCheck_early c s hb, stepBoundaryCheck_alone, fun c s => ?_,
    eccHoldEnd_unheld, stallReport_reports, stallReport_quiet⟩
  · obtain ⟨u, hu, hcanal, hcore, hframe⟩ := tokenSend_sends c op s hr hi
    refine ⟨u, hu, ?_, ?_, ?_, hframe⟩
    · rintro t i b n rfl
      exact ⟨hcanal, hcore⟩
    · rintro t i b rfl
      obtain ⟨hwin, hnone⟩ := tokenSent_free (getCore s c) t i b
      exact ⟨hcanal, fun w hw => hcore.trans (hwin w hw), fun hw => hcore.trans (hnone hw)⟩
    · rintro t i n rfl
      exact ⟨hcanal, hcore⟩
  · obtain ⟨t, ht, hcanal, hcore, hframe⟩ := stepBoundaryCheck_passes c k key p s hr hb hk hp
    refine ⟨t, ht, hcanal, ?_, ?_, ?_, ?_, hframe⟩ <;> rw [hcore] <;> rfl
  · by_cases he : (getCore s c).ecc = 0
    · obtain ⟨t, ht, -⟩ := eccHoldEnd_unheld c s he
      exact ⟨t, ht, fun hne => absurd he hne⟩
    · obtain ⟨t, ht, h⟩ := eccHoldEnd_counts c s he
      exact ⟨t, ht, fun _ => h⟩

end Sys2Proof.Machine
end

section
/-!
PROOFS. The vector engine's element-wise instructions and the reduction unit (05_vector_reduction, R117-R127).
-/
namespace Sys2Proof.Machine

/-! ### An instruction that issues (R119, R120) -/

/-- A core that runs carries out what its command asks of it. -/
theorem completes_of_coreRuns {i : Instr} {s t : State} {c : Nat} {P : State → Prop}
    (he : exec i s = .next (if coreRuns s c then t else s)) (hr : coreRuns s c = true) (h : P t) : Completes i s P :=
  ⟨t, by rw [he, if_pos hr], h⟩

/-- The registers that count what a core's vector engine and reduction unit issue (Table VEC-5). -/
def issueCounters : List Reg := [.coVecIssued, .coRedIssued]

theorem addr_ne_of_issueCounter {r a : Reg} (u : Nat) (hr : r ∈ issueCounters)
    (ha : a ∈ [Reg.coSchCountLo, .coSchCountHi, .coVecEvent]) : a.addr u 0 ≠ r.addr u 0 := by
  simp only [issueCounters, List.mem_cons, List.not_mem_nil, or_false] at hr ha
  obtain rfl | rfl := hr <;> obtain rfl | rfl | rfl := ha <;> exact addr_ne_of_off u rfl (by decide)

/-- A word that is no half of the schedule counter leaves it as it stands. -/
theorem schedCount_setReg_ne {r : Reg} (s : State) (u : Nat) (v : W32) (hlo : Reg.coSchCountLo.addr u 0 ≠ r.addr u 0)
    (hhi : Reg.coSchCountHi.addr u 0 ≠ r.addr u 0) : schedCount (setReg s r u v) u = schedCount s u := by
  simp only [schedCount, rawReg_setReg_ne s v hlo, rawReg_setReg_ne s v hhi]

/-- An instruction of the core has been counted in `ctr` and has left its mark in event bits, metered events and sequence energies. -/
def Counted (ctr : Reg) (s t : State) (c : Nat) : Prop :=
  (∃ regs events seqs, t =
    { s with regs := regs, pow := { s.pow with events := events }, head := { s.head with seqs := seqs } }) ∧
  OnlyRegs s t [.coVecIssued, .coRedIssued, .coVecEvent] ∧ schedCount t c = schedCount s c ∧ rawReg t ctr c = rawReg s ctr c + 1

theorem counted_meterCore_bump {ctr : Reg} (hctr : ctr ∈ issueCounters) (s : State) (c lanes : Nat) :
    Counted ctr s (meterCore (bump s ctr c 1) c 5 lanes) c := by
  obtain ⟨events, seqs, e⟩ := meterCore_eq (bump s ctr c 1) c 5 lanes
  rw [e]
  refine ⟨⟨_, events, seqs, rfl⟩, fun a ha => ?_, ?_, rawReg_bump_self s ctr c 1⟩
  · exact onlyRegs_setReg s ctr c _ 0 a fun r hr u w => ha r (by rw [List.mem_singleton.1 hr]; exact List.mem_append_left [_] hctr) u w
  · exact schedCount_setReg_ne s c _ (addr_ne_of_issueCounter c hctr (by decide)) (addr_ne_of_issueCounter c hctr (by decide))

theorem Counted.setEventIf {ctr : Reg} {s t : State} {c : Nat} (hctr : ctr ∈ issueCounters) (h : Counted ctr s t c) (b : Bool)
    (n : Nat) : Counted ctr s (setEventIf b t .coVecEvent c n) c := by
  cases b with
  | false => exact h
  | true =>
    obtain ⟨⟨regs, events, seqs, rfl⟩, honly, hcount, hctrs⟩ := h
    refine ⟨⟨_, events, seqs, rfl⟩, fun a ha => ?_, ?_, ?_⟩
    · exact (onlyRegs_setReg _ .coVecEvent c _ 0 a fun r hr => ha r (by rw [List.mem_singleton.1 hr]; decide)).trans (honly a ha)
    · exact (schedCount_setReg_ne (r := .coVecEvent) _ c _ (addr_ne_of_off c rfl (by decide))
        (addr_ne_of_off c rfl (by decide))).trans hcount
    · exact (rawReg_setEvent_ne _ n (addr_ne_of_issueCounter c hctr (by decide)).symm).trans hctrs

theorem counted_vissue (s : State) (c lanes : Nat) : Counted .coVecIssued s (vissue s c lanes) c :=
  counted_meterCore_bump (by decide) s c lanes

theorem Counted.vevents {s t : State} {c : Nat} (h : Counted .coVecIssued s t c) (nan inf silt : Bool) :
    Counted .coVecIssued s (vevents t c nan inf silt) c :=
  ((h.setEventIf (by decide) nan 0).setEventIf (by decide) inf 1).setEventIf (by decide) silt 2

/-- One instruction has issued: its result is in flight and `ctr` has counted it. -/
def Issues (ctr : Reg) (s t : State) (c lat : Nat) (w : VWrite) : Prop :=
  VecDue s t c lat [w] ∧ rawReg t ctr c = rawReg s ctr c + 1

/-- A result put in flight by an instruction that has been counted. -/
theorem Counted.vdue {ctr : Reg} {s t : State} {c : Nat} (h : Counted ctr s t c) (lat : Nat) (w : VWrite) :
    Issues ctr s (vdue t c lat w) c lat w := by
  obtain ⟨⟨regs, events, seqs, rfl⟩, honly, hcount, hctr⟩ := h
  refine ⟨⟨?_, onlyCore_modCore _ c _, rfl, rfl, ⟨rfl, rfl, rfl, rfl⟩, ⟨rfl, rfl, rfl, rfl, rfl, rfl⟩, honly⟩, hctr⟩
  rw [Machine.vdue, getCore_modCore_self, hcount]
  rfl

/-! ### Element-wise instructions (R117, R121, R123, R131) -/

/-- The result of an element-wise function: its elements where the mask leaves them on. -/
theorem vmap_issues (s : State) (c : Nat) (f : VFmt) (d mask lat : Nat) (srcs : List VSrc) (fn : Core → Nat → FV) :
    Issues .coVecIssued s (vmap s c f d mask lat srcs fn) c lat
      (regWrite (!is16 f) d ((activeEls (getCore s c) mask (vcount f)).map (fun e =>
        ⟨e, vbits f (fn (getCore s c) e), srcs.any (fun x => srcSilt (getCore s c) f x e)⟩))) := by
  unfold vmap
  simp only [List.map_map]
  exact ((counted_vissue s c _).vevents _ _ _).vdue lat _

theorem vecInt_issues (s : State) (c lat : Nat) (fn : W32 → W32 → W32) (d : Nat) (a b : VSrc) (mask : Nat) :
    Issues .coVecIssued s (vecInt s c lat fn d a b mask) c lat
      (regWrite true d ((activeEls (getCore s c) mask 512).map (fun e =>
        ⟨e, (fn (w32 (srcBits (getCore s c) .i32 a e)) (w32 (srcBits (getCore s c) .i32 b e))).toNat,
          srcSilt (getCore s c) .i32 a e || srcSilt (getCore s c) .i32 b e⟩))) :=
  ((counted_vissue s c _).vevents _ _ _).vdue lat _

theorem vecPermute_issues (s : State) (c : Nat) (op : PermOp) (wide : Bool) (d : Nat) (a : VSrc) (mask : Nat) :
    Issues .coVecIssued s (vecPermute s c op wide d a mask) c 3
      (regWrite (permWide op wide) d ((activeEls (getCore s c) mask (if permWide op wide then 512 else 1024)).map (fun e =>
        ⟨e, (permEl (getCore s c) op (permWide op wide) a e).1, (permEl (getCore s c) op (permWide op wide) a e).2⟩))) :=
  ((counted_vissue s c _).vevents _ _ _).vdue 3 _

/-- The subtrahend of a transcendental function, which exp and exp2 alone take (R123). -/
theorem vecFn_issues (s : State) (c : Nat) (fn : TFn) (f : VFmt) (d : Nat) (a : VSrc) (sub : Option VSrc) (mask : Nat) :
    let k := getCore s c
    let y := if fn = .exp ∨ fn = .exp2 then sub else none
    Issues .coVecIssued s (vecFn s c fn f d a sub mask) c (tfnLatency fn)
      (regWrite (!is16 f) d ((activeEls k mask (vcount f)).map (fun e =>
        ⟨e, vbits f (tfn fn (match y with
            | some b => fsub (srcVal k f a e) (srcVal k f b e)
            | none => srcVal k f a e)), (a :: y.toList).any (fun z => srcSilt k f z e)⟩))) := by
  intro k y
  have hy : (if fn = .exp || fn = .exp2 then sub else none) = y := by
    simp only [y, Bool.or_eq_true, decide_eq_true_eq]
  unfold vecFn
  rw [hy]
  exact vmap_issues s c f d mask (tfnLatency fn) (a :: y.toList) _

/-! ### Compares, selects and masks -/

/-- What a compare, a select or a mask operation puts in flight. -/
def cmpWrite (k : Core) (op : CmpOp) (f : VFmt) (d : Nat) (a b : VSrc) (k1 k2 : Nat) : VWrite :=
  match op with
  | .kand => .mask d (vmask k k1 &&& vmask k k2) (BitVec.allOnes 1024)
  | .kor => .mask d (vmask k k1 ||| vmask k k2) (BitVec.allOnes 1024)
  | .knot => .mask d (~~~ vmask k k1) (BitVec.allOnes 1024)
  | .select => regWrite (!is16 f) d ((activeEls k k2 (vcount f)).map (fun e =>
      let x := if (vmask k k1).getLsbD e then a else b
      ⟨e, srcBits k f x e, srcSilt k f x e⟩))
  | op =>
    let es := activeEls k k1 (vcount f)
    .mask d (maskOf (es.filter (fun e => cmpHolds op (srcVal k f a e) (srcVal k f b e)))) (maskOf es)

theorem vecCompare_issues (s : State) (c : Nat) (op : CmpOp) (f : VFmt) (d : Nat) (a b : VSrc) (k1 k2 : Nat) :
    Issues .coVecIssued s (vecCompare s c op f d a b k1 k2) c 2 (cmpWrite (getCore s c) op f d a b k1 k2) := by
  cases op with
  | select => exact ((counted_vissue s c _).vevents _ _ _).vdue 2 _
  | _ => exact (counted_vissue s c _).vdue 2 _

/-- A compare writes the outcomes of the elements that its mask leaves on, and no other bit. -/
theorem cmpWrite_of_compare (k : Core) {op : CmpOp} (f : VFmt) (d : Nat) (a b : VSrc) (k1 k2 : Nat)
    (h : op ∈ [CmpOp.eq, .ne, .lt, .le, .unordered]) :
    cmpWrite k op f d a b k1 k2 = .mask d
      (maskOf ((activeEls k k1 (vcount f)).filter (fun e => cmpHolds op (srcVal k f a e) (srcVal k f b e))))
      (maskOf (activeEls k k1 (vcount f))) := by
  simp only [List.mem_cons, List.not_mem_nil, or_false] at h
  obtain rfl | rfl | rfl | rfl | rfl := h <;> rfl

/-! ### Register conversions -/

/-- Draws change the generators alone. -/
theorem takeDraws_due (k : Core) (stoch : Bool) (ps : List Nat) : (takeDraws k stoch ps).2.vec.due = k.vec.due := by
  cases stoch <;> rfl

/-- One element of a conversion's result, from its draw. -/
def cvtEl (k : Core) (op : CvtOp) (ctl : Ctl) (a b e draw : Nat) : VEl :=
  let fs := cvtFmts op
  let g := cvtFrom op a b e
  ⟨e, (encodeElem ctl draw (vval fs.1 (elBits k (!is16 fs.1) g.1 g.2))).bits, laneSilt k g.1 (laneOf (!is16 fs.1) g.2)⟩

/-- The draws of a conversion, and the core after them. -/
def cvtDraws (k : Core) (op : CvtOp) (ctl : Ctl) (a b mask : Nat) : List Nat × Core :=
  takeDraws k (ctl.rnd = .stoch) ((activeEls k mask (vcount (cvtFmts op).2)).map (fun e => (cvtFrom op a b e).2))

/-- A conversion's result goes in flight on the core that has drawn. -/
theorem vecConvert_issues (s : State) (c : Nat) {op : CvtOp} {ctl : Ctl} (d a b mask : Nat) (hc : cvtCtl op = some ctl) :
    let k := getCore s c
    let dr := cvtDraws k op ctl a b mask
    Issues .coVecIssued (setCore s c dr.2) (vecConvert s c op d a b mask) c 2
      (regWrite (!is16 (cvtFmts op).2) d (((activeEls k mask (vcount (cvtFmts op).2)).zip dr.1).map
        (fun x => cvtEl k op ctl a b x.1 x.2))) := by
  unfold vecConvert
  simp only [hc, List.map_map]
  exact ((counted_vissue _ c _).vevents _ _ _).vdue 2 _

/-- Without stochastic rounding nothing is drawn, and every element takes the draw 0. -/
theorem cvtDraws_of_not_stoch (k : Core) (op : CvtOp) {ctl : Ctl} (a b mask : Nat) (h : ctl.rnd ≠ .stoch) :
    cvtDraws k op ctl a b mask = ((activeEls k mask (vcount (cvtFmts op).2)).map (fun _ => 0), k) := by
  simp only [cvtDraws, takeDraws, h, decide_false, Bool.not_false, if_true, List.map_map]
  rfl

/-- A core put back as it was makes no difference to what is in flight. -/
theorem vecDue_of_setCore {s t : State} {c lat : Nat} {ws : List VWrite} (h : VecDue (setCore s c (getCore s c)) t c lat ws) :
    VecDue s t c lat ws := by
  obtain ⟨hcore, honly, hrest⟩ := h
  rw [getCore_setCore_self] at hcore
  exact ⟨hcore, onlyCore_trans (onlyCore_setCore s c _) honly, hrest⟩

theorem vecConvert_not_stoch (s : State) (c : Nat) {op : CvtOp} {ctl : Ctl} (d a b mask : Nat) (hc : cvtCtl op = some ctl)
    (h : ctl.rnd ≠ .stoch) : VecDue s (vecConvert s c op d a b mask) c 2
      [regWrite (!is16 (cvtFmts op).2) d ((activeEls (getCore s c) mask (vcount (cvtFmts op).2)).map
        (fun e => cvtEl (getCore s c) op ctl a b e 0))] := by
  have hdue := (vecConvert_issues s c d a b mask hc).1
  have hzip (es : List Nat) : es.zip (es.map (fun _ => 0)) = es.map (fun e => (e, 0)) := by
    simpa only [List.map_id, id_eq] using List.zip_map' (f := id) (g := fun _ => 0) (l := es)
  rw [cvtDraws_of_not_stoch _ _ _ _ _ h, hzip, List.map_map] at hdue
  exact vecDue_of_setCore hdue

/-- R120: whatever it draws, a conversion has one result in flight, to land after 2 counts. -/
theorem vecConvert_due (s : State) (c : Nat) {op : CvtOp} {ctl : Ctl} (d a b mask : Nat) (hc : cvtCtl op = some ctl) :
    let t := vecConvert s c op d a b mask
    (∃ w, (getCore t c).vec.due = (getCore s c).vec.due ++ [(schedCount s c + 2, w)]) ∧ t.mem = s.mem ∧ OnlyCore s t c ∧
    rawReg t .coVecIssued c = rawReg s .coVecIssued c + 1 := by
  obtain ⟨⟨hcore, honly, hmem, -⟩, hissued⟩ := vecConvert_issues s c d a b mask hc
  have hdraw : (getCore (setCore s c (cvtDraws (getCore s c) op ctl a b mask).2) c).vec.due = (getCore s c).vec.due := by
    rw [getCore_setCore_self, cvtDraws, takeDraws_due]
  exact ⟨⟨_, (congrArg (·.vec.due) hcore).trans (congrArg (· ++ _) hdraw)⟩, hmem,
    onlyCore_trans (onlyCore_setCore s c _) honly, hissued⟩

/-! ### A task ends with its sequence (R294, R308) -/

/-- The final completion of a sequence is due, whichever of its tasks stop at once. -/
theorem endSeqOn_posts {s : State} {q : Nat} {r : Sequ} (st : St) (detail : Nat) (stop : Nat → Bool) (hq : getSeq s q = some r)
    (hl : s.head.reload ≠ 2) : getSeq (endSeqOn s q st detail stop) q = none ∧
    ∃ e, Posted (endSeqOn s q st detail stop) ⟨r.ctx, r.tag, st.code, false, BitVec.ofNat 64 detail, 0, 0, e, r.irq⟩ := by
  obtain ⟨pipes, energy, e⟩ := endSeqOn_eq st detail stop hq
  rw [e, postCpl_eq]
  · exact ⟨tget_tdel_self s.head.seqs q, energy, _, rfl⟩
  · exact hl

/-- The cores alone have changed. -/
def CoresOnly (s t : State) : Prop := ∃ cores, t = { s with cores := cores }

theorem CoresOnly.modCore {r s : State} (c : Nat) (f : Core → Core) (h : CoresOnly r s) : CoresOnly r (modCore s c f) := by
  obtain ⟨cores, rfl⟩ := h
  exact ⟨_, rfl⟩

theorem CoresOnly.foldl {α : Type} {r s : State} (f : State → α → State) (l : List α) (h : CoresOnly r s)
    (hf : ∀ x a, CoresOnly r x → CoresOnly r (f x a)) : CoresOnly r (l.foldl f s) := by
  induction l generalizing s with
  | nil => exact h
  | cons a l ih => exact ih (hf s a h)

theorem coresOnly_releaseRings (s : State) (c : Nat) : CoresOnly s (releaseRings s c) := by
  have hrefl : CoresOnly s s := ⟨s.cores, rfl⟩
  unfold releaseRings
  exact .modCore c _ (hrefl.foldl _ _ fun x a h => h.modCore _ _)

/-- An instruction that ends its task's sequence changes the cores and the headgate, and no memory and no register. -/
theorem endTaskSeq_ends {s : State} {c : Nat} {k : Task} {q : Sequ} (st : St) (detail : Nat) (h : TaskRuns s c k q) :
    TaskEnds (endTaskSeq s c st detail) c k q st detail ∧ CoresAndHead s (endTaskSeq s c st detail) := by
  obtain ⟨htask, hseq, hload⟩ := h
  have he : endTaskSeq s c st detail = modCore (releaseRings (endSeqOn s k.seq st detail (· == c)) c) c
      (fun k => { k with task := none, credit := [] }) := by
    simp only [endTaskSeq, htask]
  obtain ⟨cores, hrings⟩ := coresOnly_releaseRings (endSeqOn s k.seq st detail (· == c)) c
  have hhead : (endTaskSeq s c st detail).head = (endSeqOn s k.seq st detail (· == c)).head := by
    rw [he, modCore_head, hrings]
  obtain ⟨hgone, e, l, hposted⟩ := endSeqOn_posts st detail (· == c) hseq hload
  refine ⟨⟨?_, ?_, e, l, hhead ▸ hposted⟩, ?_⟩
  · rw [getSeq, hhead]; exact hgone
  · rw [he, getCore_modCore_self]
  · refine (coresAndHead_endSeqOn s k.seq st detail (· == c)).trans ?_
    rw [he, hrings]
    rfl

/-- R46: a conversion whose control byte is reserved ends the task's sequence. -/
theorem vecConvert_reserved {s : State} {c : Nat} {op : CvtOp} {k : Task} {q : Sequ} (d a b mask : Nat) (hc : cvtCtl op = none)
    (h : TaskRuns s c k q) : TaskEnds (vecConvert s c op d a b mask) c k q .badCommand 0 ∧
      CoresAndHead s (vecConvert s c op d a b mask) := by
  have he : vecConvert s c op d a b mask = endTaskSeq s c .badCommand 0 := by simp only [vecConvert, hc]
  rw [he]
  exact endTaskSeq_ends .badCommand 0 h

/-- Settles O51: each class of instruction by what it puts in flight. -/
theorem vectorElements : Obligations.VectorElements := by
  unfold Obligations.VectorElements
  refine ⟨fun c op f d a b x m s hr => ?_, fun c mx f d a b m s hr => ?_, fun c op d a b m s hr => ?_, fun c d a b m s hr => ?_,
    fun c fn f d a sub m s hr => ?_, fun c op wide d a m s hr => ?_, fun c op f d a b k1 k2 s hr => ?_,
    fun c op d a b m ctl s hr hc => ?_, fun c op d a b m k q s hr hc ht => ?_⟩
  · exact completes_of_coreRuns rfl hr (vmap_issues s c f d m 4 (fopSrcs op a b x) _)
  · exact completes_of_coreRuns rfl hr (vmap_issues s c f d m 2 [a, b] _)
  · exact completes_of_coreRuns rfl hr (vecInt_issues s c 2 (iop op) d a b m)
  · exact completes_of_coreRuns rfl hr (vecInt_issues s c 4 (· * ·) d a b m)
  · exact completes_of_coreRuns rfl hr (vecFn_issues s c fn f d a sub m)
  · exact completes_of_coreRuns rfl hr (vecPermute_issues s c op wide d a m)
  · obtain ⟨hdue, hissued⟩ := vecCompare_issues s c op f d a b k1 k2
    refine completes_of_coreRuns rfl hr ⟨?_, ?_, ?_, ?_, fun h => ?_, hissued⟩
    · rintro rfl; exact hdue
    · rintro rfl; exact hdue
    · rintro rfl; exact hdue
    · rintro rfl; exact hdue
    · rw [cmpWrite_of_compare _ f d a b k1 k2 h] at hdue
      exact hdue
  · exact completes_of_coreRuns rfl hr ⟨vecConvert_not_stoch s c d a b m hc, vecConvert_due s c d a b m hc⟩
  · obtain ⟨hends, hframe⟩ := vecConvert_reserved d a b m hc ht
    exact completes_of_coreRuns rfl hr ⟨hends, by rw [hframe.frame], by rw [hframe.frame]⟩

/-! ### Reductions (R124-R127) -/

/-- A reduction has been counted, and its event bits stand. -/
theorem counted_reduction (s : State) (c lanes : Nat) (nan inf silt : Bool) :
    Counted .coRedIssued s (setEventIf silt (setEventIf inf (setEventIf nan (meterCore (bump s .coRedIssued c 1) c 5 lanes)
      .coVecEvent c 0) .coVecEvent c 1) .coVecEvent c 3) c := by
  have hctr : Reg.coRedIssued ∈ issueCounters := by decide
  exact (((counted_meterCore_bump hctr s c lanes).setEventIf hctr nan 0).setEventIf hctr inf 1).setEventIf hctr silt 3

/-- R124: a reduction replaces its accumulator or folds into what that will hold, and is readable after 8 counts. -/
theorem redIssue_issues (s : State) (c : Nat) (op : RedOp) (hiFloat : Bool) (fold : W32 × W32 → W32 × W32) (res : W32 × W32) :
    let k := getCore s c
    let now := accNow k op.acc
    Issues .coRedIssued s (redIssue s c op hiFloat fold res) c 8
      (if op.init then .acc op.acc res.1 res.2 (redSilt k op)
       else .acc op.acc (fold (now.1, now.2.1)).1 (fold (now.1, now.2.1)).2 (redSilt k op || now.2.2)) := by
  intro k now
  cases hi : op.init with
  | true =>
    simp only [redIssue, hi, Bool.not_true, Bool.false_and, Bool.or_false, if_true]
    exact (counted_reduction s c _ _ _ _).vdue 8 _
  | false =>
    simp only [redIssue, hi, Bool.not_false, Bool.true_and, Bool.false_eq_true, if_false]
    exact (counted_reduction s c _ _ _ _).vdue 8 _

theorem redSum_issues (s : State) (c : Nat) (op : RedOp) (sq : Bool) :
    let k := getCore s c
    let now := accNow k op.acc
    let r := redWord op.fmt (redOf (faddV op.fmt) zeroV ((redEls k op).map (fun x => match x with
      | some e => if sq then fmul e.2 e.2 else e.2
      | none => zeroV)))
    Issues .coRedIssued s (redSum s c op sq) c 8 (if op.init then .acc op.acc r 0 (redSilt k op)
      else .acc op.acc (redWord op.fmt (faddV op.fmt (redVal op.fmt now.1) (redVal op.fmt r))) now.2.1 (redSilt k op || now.2.2)) :=
  redIssue_issues s c op false _ _

theorem redExt_issues (s : State) (c : Nat) (op : RedOp) (mx : Bool) :
    let k := getCore s c
    let now := accNow k op.acc
    let f := if mx then fmax2 else fmin2
    let r := redOf f (redBig op.fmt mx) ((redEls k op).map (fun x => match x with
      | some e => e.2
      | none => redBig op.fmt mx))
    Issues .coRedIssued s (redExt s c op mx) c 8 (if op.init then .acc op.acc (redWord op.fmt r) 0 (redSilt k op)
      else .acc op.acc (redWord op.fmt (f (redVal op.fmt now.1) r)) now.2.1 (redSilt k op || now.2.2)) := by
  intro k now f r
  exact redIssue_issues s c op false (fun a => (redWord op.fmt (f (redVal op.fmt a.1) r), a.2)) (redWord op.fmt r, 0)

/-- Settles O53: each reduction by what the reduction unit puts in flight for it, and the tree by its first two rows. -/
theorem reductionsFold : Obligations.ReductionsFold := by
  unfold Obligations.ReductionsFold
  refine ⟨fun i sq c op s => ?_, fun i mx c op s => ?_, fun c op s => ?_, fun f d a b c e => rfl⟩
  · intro k now z r hi hr
    simp only [List.mem_cons, Prod.mk.injEq, List.not_mem_nil, or_false] at hi
    obtain ⟨rfl, rfl⟩ | ⟨rfl, rfl⟩ := hi
    · exact completes_of_coreRuns rfl hr (redSum_issues s c op false)
    · exact completes_of_coreRuns rfl hr (redSum_issues s c op true)
  · intro k now f r hi hr
    simp only [List.mem_cons, Prod.mk.injEq, List.not_mem_nil, or_false] at hi
    obtain ⟨rfl, rfl⟩ | ⟨rfl, rfl⟩ := hi
    · exact completes_of_coreRuns rfl hr (redExt_issues s c op true)
    · exact completes_of_coreRuns rfl hr (redExt_issues s c op false)
  · intro k now r b hr
    let put := fun (p : FV × FV) => (fp32Of p.1, fp32Of p.2)
    exact completes_of_coreRuns rfl hr (redIssue_issues s c op true
      (fun a => put (lseFold (fp32Val a.1, fp32Val a.2) r)) (put r))

/-- R126: of two equal maxima, neither NaN, the one of the lower index is the better. -/
theorem argBetter_index_of_equal {x y : FV} (i j : Nat) (hx : x.isNaN = false) (hy : y.isNaN = false) (hxy : x.lt y = false)
    (hyx : y.lt x = false) : (argBetter (x, i) (y, j)).2 = min i j := by
  simp only [argBetter, hx, hy, hxy, hyx, Bool.and_self, Bool.false_eq_true, if_false]
  split
  · rename_i hlt
    exact (Nat.min_eq_right (Nat.le_of_lt hlt)).symm
  · rename_i hge
    exact (Nat.min_eq_left (Nat.le_of_not_lt hge)).symm

/-- Settles O54: the argmax by what the reduction unit puts in flight for it, and its ties by the rule of the better pair. -/
theorem argmaxIndexes : Obligations.ArgmaxIndexes := by
  unfold Obligations.ArgmaxIndexes
  refine ⟨fun c op s => ?_, fun x y i j hx hy hxy hyx => argBetter_index_of_equal i j hx hy hxy hyx⟩
  intro k now none_ r b hr
  let put := fun (p : FV × Nat) => (redWord op.fmt p.1, w32 p.2)
  exact completes_of_coreRuns rfl hr (redIssue_issues s c op false
    (fun a => put (argBetter (redVal op.fmt a.1, a.2.toNat) r)) (put r))

end Sys2Proof.Machine
end
